-- ==== Sys2Proof/Word.lean ====
section
/-! DEFINITION. The word types of the module (01 R8, 00_scope R10) and the sparse tables that State is built of. -/
namespace Sys2Proof

abbrev Byte := BitVec 8
abbrev Half := BitVec 16
abbrev Word := BitVec 32
abbrev Quad := BitVec 64
/-- A multiple of 1/65,536 hour (R382), 48 bits. -/
abbrev Hours := BitVec 48

/-- A sparse table: pairs of key and value, keys strictly rising. -/
abbrev Tab (α : Type) := List (Nat × α)

/-- Memory: `Tab Byte`, that is a list of `Host.Cell`; an unlisted address reads as 0. -/
abbrev Mem := List Host.Cell

end Sys2Proof
end

