-- ==== Sys2Proof/Machine/Types.lean ====
section
/-! DEFINITION. Data types shared by the commands and the state: statuses, records, signed objects, host messages. -/
namespace Sys2Proof

/-- Severity of a code or record (R412), in rising order. -/
inductive Severity | info | warning | error | fatal
  deriving DecidableEq, Repr

def Severity.rank : Severity → Nat
  | .info => 0
  | .warning => 1
  | .error => 2
  | .fatal => 3

inductive RecordType | event | clear | start
  deriving DecidableEq, Repr

/-- One event record (R412); the CRC is computed from the fields, `crcBad` marks a stored record whose CRC fails. -/
structure Record where
  code : Half
  subject : Half
  severity : Severity
  type : RecordType
  repeats : Half
  seq : Word
  powerCycle : Word
  stamp : Hours
  folded : Half
  lastStamp : Hours
  reporter : Half
  detail : Word
  lastDetail : Word
  foldedCode : Half
  crcBad : Bool := false
  deriving DecidableEq, Repr

/-- The operation fields of R453. -/
inductive OpId | repair | desc | alloc | seq | tenant | adapter | job | rread | mbox | load
  deriving DecidableEq, Repr

/-- How a read of host memory by the module ended (R372). -/
inductive ReadEnd | ok | failed | poisoned
  deriving DecidableEq, Repr

/-- The causes of a channel failure (R104), coded in DETAIL of 0x3C11 (R452). -/
inductive FailCause | slice | clock | uncorrectable
  deriving DecidableEq, Repr

/-- Header of a signed object (R402) as the verifier needs it; `keysDigest` is the SHA-384 of its two public keys. -/
structure SignedHdr where
  kind : Nat
  keyIndex : Nat
  svn : Nat
  version : Word
  length : Nat
  segLength : Nat
  keysDigest : BitVec 384
  deriving DecidableEq, Repr

/-- What the cryptographic engine finds on an object (R403): payload hash and the two signatures. -/
structure SigChecks where
  payloadHash : Bool
  rsa : Bool
  slh : Bool
  deriving DecidableEq, Repr

/-- One line of the link plan (R426, LINK_l). -/
structure LinkPlan where
  enable : Bool
  peerNode : Half
  peerLink : BitVec 6
  deriving DecidableEq, Repr

/-- The payload of a configuration image (R426). -/
structure ConfigImage where
  format : Half
  node : Half
  serial : Quad
  order : Byte
  alignDefault : Byte
  thermal : Byte
  dcClock : Byte
  channelMap : List Nat
  releaseMask : List Nat
  operatorKey : BitVec 384
  imageKeys : List (BitVec 384 × Bool)
  links : Tab LinkPlan
  routes : Tab Quad
  reservedZero : Bool
  deriving DecidableEq, Repr

/-- A configuration image as a signed object. -/
structure ConfigObject where
  hdr : SignedHdr
  checks : SigChecks
  image : ConfigImage
  deriving DecidableEq, Repr

/-- A firmware image as a signed object. -/
structure FirmwareObject where
  hdr : SignedHdr
  checks : SigChecks
  deriving DecidableEq, Repr

/-- A log-clear authorisation (R421) as a signed object. -/
structure ClearObject where
  hdr : SignedHdr
  checks : SigChecks
  serial : Quad
  powerCycle : Word
  upTo : Word
  reservedZero : Bool
  deriving DecidableEq, Repr

/-- The level read at a strap pin (R424, R442). -/
inductive StrapLevel | low | unconnected | high
  deriving DecidableEq, Repr

/-- What the world shows the module during a start (R429): strap levels, the boot ROM's samples of both flash sensors, the
channels that fail training, and the units and cores that fail the start test once or twice. -/
structure StartInput where
  bootNvm : StrapLevel
  linkPlan : StrapLevel
  thermalClass : StrapLevel
  orderCompat : StrapLevel
  testMode : StrapLevel
  flash0 : Half
  flash1 : Half
  failedTraining : List Nat
  failedWires : List (Nat × List Nat)
  unitsOnce : List Nat
  unitsTwice : List Nat
  coresOnce : List Nat
  coresTwice : List Nat
  deriving DecidableEq, Repr

/-- One sector as it travels: 32 bytes and its poison mark (R119). -/
structure Sector where
  data : BitVec 256
  poison : Bool
  deriving DecidableEq, Repr

def Sector.zero : Sector := { data := 0, poison := false }
def Sector.poisoned : Sector := { data := 0, poison := true }

/-- A disturbed bit of a sector on a beat: sector of the burst or granule, and its bit 80k + 4s + b (R112). -/
structure BitFlip where
  sector : Nat
  bit : Nat
  deriving DecidableEq, Repr

/-- The errors that the port signals under AER (R367, R370). -/
inductive AerError | malformed | unsupported | poisoned | unexpectedCompletion
  deriving DecidableEq, Repr

/-- A configuration request (R363-R366, R373): identity, a word that the PCI Express specification defines, or a write of one
of the fields that this module acts on. -/
inductive ConfigOp where
  | readId
  | readSubsystem
  | readClass
  | readSerial
  | readOther (word : Nat)
  | busMaster (enable : Bool)
  | power (d3hot : Bool)
  | msix (enable functionMask : Bool)
  | writeOther (word : Nat) (value : Word)
  deriving DecidableEq, Repr

/-- What the module sends on the link or the sideband, in the order sent. -/
inductive HostMsg where
  | msix (vector : Nat) (addr : Quad) (data : Word)
  | write (addr : Quad) (sectors : List Byte) (poisoned : Bool)
  | read (tag : Nat) (addr : Quad) (length : Nat)
  | aer (error : AerError)
  deriving DecidableEq, Repr

/-- The last answer to a request of the host or of the sideband. -/
inductive Answer where
  | none
  | done
  | data (bytes : List Byte)
  | poisoned (length : Nat)
  | unsupported
  | retryStatus
  | nack
  | noDecode
  deriving DecidableEq, Repr

/-- The steps that may be in flight at once (R320). -/
inductive StepId | lc | be | chunk
  deriving DecidableEq, Repr

/-- An entry of the hub tables (R116): a request slot, a sequence with its page table, a tenant. -/
inductive HubEntry | slot (i : Nat) | seq (q : Nat) | tenant (t : Nat)
  deriving DecidableEq, Repr

/-- What an operation met in the hub tables it used (R116): corrected bytes, and an uncorrectable one. -/
structure HubSram where
  corrected : Nat
  bad : Bool
  deriving DecidableEq, Repr

/-- A swap slot as host memory returned it (R284, R285): the identity fields, whether the GCM tag verified, and what it
sealed: the codebook copies and the block. -/
structure SlotImage where
  ended : ReadEnd
  format : Nat
  sequence : Nat
  tenant : Nat
  entry : Nat
  tagOk : Bool
  copies : List (List Byte)
  block : List Byte
  deriving DecidableEq, Repr

end Sys2Proof
end

