-- ==== Sys2Proof/Machine/StateLuthier.lean ====
section
/-! DEFINITION. State of Luthier, the event recorder, the flashes and fuses, the start-up and the supplies (chapters 19 to 22). -/
namespace Sys2Proof.Machine

/-- One operation field of R453: the running bit, the outcome it will write, and the result field. -/
structure OpField where
  busy : Bool := false
  outcome : Half := 0
  result : Half := 0
  taken : Option (List Nat) := none
  deriving DecidableEq, Repr

/-- One open aggregate (R398, R399). -/
structure Aggregate where
  code : Half
  subject : Half
  reporter : Half
  severity : Severity
  repeats : Half
  folded : Half
  foldedCode : Half
  stamp : Hours
  lastStamp : Hours
  detail : Word
  lastDetail : Word
  deriving DecidableEq, Repr

/-- A record in the ring with its flushed mark (R416). -/
structure RingEntry where
  record : Record
  flushed : Bool
  deriving DecidableEq, Repr

/-- The snapshot that the window returns (R419). -/
structure Snapshot where
  record : Record
  isOpen : Bool
  inRing : Bool
  deriving DecidableEq, Repr

/-- The event recorder (R412-R423). -/
structure Recorder where
  ring : List RingEntry := []
  nextSeq : Word := 0
  newestOpen : Bool := false
  flushing : Option (List Word) := none
  flushWaiting : Bool := false
  flushHeld : Bool := false
  snapshot : Option Snapshot := none
  cursor : Word := 0
  dropped : Quad := 0
  overwritten : Quad := 0
  flushes : Quad := 0
  merges : Quad := 0
  deriving DecidableEq, Repr

/-- One copy of the persistent channel map, a programmed page of its region (R95); `mask` lists the channels whose bits are set. -/
structure MapCopy where
  sequence : Nat
  format : Half
  count : Nat
  mask : List Nat
  crc : Word
  deriving DecidableEq, Repr

/-- A firmware slot of flash 0 or 1 (R379, R404). -/
structure FwSlot where
  object : Option FirmwareObject := none
  updateSeq : Nat := 0
  tried : Bool := false
  bootOk : Bool := false
  deriving DecidableEq, Repr

/-- What survives power loss: both flashes (R379), the fuse bank (R382) and the identity written at manufacture. `map0` and `map1`
are the programmed pages of the two regions of the persistent map, the oldest first, at most sixteen (R95). -/
structure Nvm where
  slotA : FwSlot := {}
  slotB : FwSlot := {}
  config : Option ConfigObject := none
  map0 : List MapCopy := [{ sequence := 1, format := 1, count := 0, mask := [], crc := 0x9fe9525e }]
  map1 : List MapCopy := [{ sequence := 0, format := 1, count := 0, mask := [], crc := 0xb8391662 }]
  log : List Record := []
  opHours : Hours := 0
  powerCycles : Word := 0
  fuseKeys : List (BitVec 384 × Bool) := []
  fusesBlown : Nat := 0
  serial : Quad := 0
  deriving DecidableEq, Repr

/-- A write to the NVM held by the temperature rule, in the order of R393; a log clear stands with the flushes of the log it
clears (DESIGN CHOICE, log entry 105). -/
inductive HeldWrite | map | log | clear | hours | firmware | config
  deriving DecidableEq, Repr

/-- One housekeeping channel (R384-R387, R391). -/
structure Reading where
  raw : Half := 0
  valid : Bool := false
  broken : Bool := false
  deviating : Nat := 0
  substitute : Int := 0
  previous : Option Int := none
  warned : Bool := false
  deriving DecidableEq, Repr

/-- Heat of one tile (R388-R390). -/
structure TileHeat where
  hotDram : BitVec 12 := 0
  hotCompute : BitVec 12 := 0
  tripped : Bool := false
  fraction : Nat := 16
  deriving DecidableEq, Repr

/-- One measurement entry (R406). -/
structure Measurement where
  type : Byte
  tenant : Byte
  index : Half
  version : Half
  digest : BitVec 384
  deriving DecidableEq, Repr

/-- Who is tested: the sixteen units of a channel, one unit, or a core (R394, R401). -/
inductive TestSubject | channel (c : Nat) | unit (u : Nat) | core (g : Nat)
  deriving DecidableEq, Repr

/-- A test forced or in progress (R395, R396): why it runs, whether it is the repeat, and the parts that failed first. -/
structure TestRun where
  subject : TestSubject
  reason : Nat
  isRepeat : Bool
  byMailbox : Bool
  firstFailed : List Nat := []
  deriving DecidableEq, Repr

/-- Luthier (R382-R410). -/
structure Luthier where
  mboxCmd : Byte := 0
  mboxArg0 : Quad := 0
  mboxArg1 : Quad := 0
  mboxArg2 : Quad := 0
  mboxArg3 : Quad := 0
  mbox : OpField := {}
  data : Mem := []
  recordEvent : Bool := false
  aggEvent : Bool := false
  aggWindow : Word := 0x3E8
  folded : Quad := 0
  rounds : Quad := 0
  testsRun : Quad := 0
  opHours : Hours := 0
  powerCycles : Word := 0
  powerLimit : Half := 0x0960
  modulePower : Half := 0
  powerFraction : Nat := 16
  readings : Tab Reading := []
  heat : Tab TileHeat := []
  fencedUnits : List Nat := []
  aggregates : List Aggregate := []
  held : List HeldWrite := []
  measurements : List Measurement := []
  report : List Byte := []
  sidebandCounter : Nat := 0
  entropyOk : Bool := true
  keysDrawn : Bool := false
  tests : List TestRun := []
  forced : List TestRun := []
  lastPass : Tab Hours := []
  lastTest : Tab Hours := []
  startTest : Hours := 0
  roundsNoRise : Nat := 0
  allTripped : Bool := false
  runningSlotB : Bool := false
  pendingFirmware : Option FirmwareObject := none
  pendingConfig : Option ConfigObject := none
  pendingClear : Option Word := none
  readBackOk : Bool := true
  eraseMap : Bool := false
  bootSample0 : Half := 0
  bootSample1 : Half := 0
  deriving DecidableEq, Repr

/-- The hub global registers of the start (R429-R439) and the configuration in force. -/
structure Startup where
  state : Nat := 0
  unconfigured : Bool := false
  thermalClass : Nat := 0
  dcClock : Nat := 0
  alignDefault : Bool := false
  startCode : Half := 0
  straps : BitVec 10 := 0
  configVersion : Word := 0
  startMs : Word := 0
  config : Option ConfigImage := none
  perstLow : Bool := true
  starting : Bool := false
  stopped : Bool := false
  deriving DecidableEq, Repr

/-- A supply feed (R446, R447). -/
structure Feed where
  accepted : Bool := false
  lostOnce : Bool := false
  deriving DecidableEq, Repr

/-- Supplies, service state and laser sockets (R442-R448). -/
structure Supplies where
  feedA : Feed := {}
  feedB : Feed := {}
  sampled : Bool := false
  service : Bool := false
  deriving DecidableEq, Repr

end Sys2Proof.Machine
end

