-- ==== Sys2Proof/Machine/TypesFabric.lean ====
section
/-! DEFINITION. Flits of the optical fabric as they arrive (R342, R343). -/
namespace Sys2Proof

/-- A flit after the FEC decoder: the header fields of R342, reserved ones among them (`reserved0` bits [3:0] of word 0, `reserved3`
bits [63:32] of word 3), the data sectors, and whether no codeword that it overlaps was uncorrectable (R340). -/
structure Flit where
  type : Nat := 0
  op : Nat := 0
  seq : Nat := 0
  ack : Nat := 0
  retryReq : Bool := false
  poison : BitVec 7 := 0
  sectors : Nat := 0
  creditClass : Nat := 3
  credits : Nat := 0
  hops : Nat := 0
  dest : Nat := 0
  src : Nat := 0
  tenant : Nat := 0
  tag : Nat := 0
  word2 : Quad := 0
  reserved0 : Nat := 0
  reserved3 : Word := 0
  crc : Word := 0
  data : List (BitVec 256) := []
  fecOk : Bool := true
  deriving DecidableEq, Repr

/-- R342: fields of word 2. -/
def Flit.address (f : Flit) : Nat := f.word2.toNat / 2 ^ 24
def Flit.scratch (f : Flit) : Bool := f.word2.getLsbD 23
def Flit.collId (f : Flit) : Nat := f.word2.toNat / 2 ^ 48
def Flit.stage (f : Flit) : Nat := f.word2.toNat / 2 ^ 40 % 256
def Flit.element (f : Flit) : Nat := f.word2.toNat / 2 ^ 16 % 2 ^ 24
def Flit.round (f : Flit) : Nat := f.word2.toNat % 65536
def Flit.status (f : Flit) : Half := f.word2.extractLsb' 0 16

/-- R342: words 0 and 1 of the header. -/
def Flit.word0 (f : Flit) : Nat :=
  f.type * 2 ^ 60 + f.op * 2 ^ 56 + f.seq * 2 ^ 44 + f.ack * 2 ^ 32 + (if f.retryReq then 2 ^ 31 else 0) + f.poison.toNat * 2 ^ 24 +
    f.sectors * 2 ^ 21 + f.creditClass * 2 ^ 19 + f.credits * 2 ^ 8 + f.hops * 2 ^ 4 + f.reserved0
def Flit.word1 (f : Flit) : Nat := f.dest * 2 ^ 48 + f.src * 2 ^ 32 + f.tenant * 2 ^ 24 + f.tag

/-- R342: the bits of word 2 that a type does not use. -/
def Flit.unusedWord2 (f : Flit) : Nat :=
  let w := f.word2.toNat
  match f.type, f.op with
  | 1, _ | 2, _ | 4, _ => w % 2 ^ 23 + (if f.scratch then w / 2 ^ 56 else 0)
  | 3, _ | 5, 1 => w / 2 ^ 16
  | 6, _ => 0
  | 7, 1 => w / 2 ^ 28
  | _, _ => w

/-- R342: fields that the type does not use are zero; a READ carries no data sectors. -/
def Flit.unusedZero (f : Flit) : Bool :=
  let n := if f.type = 2 then 0 else f.sectors
  f.reserved0 == 0 && f.reserved3 == 0 && f.unusedWord2 == 0 && f.poison.toNat / 2 ^ n == 0 && (f.data.drop n).all (· == 0) &&
    (f.type != 0 || f.seq + f.dest + f.src + f.tenant + f.tag + f.hops == 0)

end Sys2Proof
end

