-- ==== Sys2Proof/Machine/TypesImage.lean ====
section
/-! DEFINITION. Gristad and adapter images as the host port delivers them (R267, R301, R323, R328, R347, R349, R352, R432). -/
namespace Sys2Proof

/-- Page format of one layer and kind (R267). -/
structure PageFmt where
  fmt : Nat
  cb : Nat
  scaleCtl : Nat
  table : Nat
  deriving DecidableEq, Repr

/-- The attention phrases of one page codebook (R267): start addresses. -/
structure AttnPhrases where
  cb : Nat
  score : Nat
  value0 : Nat
  value1 : Nat
  deriving DecidableEq, Repr

/-- The cache declaration (R267); `pages` in the order 2l + kv, `reserve` the record number of the reserve. -/
structure CacheDecl where
  layers : Nat
  heads : Nat
  qheads : Nat
  pages : List PageFmt
  minWindow : Nat
  decode : List Bool
  pageBytes : Nat
  headerBytes : Nat
  sequences : Nat
  maxBlocks : Nat
  blocks : Nat
  attnFactor : Word
  ssegBase : Nat
  phrases : List AttnPhrases
  reserve : Nat
  deriving DecidableEq, Repr

/-- A job entry (R323): solo times of its steps in 1/256 µs, its largest MOVE, what pre-emption saves, and the cores its
programs run on. -/
structure JobDecl where
  entry : Nat
  steps : List Nat
  maxMove : Nat
  savesStaging : Bool
  savesUnits : Bool
  cores : List Nat
  deriving DecidableEq, Repr

/-- An inbound window (R347). -/
structure WindowDecl where
  base : Nat
  size : Nat
  scratch : Bool
  tenant : Nat
  read : Bool
  write : Bool
  atomic : Bool
  deriving DecidableEq, Repr

/-- An export window (R349). -/
structure ExportDecl where
  tile : Nat
  offset : Nat
  size : Nat
  atomic : Bool
  dest : Nat
  remoteBase : Nat
  scratch : Bool
  deriving DecidableEq, Repr

/-- One slice of a collective (R352). -/
structure SliceDecl where
  first : Nat
  home : Nat
  parent : Nat
  stage : Nat
  children : List Nat
  deriving DecidableEq, Repr

/-- A collective (R352); `format` 0 FP32, 1 bfloat16. -/
structure CollDecl where
  id : Nat
  width : Nat
  isMax : Bool
  format : Nat
  members : List Nat
  slices : List SliceDecl
  maxPath : Nat
  deriving DecidableEq, Repr

/-- An expert-map entry (R190). -/
structure ExpertDecl where
  expert : Nat
  gateUp : Nat
  down : Nat
  masks : List Half
  deriving DecidableEq, Repr

/-- The adapter that a job entry trains (R69, R333): the bfloat16 master weights at module address `source`, channel by channel, and
what the slot serves: the codebook, the byte offsets of the codes and of the scales with their flag words. -/
structure TrainDecl where
  entry : Nat
  source : Nat
  channels : Nat
  perChannel : Nat
  codebook : Nat
  codesAt : Nat
  scalesAt : Nat
  deriving DecidableEq, Repr

/-- A declaration block of a DECLARATIONS segment (R432); `coreEntry` an entry address of a core (R203), `half` the half that a product
of 2 to 8 positions runs in (R18). -/
inductive Decl where
  | cache (c : CacheDecl)
  | draft (layer0 : Nat)
  | vocabulary (v : Nat)
  | solo (t base perBlock : Nat)
  | chunkSolo (estimate : Nat)
  | job (j : JobDecl)
  | saveArea (tile record : Nat)
  | collective (c : CollDecl)
  | window (w : WindowDecl)
  | exportWindow (e : ExportDecl)
  | expert (tile : Nat) (e : ExpertDecl)
  | destination (tile entry : Nat) (words : List Quad)
  | mvsRecord (number : Nat) (bytes : List Byte)
  | pushes (core entry collector sectors width : Nat)
  | adapters (slotBytes : Nat) (records : List Nat)
  | corePlan (cores : List Nat)
  | coreEntry (core entry : Nat)
  | half (reduction : Nat) (dense : Bool)
  | training (x : TrainDecl)
  deriving DecidableEq, Repr

/-- An allocation record of a manifest (R432). -/
structure AllocRecord where
  base : Nat
  scratch : Bool
  size : Nat
  tenant : Nat
  isSealed : Bool
  readOnly : Bool
  deriving DecidableEq, Repr

/-- A segment as it arrived (R432): its record, its bytes, whether its hash agrees, its declarations, and for OBJECTS the
objects, in the order in which they lie, whether it is a scale table. -/
structure Segment where
  kind : Nat
  target : Nat
  offset : Nat
  length : Nat
  hashOk : Bool
  bytes : List Byte
  decls : List Decl
  declsOk : Bool
  tables : List Bool := []
  deriving DecidableEq, Repr

/-- The manifest of an image (R432). -/
structure Manifest where
  format : Nat
  builtL : Nat
  tenant : Nat
  serves : Bool
  compat : Bool
  phrases : Bool
  reservedZero : Bool
  mpBase : Nat
  mpWords : Nat
  cbMask : Half
  tableMask : Byte
  freq : Bool
  scaleBase : Nat
  scaleWords : Nat
  lbBase : Nat
  lbSectors : Nat
  destBase : Nat
  destCount : Nat
  adapterSlots : Nat
  imBase : Nat
  imCount : Nat
  coreMask : BitVec 128
  allocs : List AllocRecord
  segments : List Segment
  deriving DecidableEq, Repr

/-- A Gristad or adapter image as an object in host memory (R432). -/
structure ImageObject where
  hdr : SignedHdr
  checks : SigChecks
  length : Nat
  manifest : Manifest
  deriving DecidableEq, Repr

end Sys2Proof
end

