-- ==== Sys2Proof/Machine/TypesNear.lean ====
section
/-! DEFINITION. What the controller's plan tells collectors and owners about a sector or a delivery (R156, R159, R287, R289). -/
namespace Sys2Proof

/-- Where an owner's results go (R159): only kept (a window is observed), to every tile for its broadcasts (R21), to one tile
(R184), into every tile's scratchpad as the tensor of descriptor `desc` lies there (R31, R222), to the sampling unit as the logits of a
position, as the key or value append at a position of a sequence of a vector whose element `base` is channel 0 (R278; `opening` the
positions of the opening append), or as the module partials of a slice of a collective (R353). -/
inductive DeliverTo where
  | keep
  | broadcast
  | tile (t : Nat)
  | banks (desc : Nat)
  | hub (position : Nat)
  | append (seq position layer kind base : Nat) (opening : Option Nat)
  | collective (id : Nat)
  deriving DecidableEq, Repr

/-- The record of a delivery (R20, R41, R159): the reduction, the number of the vector that its results form and its width, the
elements, the slot offsets of the tile's slices of the rescale table and of the residual where they are used, whether the
result becomes the new residual (R23), output format (0 FP32, 1 bfloat16), rounding field 01, rotation, table, statistics. -/
structure Delivery where
  reduction : Nat
  vector : Nat
  width : Nat
  first : Nat
  count : Nat
  rescaleAt : Option Nat
  residualAt : Option Nat
  setsResidual : Bool
  format : Nat
  towardZero : Bool
  rotate : Option Nat
  table : Option Nat
  observe : Bool
  statsBase : Nat
  goesTo : DeliverTo
  deriving DecidableEq, Repr

/-- How the reading collector completes a tag: group number and key block (R287), or h × QHEADS and value group (R289). -/
structure TagPlan where
  a : Nat := 0
  b : Nat := 0
  deriving DecidableEq, Repr

/-- An attention phrase (R286): sequence, position, page index, layer and head; a score phrase of key block `part`, or the first or
second value phrase of the granule of value group `part`; before the first score phrase of a position on a unit, the vector
and the first element of the query group to broadcast. -/
structure AttnPlan where
  seq : Nat
  position : Nat
  page : Nat
  layer : Nat
  head : Nat
  part : Nat
  value : Bool
  second : Bool
  query : Option (Nat × Nat)
  deriving DecidableEq, Repr

/-- What the step plan says of a phrase (R25, R150, R156, R158, R190, R286): the reduction it belongs to, with its width and mode; the
elements that each unit's phrase declares; the vector that its input segments must hold; how its tags are completed; and, for a
phrase of an expert, the expert and whether it is the down phrase; or the attention phrase that it is; and the cores whose releases
must be complete before it (R258). -/
structure PhrasePlan where
  reduction : Nat
  width : Nat
  isMax : Bool
  declared : List (Nat × List Nat)
  vector : Nat
  tag : TagPlan
  expert : Option (Nat × Bool)
  attn : Option AttnPlan
  after : List Nat := []
  deriving DecidableEq, Repr

/-- A broadcast as the step plan gives it (R25, R159): the vector it carries a burst of, the first of its finished elements, and
whether the segment then holds the vector's part whole. -/
structure BcastPlan where
  vector : Nat
  first : Nat
  closes : Bool
  deriving DecidableEq, Repr

/-- Where a lane of ARG_WRITE comes from: the step plan, two elements of a finished vector (normalisation scales, R23), or the
weights of an expert for two positions (R191). -/
inductive ArgLane where
  | plan (q : Quad)
  | results (vector low high : Nat)
  | weights (expert position : Nat)
  deriving DecidableEq, Repr

/-- Where the beats of STORE_LOAD come from: the image or a saved state, a list region of stacked memory (R180), or the
combined elements of a scatter-add, a finished vector in bfloat16 or FP32 (R184). -/
inductive StoreSource where
  | plan (xs : List Sector)
  | memory (a : Nat)
  | results (vector first : Nat) (half : Bool)
  deriving DecidableEq, Repr

end Sys2Proof
end

