-- ==== Sys2Proof/Syntax.lean ====
section
/-! DEFINITION. The commands: one constructor of `Instr` for each row of spec/opcode_table.json, in the order of the table. No row has
bits, so the operands are the model's own: the parts the row's rule names (a tile `t`, a channel `c` of 512, a unit `u` of 8,192, a core
`g` of 128, a collector `kk` of 32, a link `l`), and what the world outside decides (disturbed bits, sensor values, how a read of host
memory ended, `at_` the time in microseconds since the start). -/
namespace Sys2Proof

inductive Instr
  /-- REGISTER_WRITE (R10). -/
  | registerWrite (o : BitVec 24) (v : Quad) (eight ep : Bool)
  /-- BAR0_ACCESS_ERROR (R367). -/
  | bar0AccessError (write : Bool)
  /-- BAR2_READ (R368). -/
  | bar2Read (o : BitVec 36) (n : Nat)
  /-- BAR2_WRITE (R368). -/
  | bar2Write (o : BitVec 36) (d : List (Option Byte)) (ep : Bool)
  /-- BAR4_READ (R226). -/
  | bar4Read (a : BitVec 32) (n : Nat) (corrected wrong : List Nat)
  /-- BAR4_WRITE (R226). -/
  | bar4Write (a : BitVec 32) (d : List (Option Byte)) (ep : Bool)
  /-- ARB_GRANT (R220). -/
  | arbGrant (t : Fin 8) (b : Fin 20) (waited conflicts : Nat)
  /-- SRAM_WRITEBACK (R116). -/
  | sramWriteback (a : Nat)
  /-- CONFIG_REQUEST (R365). -/
  | configRequest (o : ConfigOp)
  /-- CONVENTIONAL_RESET (R365). -/
  | conventionalReset (perst : Bool) (limit : Nat)
  /-- LINK_DOWN (R365). -/
  | linkDown
  /-- MALFORMED_TLP (R370). -/
  | malformedTlp (completion : Bool)
  /-- UNSUPPORTED_REQUEST (R370). -/
  | unsupportedRequest
  /-- COMPLETION_ARRIVE (R372). -/
  | completionArrive (tag : Nat) (e : ReadEnd) (bs : List Byte)
  /-- HOST_READ_TIMEOUT (R372). -/
  | hostReadTimeout (tag : Nat)
  /-- MSIX_UNMASK (R373). -/
  | msixUnmask (v : Fin 64)
  /-- DMA_ARM (R375). -/
  | dmaArm (j : Fin 64) (w : Quad)
  /-- DMA_START (R375). -/
  | dmaStart
  /-- DMA_COMPLETE (R376). -/
  | dmaComplete (j : Fin 64)
  /-- SWAP_REGISTER_WRITE (R377). -/
  | swapRegisterWrite (size : Bool) (v : Quad)
  /-- ACT (R75). -/
  | act (c : Fin 512) (b : Fin 32) (row : BitVec 15)
  /-- RD (R75). -/
  | rd (c : Fin 512) (b : Fin 32) (burst : Fin 8) (autoPrecharge : Bool) (inner : Nat) (arrayFlips wireFlips : List BitFlip)
  /-- WR (R75). -/
  | wr (c : Fin 512) (b : Fin 32) (burst : Fin 8) (mask : BitVec 8) (autoPrecharge : Bool) (sectors : List Sector)
  /-- PRE (R75). -/
  | pre (c : Fin 512) (b : Fin 32) (half : Fin 2)
  /-- REF (R81). -/
  | ref (c : Fin 512) (b : Fin 32)
  /-- REFRESH_DUE (R80). -/
  | refreshDue (c : Fin 512) (b : Fin 32) (odd : Bool)
  /-- SECTOR_REREAD (R117). -/
  | sectorReread (index : Nat) (inner : Nat) (arrayFlips wireFlips : List BitFlip)
  /-- REPAIR_GO (R127). -/
  | repairGo
  /-- DRONE_READ (R125). -/
  | droneRead (c : Fin 512) (inner : Nat) (arrayFlips wireFlips : List BitFlip)
  /-- PATROL_OVERDUE (R124). -/
  | patrolOverdue (c : Fin 512)
  /-- FREE_FILL_DONE (R129). -/
  | freeFillDone
  /-- WAVE_START (R99). -/
  | waveStart
  /-- SLICE_START (R100). -/
  | sliceStart (c : Fin 512) (enough : Bool)
  /-- SLICE_END (R101). -/
  | sliceEnd (c : Fin 512) (unusable : List Nat) (verified : Bool)
  /-- ENTER_TRAIN (R102). -/
  | enterTrain (c : Fin 512) (inner : Nat)
  /-- PATTERN_WRITE (R102). -/
  | patternWrite (c : Fin 512) (wire : Fin 328) (seed : BitVec 9)
  /-- PATTERN_READ (R102). -/
  | patternRead (c : Fin 512) (wire : Fin 328) (seed : BitVec 9)
  /-- SET_DELAY (R102). -/
  | setDelay (c : Fin 512) (wire : Fin 328) (delay : Byte)
  /-- SPARE_MAP (R102). -/
  | spareMap (c : Fin 512) (wire : Fin 320) (spare : Fin 8)
  /-- EXIT_TRAIN (R102). -/
  | exitTrain (c : Fin 512)
  /-- CHANNEL_FAIL (R104). -/
  | channelFail (c : Fin 512) (cause : FailCause)
  /-- MAP_REGION_ERASE (R95). -/
  | mapRegionErase
  /-- START_PHRASE (R139). -/
  | startPhrase (c : Fin 512) (all : Bool) (n : Fin 16) (addr : Fin 512) (p : PhrasePlan)
  /-- ARG_WRITE (R142). -/
  | argWrite (c : Fin 512) (all : Bool) (n : Fin 16) (half : Fin 2) (skip : BitVec 4) (lanes : List ArgLane)
  /-- BCAST (R146). -/
  | bcast (c : Fin 512) (all : Bool) (n : Fin 16) (mode : Fin 4) (slot : Fin 8) (dest : Fin 256) (p : BcastPlan)
  /-- STORE_LOAD (R139). -/
  | storeLoad (c : Fin 512) (all : Bool) (n : Fin 16) (store : Fin 8) (burst : Fin 1024) (src : StoreSource)
  /-- POS_WRITE (R147). -/
  | posWrite (c : Fin 512) (all : Bool) (n : Fin 16) (lanes : List Word)
  /-- MAIL_WRITE (R152). -/
  | mailWrite (c : Fin 512) (n : Fin 16) (slot : Fin 16)
  /-- OB_READ_OUTPUT (R140). -/
  | obReadOutput (c : Fin 512) (n : Fin 16) (count : Fin 8)
  /-- STATUS_READ (R143). -/
  | statusRead (c : Fin 512) (n : Fin 16)
  /-- OB_READ_SAVED_STATE (R140). -/
  | obReadSavedState (c : Fin 512) (n : Fin 16) (burst : Fin 144)
  /-- OB_READ_RELAY (R152). -/
  | obReadRelay (c : Fin 512) (n : Fin 16)
  /-- PHRASE_COMMIT (R137). -/
  | phraseCommit (u : Fin 8192)
  /-- PHRASE_HOLD_END (R83). -/
  | phraseHoldEnd (u : Fin 8192)
  /-- MESSAGE_ARRIVE (R153). -/
  | messageArrive (index : Nat) (corrected : Nat) (badWords : List Nat)
  /-- CHAIN_FALLBACK (R152). -/
  | chainFallback (index : Nat)
  /-- DIE_BUS_GRANT_TIMEOUT (R154). -/
  | dieBusGrantTimeout (d : Fin 128)
  /-- PHRASE (R165). -/
  | phrase (u : Fin 8192)
  /-- JUMP (R164). -/
  | jump (u : Fin 8192)
  /-- LOOP (R164). -/
  | microLoop (u : Fin 8192)
  /-- END (R164). -/
  | microEnd (u : Fin 8192)
  /-- SETI (R165). -/
  | seti (u : Fin 8192)
  /-- ALU (R165). -/
  | alu (u : Fin 8192)
  /-- LDL (R165). -/
  | ldl (u : Fin 8192) (corrected : Nat) (wrong : List Nat)
  /-- MVS (R167). -/
  | mvs (u : Fin 8192) (inner : Nat) (flips : List BitFlip)
  /-- SCORE (R168). -/
  | score (u : Fin 8192) (inner : Nat) (flips : List BitFlip)
  /-- VALUE (R168). -/
  | value (u : Fin 8192) (inner : Nat) (flips : List BitFlip)
  /-- PICK (R169). -/
  | pick (u : Fin 8192) (inner : Nat) (flips : List BitFlip)
  /-- ADDBACK (R169). -/
  | addback (u : Fin 8192) (inner : Nat) (flips : List BitFlip)
  /-- WSTREAM (R169). -/
  | wstream (u : Fin 8192)
  /-- SQSUM (R170). -/
  | sqsum (u : Fin 8192)
  /-- SEND (R170). -/
  | send (u : Fin 8192)
  /-- RECV (R153). -/
  | recv (u : Fin 8192)
  /-- COLLECTOR_SECTOR (R156). -/
  | collectorSector (kk : Fin 32) (tagPoisoned : Bool)
  /-- PROBE_COMPLETE (R185). -/
  | probeComplete (kk : Fin 32) (e : Fin 4096)
  /-- MERGE_COMPLETE (R186). -/
  | mergeComplete (kk : Fin 32) (e : Fin 4096)
  /-- COLLECTOR_NARROW (R158). -/
  | collectorNarrow (kk : Fin 32)
  /-- OWNER_DELIVER (R41). -/
  | ownerDeliver (t : Fin 8) (d : Delivery)
  /-- SCORE_BURST_SEND (R288). -/
  | scoreBurstSend (kk : Fin 32) (g : Fin 4096) (j : Fin 16) (layer : Nat) (p : BcastPlan)
  /-- PACKET_MERGE (R290). -/
  | packetMerge (index : Nat) (t : Fin 8) (total vector : Nat)
  /-- EMBEDDING_LOOKUP (R188). -/
  | embeddingLookup (entry : Nat) (tokens : List Nat) (section_ base groups slot table reduction width : Nat)
  /-- EXPERT_SELECT (R189). -/
  | expertSelect (t : Fin 8) (k position vector first count : Nat)
  /-- CORE_START (R203). -/
  | coreStart (g : Fin 128) (entry : Fin 4096) (args : List Word) (reduction tenant : Nat)
  /-- MOVE (R200). -/
  | move (g : Fin 128) (bad : Bool)
  /-- MOVE_COMPLETE (R263). -/
  | moveComplete (t : Fin 8)
  /-- WAITC (R200). -/
  | waitc (g : Fin 128) (bad : Bool)
  /-- SALU (R200). -/
  | salu (g : Fin 128) (bad : Bool)
  /-- BR (R200). -/
  | br (g : Fin 128) (bad : Bool)
  /-- CORE_END (R200). -/
  | coreEnd (g : Fin 128) (bad : Bool)
  /-- WLOAD (R197). -/
  | wload (g : Fin 128) (bad : Bool) (corrected : Nat) (wrong : List Nat)
  /-- MMA (R196). -/
  | mma (g : Fin 128) (bad : Bool)
  /-- PUSH (R204). -/
  | push (g : Fin 128) (bad : Bool)
  /-- STOREA (R204). -/
  | storea (g : Fin 128) (bad : Bool)
  /-- CLRA (R200). -/
  | clra (g : Fin 128) (bad : Bool)
  /-- VOP_ADD (R201). -/
  | vopAdd (g : Fin 128) (bad : Bool)
  /-- VOP_MUL (R201). -/
  | vopMul (g : Fin 128) (bad : Bool)
  /-- VOP_FMA (R201). -/
  | vopFma (g : Fin 128) (bad : Bool)
  /-- VOP_MAX (R201). -/
  | vopMax (g : Fin 128) (bad : Bool)
  /-- VOP_TABLE (R201). -/
  | vopTable (g : Fin 128) (bad : Bool)
  /-- VOP_EXPSUB (R201). -/
  | vopExpsub (g : Fin 128) (bad : Bool)
  /-- VOP_ROWMAX (R201). -/
  | vopRowmax (g : Fin 128) (bad : Bool)
  /-- VOP_ROWSUM (R201). -/
  | vopRowsum (g : Fin 128) (bad : Bool)
  /-- VOP_CAUSAL (R201). -/
  | vopCausal (g : Fin 128) (bad : Bool)
  /-- VOP_RSQRT (R201). -/
  | vopRsqrt (g : Fin 128) (bad : Bool)
  /-- VOP_CONVERT (R201). -/
  | vopConvert (g : Fin 128) (bad : Bool)
  /-- LDM (R200). -/
  | ldm (g : Fin 128) (bad : Bool) (badLines : List Nat)
  /-- STM (R200). -/
  | stm (g : Fin 128) (bad : Bool)
  /-- XFER (R200). -/
  | xfer (g : Fin 128) (bad : Bool) (corrected wrong : List Nat)
  /-- FENCE_RELEASE (R253). -/
  | fenceRelease (g : Fin 128) (bad : Bool)
  /-- FENCE_ACQUIRE (R255). -/
  | fenceAcquire (g : Fin 128) (bad : Bool)
  /-- WAIT_LIMIT_EXPIRY (R206). -/
  | waitLimitExpiry (g : Fin 128)
  /-- DESC_CREATE (R242). -/
  | descCreate
  /-- DESC_DESTROY (R242). -/
  | descDestroy
  /-- DESC_READ (R242). -/
  | descRead
  /-- ALLOC_CREATE (R232). -/
  | allocCreate
  /-- ALLOC_FREE (R232). -/
  | allocFree
  /-- ALLOC_QUERY (R246). -/
  | allocQuery
  /-- HOST_RELEASE_MODULE (R260). -/
  | hostReleaseModule
  /-- HOST_RELEASE_SYSTEM (R260). -/
  | hostReleaseSystem
  /-- RELEASE_COMPLETE (R264). -/
  | releaseComplete (i : Nat)
  /-- SEQ_CREATE (R277). -/
  | seqCreate (h : HubSram)
  /-- SEQ_FORK (R277). -/
  | seqFork (h : HubSram)
  /-- SEQ_RELEASE (R276). -/
  | seqRelease (h : HubSram)
  /-- SEQ_QUERY (R277). -/
  | seqQuery (h : HubSram)
  /-- SWAP_OUT (R283). -/
  | swapOut
  /-- SWAP_OUT_DONE (R276). -/
  | swapOutDone (q : Fin 65536)
  /-- SWAP_IN (R285). -/
  | swapIn (q : Fin 65536) (x : SlotImage)
  /-- SWAP_IN_DONE (R276). -/
  | swapInDone (q : Fin 65536)
  /-- BLOCK_FILL_DONE (R282). -/
  | blockFillDone (n : Nat)
  /-- ARM (R296). -/
  | arm (i : Fin 4096) (w : Quad) (h : HubSram)
  /-- CANCEL (R306). -/
  | cancel (i : Fin 4096) (w : Quad) (h : HubSram)
  /-- ADMISSION_DONE (R298). -/
  | admissionDone (i : Fin 4096) (h : HubSram)
  /-- STEP_SELECT (R321). -/
  | stepSelect (be : Bool) (h : HubSram)
  /-- PREFILL_CHUNK_SELECT (R321). -/
  | prefillChunkSelect (count : Nat)
  /-- SAMPLE (R303). -/
  | sample (be : Bool) (p : Fin 8) (draft : Bool)
  /-- STEP_COMPLETE (R299). -/
  | stepComplete (be : Bool) (badOutputs : List Nat)
  /-- STEP_FAIL (R308). -/
  | stepFail (w : StepId) (code : Half)
  /-- DEADLINE (R307). -/
  | deadline (i : Fin 4096) (at_ : Nat)
  /-- CLOSE_RECORD_WRITTEN (R298). -/
  | closeRecordWritten (i : Fin 4096)
  /-- TENANT_ENABLE (R314). -/
  | tenantEnable (t : Byte) (h : HubSram)
  /-- TENANT_DISABLE (R314). -/
  | tenantDisable (t : Byte) (h : HubSram)
  /-- REFILL (R318). -/
  | refill
  /-- SLOWDOWN_WINDOW_CLOSE (R328). -/
  | slowdownWindowClose
  /-- JOB_START (R324). -/
  | jobStart
  /-- JOB_STOP (R324). -/
  | jobStop
  /-- JOB_RUN (R324). -/
  | jobRun (j : Fin 8)
  /-- JOB_STEP_END (R324). -/
  | jobStepEnd (j : Fin 8) (code : Half)
  /-- JOB_PREEMPT (R325). -/
  | jobPreempt (j : Fin 8) (ticks : Half)
  /-- JOB_SAVE_DONE (R324). -/
  | jobSaveDone (j : Fin 8) (ticks : Half)
  /-- JOB_RESTORE (R324). -/
  | jobRestore (j : Fin 8) (at_ : Nat)
  /-- JOB_RESTORE_DONE (R324). -/
  | jobRestoreDone (j : Fin 8)
  /-- ADAPTER_LOAD (R333). -/
  | adapterLoad (t : Byte) (ended : ReadEnd) (x : ImageObject)
  /-- ADAPTER_INSTALL (R333). -/
  | adapterInstall (t : Byte)
  /-- ADAPTER_RETIRE (R333). -/
  | adapterRetire (t : Byte)
  /-- ADAPTER_FILL_DONE (R330). -/
  | adapterFillDone (a : Fin 1024)
  /-- WRITE (R348). -/
  | fabricWrite (l : Fin 36) (f : Flit) (at_ : Nat)
  /-- READ (R348). -/
  | fabricRead (l : Fin 36) (f : Flit) (at_ : Nat)
  /-- READ_RESPONSE (R343). -/
  | readResponse (l : Fin 36) (f : Flit) (at_ : Nat)
  /-- ATOMIC_ADD (R348). -/
  | atomicAdd (l : Fin 36) (f : Flit) (at_ : Nat)
  /-- FENCE_REQUEST (R350). -/
  | fenceRequest (l : Fin 36) (f : Flit) (at_ : Nat)
  /-- FENCE_ACK (R350). -/
  | fenceAck (l : Fin 36) (f : Flit) (at_ : Nat)
  /-- COLLECTIVE_SUM (R353). -/
  | collectiveSum (l : Fin 36) (f : Flit) (at_ : Nat)
  /-- COLLECTIVE_MAX (R353). -/
  | collectiveMax (l : Fin 36) (f : Flit) (at_ : Nat)
  /-- COLLECTIVE_RESULT (R353). -/
  | collectiveResult (l : Fin 36) (f : Flit) (at_ : Nat)
  /-- HELLO (R359). -/
  | hello (l : Fin 36) (f : Flit) (at_ : Nat)
  /-- NAK (R357). -/
  | nak (l : Fin 36) (f : Flit) (at_ : Nat)
  /-- TUNE (R354). -/
  | tune (l : Fin 36) (f : Flit) (at_ : Nat)
  /-- DRAIN (R358). -/
  | drain (l : Fin 36) (f : Flit) (at_ : Nat)
  /-- IDLE (R343). -/
  | idle (l : Fin 36) (f : Flit) (at_ : Nat)
  /-- RETRY_REQ_REPEAT (R345). -/
  | retryReqRepeat (l : Fin 36)
  /-- REPLAY_TIMEOUT (R345). -/
  | replayTimeout (l : Fin 36)
  /-- TUNE_PERIOD (R354). -/
  | tunePeriod (l : Fin 36) (corrected : List Nat) (bad : Nat) (at_ : Nat)
  /-- LINK_QUARANTINE (R358). -/
  | linkQuarantine (l : Fin 36) (lockLost : Bool) (at_ : Nat)
  /-- QUARANTINE_HOLD_EXPIRY (R358). -/
  | quarantineHoldExpiry (l : Fin 36)
  /-- SWEEP_DONE (R359). -/
  | sweepDone (l : Fin 36) (tx rx : Quad)
  /-- LOCK_DONE (R359). -/
  | lockDone (l : Fin 36)
  /-- ALIGN_DONE (R359). -/
  | alignDone (l : Fin 36)
  /-- BRINGUP_TIMEOUT (R359). -/
  | bringupTimeout (l : Fin 36)
  /-- LINK_RETRY (R361). -/
  | linkRetry (l : Fin 36)
  /-- RREAD_GO (R361). -/
  | rreadGo
  /-- FENCE_TIMEOUT (R351). -/
  | fenceTimeout (i : Nat)
  /-- RREAD_TIMEOUT (R361). -/
  | rreadTimeout
  /-- COLL_TIMEOUT (R353). -/
  | collTimeout (id : Nat)
  /-- LASER_REMOVE (R339). -/
  | laserRemove (b : Fin 2) (failed : Bool)
  /-- LASER_INSERT (R445). -/
  | laserInsert (b : Fin 2)
  /-- SENSOR_SAMPLE (R384). -/
  | sensorSample (k : Fin 256) (value : Half)
  /-- ROUND_END (R385). -/
  | roundEnd
  /-- FEED_LOST (R447). -/
  | feedLost (b : Fin 2) (limit : Nat)
  /-- FEED_ACCEPTED (R447). -/
  | feedAccepted (b : Fin 2) (svcEnHigh : Bool)
  /-- BOTH_FEEDS_LOST (R392). -/
  | bothFeedsLost (limit : Nat)
  /-- ENTROPY_FAIL (R383). -/
  | entropyFail
  /-- OP_HOURS_WRITE (R382). -/
  | opHoursWrite
  /-- TEST_START (R395). -/
  | testStart (x : Machine.TestSubject)
  /-- TEST_FORCE (R395). -/
  | testForce (x : Machine.TestSubject)
  /-- TEST_END (R396). -/
  | testEnd (x : Machine.TestSubject) (failed : List Nat)
  /-- UNIT_UNRESPONSIVE (R400). -/
  | unitUnresponsive (u : Fin 8192) (w : Option StepId)
  /-- CORE_UNRESPONSIVE (R400). -/
  | coreUnresponsive (g : Fin 128) (w : Option StepId)
  /-- REPORT (R398). -/
  | report (code subject reporter : Half) (detail : Word)
  /-- AGG_WINDOW_CLOSE (R398). -/
  | aggWindowClose (code subject : Half)
  /-- FLUSH (R416). -/
  | flush
  /-- FLUSH_DONE (R416). -/
  | flushDone
  /-- WINDOW_LATCH (R419). -/
  | windowLatch (eight : Bool)
  /-- GET_ATTESTATION (R407). -/
  | getAttestation
  /-- GET_CERTS (R407). -/
  | getCerts
  /-- FW_UPDATE (R405). -/
  | fwUpdate (ended : ReadEnd) (x : FirmwareObject) (readBack : Bool)
  /-- CONFIG_UPDATE (R405). -/
  | configUpdate (ended : ReadEnd) (x : ConfigObject) (readBack : Bool)
  /-- SVN_COMMIT (R404). -/
  | svnCommit
  /-- LOG_CLEAR (R422). -/
  | logClear (ended : ReadEnd) (x : ClearObject)
  /-- TEST_NOW (R408). -/
  | testNow
  /-- READ_READING (R409). -/
  | readReading (k : Fin 256) (pecOk : Bool)
  /-- READ_THERMAL (R409). -/
  | readThermal (pecOk : Bool)
  /-- READ_REPORT (R409). -/
  | readReport (p : Nat) (pecOk : Bool)
  /-- ATTEST (R409). -/
  | attest (pecOk : Bool)
  /-- LOWER_LIMIT (R409). -/
  | lowerLimit (watts : Half) (counter : Nat) (hmacOk pecOk : Bool)
  /-- HALT (R409). -/
  | halt (counter : Nat) (hmacOk pecOk : Bool)
  /-- RESET_RELEASE (R429). -/
  | resetRelease (x : StartInput)
  /-- LOAD (R435). -/
  | load (ended : ReadEnd) (x : ImageObject)
  /-- LOAD_COMMIT (R436). -/
  | loadCommit
  /-- UNLOAD (R438). -/
  | unload
  /-- REGISTER_READ (R12). -/
  | registerRead (o : BitVec 24) (eight : Bool)
  /-- OPERATION_END (R453). -/
  | operationEnd (op : OpId)
  /-- PREFILL_CHUNK_COMPLETE (R317). -/
  | prefillChunkComplete
  /-- ENTROPY_TESTS_PASS (R383). -/
  | entropyTestsPass
  /-- SOURCE_OUTPUT_POWER (R445). -/
  | sourceOutputPower (b : Fin 2)
  /-- LINK_TRAINED (R363). -/
  | linkTrained (width speed : Nat) (flit : Bool)
  /-- DRONE_GRANULE_ORDER_4 (R124). -/
  | droneGranuleOrder4 (c : Fin 512)
  deriving DecidableEq, Repr

end Sys2Proof
end

