-- ==== Sys2Proof/Decode.lean ====
section
/-! DEFINITION. The commands that a word of the opcode table spells (the table gives its rows no bits), and the 24-bit command
words of the channels (R75, R102, R139, R140). -/
namespace Sys2Proof

/-- No row of spec/opcode_table.json has bits, so no word spells a command. -/
def decodeTableWord (_nbits _w : Nat) : Option Instr := none

/-- What a command word of a channel says: the command, with the operands that travel in the word. -/
inductive ChannelWord
  | act (bank row : Nat)
  | rd (bank : Nat) (autoPrecharge : Bool) (burst : Nat)
  | wr (bank : Nat) (autoPrecharge : Bool) (mask burst : Nat)
  | pre (bank : Nat)
  | ref (bank : Nat)
  | startPhrase (all : Bool) (n addr : Nat)
  | argWrite (all : Bool) (n half skip : Nat)
  | bcast (all : Bool) (n mode slot dest : Nat)
  | storeLoad (all : Bool) (n store burst : Nat)
  | posWrite (all : Bool) (n : Nat)
  | mailWrite (n slot : Nat)
  | readOutput (n count : Nat)
  | readStatus (n : Nat)
  | readSavedState (n burst : Nat)
  | readRelay (n : Nat)
  | enterTrain
  | patternWrite (wire seed : Nat)
  | patternRead (wire seed : Nat)
  | setDelay (wire delay : Nat)
  | spareMap (wire spare : Nat)
  | exitTrain
  | ignored
  deriving DecidableEq, Repr

/-- Bits `hi` to `lo` of a command word. -/
def wordField (w : BitVec 24) (hi lo : Nat) : Nat := w.toNat / 2 ^ lo % 2 ^ (hi + 1 - lo)

/-- R139: a near-bank command; the reserved operations, and MAIL_WRITE with ALL set, are ignored. -/
def nearWord (w : BitVec 24) : ChannelWord :=
  let all := w.getLsbD 17
  let n := wordField w 16 13
  match wordField w 20 18 with
  | 0 => .startPhrase all n (wordField w 8 0)
  | 1 => .argWrite all n (wordField w 0 0) (wordField w 4 1)
  | 2 => .bcast all n (wordField w 12 11) (wordField w 10 8) (wordField w 7 0)
  | 3 => .storeLoad all n (wordField w 12 10) (wordField w 9 0)
  | 4 => .posWrite all n
  | 5 => if all then .ignored else .mailWrite n (wordField w 3 0)
  | _ => .ignored

/-- R140: an output-buffer read. -/
def readWord (w : BitVec 24) : ChannelWord :=
  let n := wordField w 20 17
  match wordField w 16 15 with
  | 0 => .readOutput n (wordField w 2 0)
  | 1 => .readStatus n
  | 2 => if wordField w 10 3 < 144 then .readSavedState n (wordField w 10 3) else .ignored
  | _ => .readRelay n

/-- R102: a training command; the reserved operations are ignored. -/
def trainWord (w : BitVec 24) : ChannelWord :=
  let wire := wordField w 17 9
  match wordField w 20 18 with
  | 0 => .enterTrain
  | 1 => .patternWrite wire (wordField w 8 0)
  | 2 => .patternRead wire (wordField w 8 0)
  | 3 => .setDelay wire (wordField w 7 0)
  | 4 => .spareMap wire (wordField w 2 0)
  | 5 => .exitTrain
  | _ => .ignored

/-- R75: the command type in bits [23:21]. -/
def channelCommand (w : BitVec 24) : ChannelWord :=
  let bank := wordField w 20 16
  let auto := w.getLsbD 15
  match wordField w 23 21 with
  | 0 => .act bank (wordField w 14 0)
  | 1 => .rd bank auto (wordField w 2 0)
  | 2 => .wr bank auto (wordField w 10 3) (wordField w 2 0)
  | 3 => .pre bank
  | 4 => .ref bank
  | 5 => nearWord w
  | 6 => readWord w
  | _ => trainWord w

/-- The commands of a channel that the controller sends as a word, and what the word says. -/
def spelledWord : Instr → Option ChannelWord
  | .act _ b row => some (.act b row.toNat)
  | .rd _ b burst auto _ _ _ => some (.rd b auto burst)
  | .wr _ b burst mask auto _ => some (.wr b auto mask.toNat burst)
  | .pre _ b _ => some (.pre b)
  | .ref _ b => some (.ref b)
  | .startPhrase _ all n addr _ => some (.startPhrase all n addr)
  | .argWrite _ all n half skip _ => some (.argWrite all n half skip.toNat)
  | .bcast _ all n mode slot dest _ => some (.bcast all n mode slot dest)
  | .storeLoad _ all n store burst _ => some (.storeLoad all n store burst)
  | .posWrite _ all n _ => some (.posWrite all n)
  | .mailWrite _ n slot => some (.mailWrite n slot)
  | .obReadOutput _ n count => some (.readOutput n count)
  | .statusRead _ n => some (.readStatus n)
  | .obReadSavedState _ n burst => some (.readSavedState n burst)
  | .obReadRelay _ n => some (.readRelay n)
  | .enterTrain _ _ => some .enterTrain
  | .patternWrite _ wire seed => some (.patternWrite wire seed.toNat)
  | .patternRead _ wire seed => some (.patternRead wire seed.toNat)
  | .setDelay _ wire delay => some (.setDelay wire delay.toNat)
  | .spareMap _ wire spare => some (.spareMap wire spare)
  | .exitTrain _ => some .exitTrain
  | _ => none

end Sys2Proof
end

