-- ==== Sys2Proof/Config.lean ====
section
/-! DEFINITION. What the spec leaves open: constants without a body, so that nothing can be proved of their values.
Each is applied to a plain counter of State (`State.free`), advanced at each use, or to the operands it depends on. -/
namespace Sys2Proof.Config

/-- R452: the detail of a code outside its table, and unnamed detail bits. -/
opaque freeDetail : Nat → Word
/-- SHA-384 digests of objects whose bytes State does not hold (R406), and the digest before the first chained repair record
(entry 92); where State holds the bytes, `sha384` computes them. -/
opaque freeDigest : Nat → BitVec 384
/-- The 128 bytes of a report's header (R407), whose layout the spec does not give, of what the header holds: nonce, length, entries,
serial, power cycles, hours, firmware version and SVN, fuses blown, ordering mode. -/
opaque reportHeader : List Byte → List Nat → List Byte
/-- Signatures of an attestation report (R407). -/
opaque freeSignature : Nat → List Byte
/-- The first byte of the certificates. -/
opaque certificateFirst : Byte
/-- The bytes of the certificates after the first. -/
opaque certificateRest : List Byte
/-- GET_CERTS (R407): the certificates of both identity keys; at least one byte, and below 4 GiB, so that some ARG1 is
enough for them. -/
def certificates : List Byte := certificateFirst :: certificateRest.take (2 ^ 32 - 2)
/-- A draw of a random generator: sampling (R303), stochastic rounding (R43), seeds and keys (R383). -/
opaque freeDraw : Nat → BitVec 64
/-- An unstated numeric result (a value the spec states no result for), 32 bits. -/
opaque freeWord : Nat → Word
/-- A byte of a swap slot as sealed by AES-256-GCM (R284): the tag's 16 bytes, then the ciphertext. -/
opaque freeSealed : Nat → Nat → Byte
/-- R112: whether an unusable wire inverts the bit it carries in a beat. -/
opaque wireBit : Nat → Bool
/-- R447: how many milliseconds a start took (START_MS): physical time. -/
opaque freeMillis : Nat → Word
/-- A configuration-space word whose content PCI Express alone defines (R364). -/
opaque pcieConfigWord : Nat → Word

/-- R39: the wide partial of m × 2^e where EXP does not hold its exponent. -/
opaque wideBeyond : Int → Int → Quad
/-- R47: the value at the end of the quarter-wave table, where a reflected quadrant begins, of its last coefficients. -/
opaque sineEnd : Word → Word → Word
/-- R47: the Newton step of the reciprocal square root, of the table's first value and the reduced argument. -/
opaque newton : Word → Word → Word
/-- R47: the reciprocal square root of an argument that is not positive and finite. -/
opaque rsqrtCorner : Word → Word
/-- R48: the exponential of an argument above zero, of its FP32 bits. -/
opaque expAbove : Word → Word
/-- R201: the source format of CONVERT (0 FP32, 1 bfloat16, 2 binary16, else coded), of its EXT field and SUB. -/
opaque convertSource : BitVec 64 → Nat → Nat
end Sys2Proof.Config
end

