-- ==== Sys2Proof/Machine/Fp.lean ====
section
/-! DEFINITION. Arithmetic (chapters 02 and 03): exact values, the block-exact accumulator, wide partials, rounding,
codebooks, the encoder, statistics, nonlinear tables, the merge exponential. -/
namespace Sys2Proof.Machine

/-- A value as the arithmetic sees it: exact dyadic `m × 2^e`, an infinity, or NaN (a zero has no sign, R42). -/
inductive Val
  | nan
  | inf (neg : Bool)
  | fin (m : Int) (e : Int)
  deriving DecidableEq, Repr

def Val.zero : Val := .fin 0 0
def Val.one : Val := .fin 1 0
def Val.isNan : Val → Bool
  | .nan => true
  | _ => false

def twoPow (n : Int) : Int := (2 : Int) ^ n.toNat

/-- `m × 2^k` rounded half to even to an integer. -/
def shiftRne (m k : Int) : Int :=
  if 0 ≤ k then m * twoPow k
  else
    let d := twoPow (-k)
    let q := m / d
    let r := 2 * (m % d)
    if r < d then q else if d < r then q + 1 else if q % 2 = 0 then q else q + 1

/-- ⌊log₂|m·2^e|⌋ of a nonzero value. -/
def expOf (m e : Int) : Int := e + (m.natAbs.log2 : Int)

/-- IEEE-style decoding with `eb` exponent bits and `fb` fraction bits (R32). -/
def decodeFloat (eb fb : Nat) (v : Nat) : Val :=
  let neg := v / 2 ^ (eb + fb) % 2 == 1
  let ex := v / 2 ^ fb % 2 ^ eb
  let fr := v % 2 ^ fb
  let sgn : Int := if neg then -1 else 1
  let bias : Int := 2 ^ (eb - 1) - 1
  if ex = 2 ^ eb - 1 then (if fr = 0 then .inf neg else .nan)
  else if ex = 0 then .fin (sgn * fr) (1 - bias - fb)
  else .fin (sgn * ((2 ^ fb + fr : Nat) : Int)) ((ex : Int) - bias - fb)

def ofFp32 (w : Word) : Val := decodeFloat 8 23 w.toNat
def ofBf16 (h : Half) : Val := decodeFloat 8 7 h.toNat
def ofF16 (h : Half) : Val := decodeFloat 5 10 h.toNat

/-- The formats results are rounded to (R32). -/
inductive Format | fp32 | bf16 | f16
  deriving DecidableEq, Repr

def Format.eb : Format → Nat
  | .f16 => 5
  | _ => 8
def Format.fb : Format → Nat
  | .fp32 => 23
  | .bf16 => 7
  | .f16 => 10

/-- Rounding modes of R42; the stochastic one with its 16 random bits (R43). -/
inductive Rounding | nearest | towardZero | stochastic (rnd : Nat)
  deriving DecidableEq, Repr

/-- A magnitude `m × 2^k` rounded to an integer in a mode. -/
def shiftMode (r : Rounding) (m : Nat) (k : Int) : Nat :=
  match r with
  | .nearest => (shiftRne m k).toNat
  | .towardZero => if 0 ≤ k then m * 2 ^ k.toNat else m / 2 ^ (-k).toNat
  | .stochastic rnd =>
    if 0 ≤ k then m * 2 ^ k.toNat
    else
      let d := 2 ^ (-k).toNat
      let frac16 := m % d * 65536 / d
      if 65536 ≤ frac16 + rnd then m / d + 1 else m / d

/-- R42: rounding to a format; NaN gives the default NaN, an exact zero +0. -/
def roundTo (f : Format) (r : Rounding) (v : Val) : Nat :=
  let top := (2 ^ f.eb - 1) * 2 ^ f.fb
  let sign (neg : Bool) : Nat := if neg then 2 ^ (f.eb + f.fb) else 0
  match v with
  | .nan => top + 2 ^ (f.fb - 1)
  | .inf neg => sign neg + top
  | .fin m e =>
    if m = 0 then 0
    else
      let bias : Int := 2 ^ (f.eb - 1) - 1
      let q := max (expOf m e) (1 - bias) - f.fb
      let n := shiftMode r m.natAbs (e - q)
      let enc := n + (q + f.fb + bias - 1).toNat * 2 ^ f.fb
      let mag := if enc < top then enc else match r with
        | .towardZero => top - 1
        | _ => top
      sign (decide (m < 0)) + mag

def toFp32 (v : Val) : Word := BitVec.ofNat 32 (roundTo .fp32 .nearest v)
def roundFp32 (v : Val) : Val := ofFp32 (toFp32 v)

/-! Exact operations. -/

def Val.neg : Val → Val
  | .nan => .nan
  | .inf b => .inf (!b)
  | .fin m e => .fin (-m) e

def Val.abs : Val → Val
  | .nan => .nan
  | .inf _ => .inf false
  | .fin m e => .fin m.natAbs e

def Val.isNeg : Val → Bool
  | .fin m _ => decide (m < 0)
  | .inf b => b
  | .nan => false

def Val.isZero : Val → Bool
  | .fin m _ => decide (m = 0)
  | _ => false

/-- R33: the exact product. -/
def Val.mul : Val → Val → Val
  | .nan, _ => .nan
  | _, .nan => .nan
  | .fin m e, .fin n f => .fin (m * n) (e + f)
  | a, b => if a.isZero || b.isZero then .nan else .inf (a.isNeg != b.isNeg)

def Val.add : Val → Val → Val
  | .nan, _ => .nan
  | _, .nan => .nan
  | .inf a, .inf b => if a = b then .inf a else .nan
  | .inf a, _ => .inf a
  | _, .inf b => .inf b
  | .fin m e, .fin n f =>
    let k := min e f
    .fin (m * twoPow (e - k) + n * twoPow (f - k)) k

def Val.sub (a b : Val) : Val := a.add b.neg

/-- Order of two values that are not NaN. -/
def Val.lt : Val → Val → Bool
  | .inf true, .inf true => false
  | .inf true, .nan => false
  | .inf true, _ => true
  | .fin m e, .fin n f =>
    let k := min e f
    decide (m * twoPow (e - k) < n * twoPow (f - k))
  | .fin _ _, .inf b => !b
  | _, _ => false

def Val.eqv (a b : Val) : Bool := !a.isNan && !b.isNan && !a.lt b && !b.lt a
def Val.max (a b : Val) : Val := if a.isNan || b.isNan then .nan else if a.lt b then b else a
def Val.min (a b : Val) : Val := if a.isNan || b.isNan then .nan else if b.lt a then b else a

/-- ⌊v⌋ of a finite value. -/
def floorVal (m e : Int) : Int := if 0 ≤ e then m * twoPow e else m / twoPow (-e)

/-- A quotient p / q of integers as a value with 70 bits and a sticky bit: every rounding of R42 to a format sees it exactly. -/
def divVal (a b : Val) : Val :=
  match a, b with
  | .fin m e, .fin n f =>
    if n = 0 then (if m = 0 then .nan else .inf (decide (m < 0)))
    else
      let k := 70 + n.natAbs.log2
      let p := m.natAbs * 2 ^ k
      let q := p / n.natAbs
      let sticky := if p % n.natAbs = 0 then 0 else 1
      let mag : Int := ((2 * q + sticky : Nat) : Int)
      .fin (if (decide (m < 0)) != (decide (n < 0)) then -mag else mag) (e - f - k - 1)
  | .inf _, .inf _ => .nan
  | .inf s, .fin n _ => .inf (s != decide (n < 0))
  | .fin _ _, .inf _ => .zero
  | _, _ => .nan

/-! Wide partials (R38-R40). -/

/-- R39: 53 significant bits, half to even. -/
def narrowVal (v : Val) : Val :=
  match v with
  | .fin m e =>
    if m = 0 then .zero
    else
      let x := expOf m e
      .fin (shiftRne m (e + 52 - x)) (x - 52)
  | w => w

/-- R38, R40: the value of a wide partial, unnormalised ones included. EXP 0x200 with SIG 0 meets the first and the third sentence of
R40; the model takes NaN, the first (DESIGN CHOICE, log entry 75). -/
def decodeWide (q : Quad) : Val :=
  let ex := (q.extractLsb' 54 10).toInt
  let sig := (q.extractLsb' 0 54).toInt
  if ex = -512 then (if sig = 1 then .inf false else if sig = -1 then .inf true else .nan)
  else .fin sig (ex - 52)

/-- R38: the encodings that the module emits. -/
def isWide (q : Quad) : Bool :=
  let ex := (q.extractLsb' 54 10).toInt
  let sig := (q.extractLsb' 0 54).toInt
  if ex = -512 then decide (sig = 1) || decide (sig = -1) || decide (sig = 2)
  else decide (q = 0) || (decide (2 ^ 52 ≤ sig.natAbs) && decide (sig.natAbs < 2 ^ 53))

/-- R38, R39: the 64-bit encoding of a value narrowed to 53 significant bits. Of a value whose exponent EXP does not hold the spec
states no encoding: one of R38's, left free (log entry 77). -/
def encodeWide (v : Val) : Quad :=
  match narrowVal v with
  | .nan => 0x8000000000000002
  | .inf false => 0x8000000000000001
  | .inf true => 0x803FFFFFFFFFFFFF
  | .fin m e =>
    if m = 0 then 0
    else
      let x := expOf m e
      if -511 ≤ x ∧ x ≤ 511 then BitVec.ofInt 10 x ++ BitVec.ofInt 54 (shiftRne m (e + 52 - x))
      else
        let q := Config.wideBeyond m e
        if isWide q then q else 0x8000000000000002

/-! The block-exact accumulator (R34-R36). -/

inductive AccClass | finite | plusInf | minusInf | nan
  deriving DecidableEq, Repr

/-- An accumulator (R34), with the poison mark that travels beside it (R119) and the wide partials that it has delivered
at full count and no collector or owner has taken yet (R36). -/
structure Acc where
  count : Nat := 0
  cls : AccClass := .finite
  empty : Bool := true
  e : Int := 0
  acc : Int := 0
  poison : Bool := false
  spilled : List Quad := []
  deriving DecidableEq, Repr

/-- R35: the class after an input that is not finite. -/
def classAfter (c : AccClass) : Val → AccClass
  | .nan => .nan
  | .inf true => match c with
    | .plusInf => .nan
    | .nan => .nan
    | _ => .minusInf
  | .inf false => match c with
    | .minusInf => .nan
    | .nan => .nan
    | _ => .plusInf
  | .fin _ _ => c

/-- What the fields of R34 hold. -/
def Acc.held (a : Acc) : Val :=
  match a.cls with
  | .finite => if a.empty then .zero else .fin a.acc (a.e - 62)
  | .plusInf => .inf false
  | .minusInf => .inf true
  | .nan => .nan

/-- R35: one input applied, below the largest count. -/
def Acc.take (a : Acc) (x : Val) : Acc :=
  match x with
  | .fin m e =>
    if m = 0 then { a with count := a.count + 1 }
    else
      let ex := expOf m e
      if a.empty then { a with count := a.count + 1, empty := false, e := ex, acc := shiftRne m (e + 62 - ex) }
      else
        let (eb, acc) := if a.e < ex then (ex, shiftRne a.acc (a.e - ex)) else (a.e, a.acc)
        { a with count := a.count + 1, e := eb, acc := acc + shiftRne m (e + 62 - eb) }
  | v => { a with count := a.count + 1, cls := classAfter a.cls v }

/-- R36: at the largest count the accumulator delivers a wide partial and is cleared. -/
def Acc.makeRoom (a : Acc) : Acc :=
  if a.count < 16777215 then a else { poison := a.poison, spilled := a.spilled ++ [encodeWide a.held] }

/-- R35, R36: one input applied. -/
def Acc.apply (a : Acc) (x : Val) : Acc := a.makeRoom.take x

def Acc.applyMarked (a : Acc) (x : Val) (poison : Bool) : Acc :=
  let b := a.apply x
  { b with poison := b.poison || poison }

/-- R36, R39: the wide partials that an accumulator delivers, those of its full counts first. -/
def Acc.deliver (a : Acc) : List Quad := a.spilled ++ [encodeWide a.held]

/-- The accumulator after what it delivered at full counts has come back into it (R36). -/
def Acc.gather (a : Acc) : Acc :=
  a.spilled.foldl (fun b q => b.take (decodeWide q)) { a with spilled := [] }

/-- The value of a block (R34, R36). -/
def Acc.value (a : Acc) : Val := a.gather.held

/-- R39: the wide partial of a block. -/
def Acc.narrow (a : Acc) : Quad := encodeWide a.value

def classCode : AccClass → Nat
  | .finite => 0
  | .plusInf => 1
  | .minusInf => 2
  | .nan => 3

/-- R34: the 128-bit layout in which an accumulator is saved. -/
def Acc.toBits (a : Acc) : BitVec 128 :=
  BitVec.ofNat 24 a.count ++ BitVec.ofNat 2 (classCode a.cls) ++ BitVec.ofBool a.empty ++ (0 : BitVec 3) ++
    BitVec.ofInt 10 a.e ++ BitVec.ofInt 88 a.acc

def classOf (n : Nat) : AccClass := if n = 0 then .finite else if n = 1 then .plusInf else if n = 2 then .minusInf else .nan

/-- R34 read back. -/
def Acc.ofBits (b : BitVec 128) (poison : Bool) : Acc :=
  { count := (b.extractLsb' 104 24).toNat, cls := classOf (b.extractLsb' 102 2).toNat, empty := b.getLsbD 101,
    e := (b.extractLsb' 88 10).toInt, acc := (b.extractLsb' 0 88).toInt, poison := poison }

/-! Codebooks (R52-R55). -/

structure Codebook where
  cbId : Nat
  entriesLog2 : Nat
  entryFmt : Nat
  zeroIndex : Nat
  anchorIndex : Nat
  entries : List Half
  deriving DecidableEq, Repr

/-- A 16-bit operand in the codebook's entry format: 0 binary16, 1 bfloat16. -/
def ofHalf (fmt : Nat) (h : Half) : Val := if fmt = 0 then ofF16 h else ofBf16 h

def Codebook.value (b : Codebook) (c : Nat) : Val := ofHalf b.entryFmt (b.entries.getD c 0)

def isOne (v : Val) : Bool := v.abs.eqv .one

def hasEqual : List Val → Bool
  | [] => false
  | x :: t => t.any (fun y => x.eqv y) || hasEqual t

/-- R55 rows 1 to 8: the first failing code of a codebook whose entries are all present. -/
def codebookCheck (b : Codebook) : Option Half :=
  let n := 2 ^ b.entriesLog2
  let vs := b.entries.map (ofHalf b.entryFmt)
  if b.entriesLog2 ≠ 4 ∧ b.entriesLog2 ≠ 8 then some 0x1C01
  else if b.entries.length < n then some 0x1C0B
  else if 2 ≤ b.entryFmt then some 0x1C02
  else if n ≤ b.zeroIndex ∨ n ≤ b.anchorIndex then some 0x1C03
  else if vs.any (fun v => match v with | .fin _ _ => false | _ => true) then some 0x1C04
  else if b.entries.getD b.zeroIndex 1 ≠ 0 then some 0x1C05
  else if !isOne (b.value b.anchorIndex) then some 0x1C06
  else if vs.any (fun v => Val.one.lt v.abs) then some 0x1C07
  else if hasEqual vs then some 0x1C08
  else none

structure ScaleTable where
  tableId : Nat
  channels : Nat
  scales : List Word
  flags : List Word
  length : Nat
  deriving DecidableEq, Repr

def ScaleTable.zeroRange (t : ScaleTable) (j : Nat) : Bool := (t.flags.getD (j / 32) 0).getLsbD (j % 32)

/-- A scale that is zero, subnormal, infinite or NaN. -/
def badScale (w : Word) : Bool :=
  let ex := w.toNat / 2 ^ 23 % 256
  ex == 0 || ex == 255

/-- R57: the first failing row of rows 1 to 5. -/
def scaleTableCheck (t : ScaleTable) : Option Half :=
  let n := t.channels
  let size := 32 + 4 * n + 4 * ((n + 31) / 32)
  if n = 0 then some 0x1C20
  else if t.length ≠ (size + 31) / 32 * 32 then some 0x1C21
  else if t.scales.any badScale then some 0x1C22
  else if (List.range n).any fun j => t.zeroRange j && t.scales.getD j 0 != 0x3F800000 then some 0x1C23
  else if (List.range (32 * t.flags.length)).any fun j => decide (n ≤ j) && t.zeroRange j then some 0x1C24
  else none

/-! The encoder (R60-R62). -/

def leastOf (vs : List (Nat × Val)) (lt : Val → Val → Bool) : Option (Nat × Val) :=
  match vs with
  | [] => none
  | x :: t => match leastOf t lt with
    | none => some x
    | some y => if lt y.2 x.2 then some y else some x

/-- R60: the entry nearest to v, the one of smaller magnitude on a tie; `vs` are the values s × e with their codes. -/
def nearestCode (v : Val) : List (Nat × Val) → Option (Nat × Val)
  | [] => none
  | x :: t => match nearestCode v t with
    | none => some x
    | some y =>
      let dx := (v.sub x.2).abs
      let dy := (v.sub y.2).abs
      if dx.lt dy then some x else if dy.lt dx then some y else if y.2.abs.lt x.2.abs then some y else some x

/-- What the encoder writes and counts. -/
structure Encoded where
  code : Nat
  saturated : Bool
  sawNan : Bool
  deriving DecidableEq, Repr

def scaled (b : Codebook) (s : Val) : List (Nat × Val) :=
  (List.range (2 ^ b.entriesLog2)).map fun c => (c, s.mul (b.value c))

/-- R61, mode 01: between 0 and v inclusive. -/
def towardZeroCode (b : Codebook) (v : Val) (vs : List (Nat × Val)) : Nat :=
  let ok := vs.filter fun x =>
    if v.isNeg then !x.2.lt v && !Val.zero.lt x.2 else !x.2.lt .zero && !v.lt x.2
  match nearestCode v ok with
  | some x => x.1
  | none => b.zeroIndex

/-- R61, mode 10: stochastic between the two neighbours. -/
def stochasticCode (rnd : Nat) (v : Val) (vs : List (Nat × Val)) (dflt : Nat) : Nat :=
  match leastOf (vs.filter fun x => !x.2.lt v) Val.lt, leastOf (vs.filter fun x => !v.lt x.2) (fun a b => b.lt a) with
  | some hi, some lo =>
    if hi.2.eqv lo.2 then hi.1
    else match divVal ((v.sub lo.2).mul (.fin 65536 0)) (hi.2.sub lo.2) with
      | .fin m e => if 65536 ≤ floorVal m e + rnd then hi.1 else lo.1
      | _ => dflt
  | _, _ => dflt

/-- R60-R62: the code of v under scale s. -/
def encodeCode (b : Codebook) (s : Word) (zeroRange : Bool) (r : Rounding) (v : Val) : Encoded :=
  let vs := scaled b (ofFp32 s)
  let least := (leastOf vs Val.lt).getD (b.zeroIndex, .zero)
  let most := (leastOf vs (fun a c => c.lt a)).getD (b.zeroIndex, .zero)
  match v with
  | .nan => ⟨b.zeroIndex, false, true⟩
  | _ =>
    if zeroRange then ⟨b.zeroIndex, !v.isZero, false⟩
    else match v with
    | .inf true => ⟨least.1, true, false⟩
    | .inf false => ⟨most.1, true, false⟩
    | w =>
      let out := w.lt least.2 || most.2.lt w
      let near := ((nearestCode w vs).getD (b.zeroIndex, .zero)).1
      match r with
      | .nearest => ⟨near, out, false⟩
      | .towardZero => ⟨towardZeroCode b w vs, out, false⟩
      | .stochastic rnd => ⟨if out then near else stochasticCode rnd w vs near, out, false⟩

/-! Statistics (R64-R66). -/

structure Stats where
  maxAbs : Word := 0
  firstVal : Word := 0
  nanCount : Half := 0
  satCount : Half := 0
  const : Bool := false
  seen : Bool := false
  inf : Bool := false
  deriving DecidableEq, Repr

/-- FP32 bits of a value, any zero as +0. -/
def storeFp32 (v : Val) : Word := if v.isZero then 0 else toFp32 v

/-- R64: one value observed, before output rounding. MAXABS and FIRSTVAL are FP32: the model rounds a value of more precision to the
nearest FP32 first, and a finite value beyond FP32 stores +infinity with INF clear (DESIGN CHOICE, log entry 80). -/
def Stats.observe (p : Stats) (v : Val) : Stats :=
  if v.isNan then { p with nanCount := if p.nanCount = 0xFFFF then 0xFFFF else p.nanCount + 1 }
  else
    let w := storeFp32 v
    let p1 := if !p.seen then { p with firstVal := w, const := true, seen := true }
      else if (ofFp32 p.firstVal).eqv (ofFp32 w) then p else { p with const := false }
    let p2 := match v with
      | .inf _ => { p1 with inf := true }
      | _ => p1
    if (ofFp32 p2.maxAbs).lt (ofFp32 w).abs then { p2 with maxAbs := toFp32 v.abs } else p2

/-- R62: the counters of what the encoder met. -/
def Stats.count (p : Stats) (x : Encoded) : Stats :=
  let p1 := if x.saturated then { p with satCount := if p.satCount = 0xFFFF then 0xFFFF else p.satCount + 1 } else p
  if x.sawNan then { p1 with nanCount := if p1.nanCount = 0xFFFF then 0xFFFF else p1.nanCount + 1 } else p1

def satAddHalf (a b : Half) : Half := if a.toNat + b.toNat < 65536 then a + b else 0xFFFF

/-- R65: two entries combined. -/
def Stats.combine (p q : Stats) : Stats :=
  let vp := ofFp32 p.firstVal
  let vq := ofFp32 q.firstVal
  { maxAbs := if (ofFp32 p.maxAbs).lt (ofFp32 q.maxAbs) then q.maxAbs else p.maxAbs
    firstVal := if p.seen && q.seen then (if vq.lt vp then q.firstVal else p.firstVal)
      else if p.seen then p.firstVal else if q.seen then q.firstVal else 0
    nanCount := satAddHalf p.nanCount q.nanCount
    satCount := satAddHalf p.satCount q.satCount
    const := (!p.seen || p.const) && (!q.seen || q.const) && (p.seen || q.seen) && (!(p.seen && q.seen) || vp.eqv vq)
    seen := p.seen || q.seen
    inf := p.inf || q.inf }

/-- R64: the 16 bytes of an entry. -/
def Stats.toBits (p : Stats) : BitVec 128 :=
  p.maxAbs ++ p.firstVal ++ p.nanCount ++ p.satCount ++ (0 : BitVec 29) ++ BitVec.ofBool p.const ++
    BitVec.ofBool p.seen ++ BitVec.ofBool p.inf

def Stats.ofBits (b : BitVec 128) : Stats :=
  { maxAbs := b.extractLsb' 96 32, firstVal := b.extractLsb' 64 32, nanCount := b.extractLsb' 48 16,
    satCount := b.extractLsb' 32 16, const := b.getLsbD 2, seen := b.getLsbD 1, inf := b.getLsbD 0 }

/-- R66: the scale and ZERO_RANGE flag of a channel from its entry; `anchor` is the codebook's anchor value. -/
def autoScale (headroom : Nat) (anchor : Val) (p : Stats) : Word × Bool :=
  let tiny : Val := .fin 1 (-126)
  if !p.seen || (ofFp32 p.maxAbs).isZero then (0x3F800000, true)
  else if p.inf then (0x7F7FFFFF, false)
  else if p.const then
    let s := if anchor.isNeg then (ofFp32 p.firstVal).neg else ofFp32 p.firstVal
    if s.abs.lt tiny then (toFp32 (if s.isNeg then tiny.neg else tiny), false) else (toFp32 s, false)
  else
    let m := if (ofFp32 p.maxAbs).lt tiny then tiny else ofFp32 p.maxAbs
    let w := toFp32 (m.mul (.fin 1 headroom))
    (if w = 0x7F800000 then 0x7F7FFFFF else w, false)

/-! Nonlinear tables (R46) and the merge exponential (R48). -/

inductive TableMode | clamp | extend | identity | zero
  deriving DecidableEq, Repr

/-- A nonlinear table: 256 pairs of FP32 coefficients and its parameter word. -/
structure NlTable where
  coeffs : List (Word × Word)
  a : Word
  p : Int
  low : TableMode
  high : TableMode
  deriving DecidableEq, Repr

def NlTable.c0 (t : NlTable) (i : Nat) : Val := ofFp32 (t.coeffs.getD i (0, 0)).1
def NlTable.c1 (t : NlTable) (i : Nat) : Val := ofFp32 (t.coeffs.getD i (0, 0)).2

/-- One FP32 fused multiply-add, one rounding. -/
def fma32 (a b c : Val) : Val := roundFp32 ((a.mul b).add c)

/-- R46: the modes outside the table. The spec states no rounding for the CLAMP sum of the high side: the model rounds it once to FP32,
as the interpolation is (DESIGN CHOICE, log entry 78). -/
def tableSide (t : NlTable) (high : Bool) (q x : Val) : Val :=
  let i := if high then 255 else 0
  match (if high then t.high else t.low) with
  | .clamp => if high then roundFp32 ((t.c0 255).add (t.c1 255)) else t.c0 0
  | .extend => fma32 (t.c1 i) q (t.c0 i)
  | .identity => x
  | .zero => .zero

/-- R46: the table's value at x. -/
def NlTable.eval (t : NlTable) (x : Val) : Val :=
  match x with
  | .nan => .nan
  | .inf neg => tableSide t (!neg) x x
  | .fin _ _ =>
    match (x.sub (ofFp32 t.a)).mul (.fin 1 (-t.p)) with
    | .fin m e =>
      if m < 0 then tableSide t false (.fin m e) x
      else
        let i := floorVal m e
        if 256 ≤ i then tableSide t true (.fin m e) x
        else
          let f16 := floorVal m (e + 16) - i * 65536
          fma32 (t.c1 i.toNat) (.fin f16 (-16)) (t.c0 i.toNat)
    | other => tableSide t (!other.isNeg) other x

/-- R48: tab[0] to tab[31], 31 fraction bits. -/
def expTab0 : List Nat :=
  [2147483648, 2153306067, 2159144272, 2164998306, 2170868212, 2176754033, 2182655811, 2188573592,
   2194507417, 2200457330, 2206423375, 2212405596, 2218404036, 2224418739, 2230449750, 2236497113,
   2242560872, 2248641071, 2254737756, 2260850970, 2266980759, 2273127167, 2279290240, 2285470023,
   2291666561, 2297879899, 2304110083, 2310357160, 2316621173, 2322902170, 2329200197, 2335515300]

/-- R48: tab[32] to tab[63], 31 fraction bits. -/
def expTab1 : List Nat :=
  [2341847524, 2348196917, 2354563524, 2360947394, 2367348571, 2373767105, 2380203040, 2386656425,
   2393127307, 2399615734, 2406121752, 2412645410, 2419186755, 2425745836, 2432322700, 2438917396,
   2445529972, 2452160476, 2458808958, 2465475465, 2472160047, 2478862753, 2485583632, 2492322733,
   2499080105, 2505855799, 2512649863, 2519462348, 2526293303, 2533142779, 2540010826, 2546897494]

/-- R48: tab[64] to tab[95], 31 fraction bits. -/
def expTab2 : List Nat :=
  [2553802834, 2560726895, 2567669730, 2574631389, 2581611923, 2588611383, 2595629821, 2602667287,
   2609723834, 2616799513, 2623894376, 2631008476, 2638141863, 2645294591, 2652466713, 2659658279,
   2666869345, 2674099961, 2681350181, 2688620059, 2695909648, 2703219000, 2710548171, 2717897212,
   2725266179, 2732655125, 2740064105, 2747493172, 2754942382, 2762411789, 2769901447, 2777411411]

/-- R48: tab[96] to tab[127], 31 fraction bits. -/
def expTab3 : List Nat :=
  [2784941738, 2792492481, 2800063696, 2807655439, 2815267765, 2822900730, 2830554390, 2838228802,
   2845924021, 2853640104, 2861377107, 2869135087, 2876914102, 2884714207, 2892535461, 2900377920,
   2908241642, 2916126685, 2924033107, 2931960965, 2939910317, 2947881223, 2955873740, 2963887926,
   2971923842, 2979981545, 2988061094, 2996162550, 3004285971, 3012431416, 3020598946, 3028788621]

/-- R48: tab[128] to tab[159], 31 fraction bits. -/
def expTab4 : List Nat :=
  [3037000500, 3045234644, 3053491112, 3061769967, 3070071267, 3078395075, 3086741451, 3095110456,
   3103502151, 3111916599, 3120353861, 3128813999, 3137297074, 3145803149, 3154332287, 3162884549,
   3171459999, 3180058700, 3188680714, 3197326104, 3205994934, 3214687269, 3223403170, 3232142703,
   3240905930, 3249692918, 3258503729, 3267338429, 3276197082, 3285079754, 3293986508, 3302917412]

/-- R48: tab[160] to tab[191], 31 fraction bits. -/
def expTab5 : List Nat :=
  [3311872529, 3320851927, 3329855670, 3338883824, 3347936457, 3357013633, 3366115421, 3375241885,
   3384393094, 3393569115, 3402770014, 3411995860, 3421246719, 3430522660, 3439823750, 3449150059,
   3458501653, 3467878602, 3477280975, 3486708840, 3496162267, 3505641324, 3515146082, 3524676610,
   3534232978, 3543815256, 3553423514, 3563057822, 3572718252, 3582404874, 3592117759, 3601856978]

/-- R48: tab[192] to tab[223], 31 fraction bits. -/
def expTab6 : List Nat :=
  [3611622603, 3621414705, 3631233356, 3641078629, 3650950594, 3660849326, 3670774895, 3680727376,
   3690706840, 3700713361, 3710747013, 3720807869, 3730896002, 3741011488, 3751154399, 3761324810,
   3771522796, 3781748432, 3792001792, 3802282952, 3812591987, 3822928972, 3833293984, 3843687099,
   3854108391, 3864557939, 3875035819, 3885542107, 3896076880, 3906640216, 3917232192, 3927852886]

/-- R48: tab[224] to tab[255], 31 fraction bits. -/
def expTab7 : List Nat :=
  [3938502376, 3949180739, 3959888054, 3970624400, 3981389855, 3992184498, 4003008408, 4013861665,
   4024744348, 4035656537, 4046598312, 4057569753, 4068570940, 4079601955, 4090662878, 4101753790,
   4112874773, 4124025908, 4135207276, 4146418961, 4157661043, 4168933606, 4180236731, 4191570503,
   4202935003, 4214330316, 4225756525, 4237213713, 4248701965, 4260221365, 4271771996, 4283353945]

/-- R48: tab[j] = 2^(j/256). -/
def expTab (j : Nat) : Nat :=
  (expTab0 ++ expTab1 ++ expTab2 ++ expTab3 ++ expTab4 ++ expTab5 ++ expTab6 ++ expTab7).getD j 0

/-- R48: the merge exponential of an argument d ≤ 0, as a value rounded to FP32. -/
def mergeExp (d : Val) : Val :=
  match d with
  | .nan => .nan
  | .inf _ => .zero
  | .fin m e =>
    if m = 0 then .one
    else
      let t := shiftRne (m * 1586259972792) (e - 8)
      if t < -150 * 4294967296 then .zero
      else
        let k := t / 4294967296
        let u := t % 4294967296
        let j := u / 16777216
        let w := u % 16777216
        let v := shiftRne (w * 2977044472) (-32)
        let v2 := shiftRne (v * v) (-32)
        let p := shiftRne (2 * (4294967296 + v) + v2) (-1)
        let y := shiftRne ((expTab j.toNat : Int) * p) (-31)
        roundFp32 (.fin y (k - 32))

end Sys2Proof.Machine
end

