-- ==== Sys2Proof/Machine/StateCores.lean ====
section
/-! DEFINITION. State of the dense cores and the tile read caches (chapter 10). -/
namespace Sys2Proof.Machine

/-- One weight buffer (R195, R197): 64 × 64 operands in row order, the numbers of
the poisoned ones, and what its record said. -/
structure WeightBuf where
  full : Bool := false
  operands : List Val := []
  marks : List Nat := []
  transposed : Bool := false
  accRows : List Nat := []
  accCol : Nat := 0
  deriving DecidableEq, Repr

inductive Waiting | none | counter | release | acquire
  deriving DecidableEq, Repr

/-- A dense core (R195, R214). `reduction` is the one that its pushes belong to, `image` the image whose program it runs; `bad` are the
bytes of its stores whose check bits are uncorrectable, as 1,048,576 × store + byte, `storeMarks` the poisoned sectors as
32,768 × store + sector (R116): stores 1 codebooks, 2 tables, 3 frequencies, 4 accumulators, 5 statistics, 6 and 7 the weight buffers. -/
structure Core where
  accs : Tab Acc := []
  stats : Tab Stats := []
  imem : Mem := []
  regs : List Word := []
  counters : List Word := [0, 0, 0, 0, 0, 0, 0, 0]
  buf0 : WeightBuf := {}
  buf1 : WeightBuf := {}
  codebooks : Mem := []
  tables : Mem := []
  freqs : Mem := []
  pc : Nat := 0
  lastPc : Nat := 0
  busy : Bool := false
  waiting : Waiting := .none
  fenced : Bool := false
  error : Bool := false
  loaded : Bool := false
  code : Half := 0
  idleSince : Option Nat := none
  stepCode : Half := 0
  arrayCycles : Quad := 0
  throttleCycles : Quad := 0
  pushedSectors : Quad := 0
  moves : Quad := 0
  owed : Tab Nat := []
  reduction : Nat := 0
  image : Option Nat := none
  tenant : Nat := 0
  bad : List Nat := []
  storeMarks : List Nat := []
  deriving DecidableEq, Repr

/-- A line of the tile read cache (R209): 64 bytes and the marks of its two sectors. -/
structure CacheLine where
  data : BitVec 512
  poison0 : Bool
  poison1 : Bool
  deriving DecidableEq, Repr

/-- The cores' registers of one tile and its read cache (R209, R214), lines keyed by address divided by 64. -/
structure CoreTile where
  waitLimit : Word := 0x7D0
  lines : Tab CacheLine := []
  hits : Quad := 0
  misses : Quad := 0
  invalidations : Quad := 0
  refetch : Quad := 0
  deriving DecidableEq, Repr

structure Cores where
  cores : Tab Core := []
  tiles : Tab CoreTile := []
  deriving DecidableEq, Repr

end Sys2Proof.Machine
end

