-- ==== Sys2Proof/Machine/StateDram.lean ====
section
/-! DEFINITION. State of the stacks, the channels, the address spreading and the protection of stored data (chapters 04 to 06). -/
namespace Sys2Proof.Machine

/-- One bank (R71, R75, R81): the open row of each half, the half activated last, the refresh debt. -/
structure Bank where
  row0 : Option Nat := none
  row1 : Option Nat := none
  lastHalf : Nat := 0
  debt : Nat := 0
  deriving DecidableEq, Repr

/-- One channel of a stack: interface, refresh, training, protection counters and the drone's place in it. `wires` are the wires
that training or the last slice found unusable (R74, R101), `spares` the wires mapped onto spares, `spent` the spares assigned;
`delivered` the beats of the last read. -/
structure Channel where
  live : Bool := false
  mappedOut : Bool := false
  failed : Bool := false
  hot : Bool := false
  sparesUsed : Nat := 0
  debtMax : Nat := 0
  banks : Tab Bank := []
  holds : Tab Nat := []
  inTrain : Bool := false
  slicing : Bool := false
  patternWritten : Option (Nat × Nat) := none
  patternRead : Option (Nat × Nat) := none
  delays : Tab Nat := []
  spares : Tab Nat := []
  spent : List Nat := []
  wires : List Nat := []
  refreshes : Quad := 0
  boundaryRefreshes : Quad := 0
  postponed : Quad := 0
  readBeats : Quad := 0
  writeBeats : Quad := 0
  slices : Quad := 0
  forcedSlices : Quad := 0
  dieInner : Half := 0
  innerCorrected : Quad := 0
  outerCorrected : Quad := 0
  issuedAt : Option Nat := none
  outerRetried : Quad := 0
  uncorrectable : Quad := 0
  poisonDelivered : Quad := 0
  delivered : List Sector := []
  droneAt : Nat := 0
  droneRewritten : Nat := 0
  droneFirst : Bool := false
  dronePairs : List Nat := []
  patrolStart : Hours := 0
  patrolLate : Bool := false
  deriving DecidableEq, Repr

/-- A sector that proved uncorrectable and waits to be read again (R117): its physical number and who found it. -/
structure Reread where
  sector : Nat
  foundBy : Nat
  deriving DecidableEq, Repr

/-- Stacked memory and everything about its channels. `bytes` is keyed by physical address
(((channel × 32 + bank) × 20,480 + row) × 64 + column) × 32 + byte; `checks` by physical sector. -/
structure Stacks where
  bytes : Mem := []
  checks : Tab Quad := []
  channels : Tab Channel := []
  forceDouble : List Nat := []
  rereads : List Reread := []
  deriving DecidableEq, Repr

/-- Address spreading, channel maps and retuning waves (R89-R107). -/
structure Spread where
  units : Nat := 0
  applied : List Nat := []
  persistent : List Nat := []
  failedCount : Nat := 0
  firstFailed : Nat := 0
  mapCopy : Bool := false
  degraded : Bool := false
  degradedEvent : Bool := false
  translateAddr : BitVec 40 := 0
  wavePeriod : Nat := 0x1F4
  waves : Quad := 0
  nextGroup : Nat := 0
  toSlice : List Nat := []
  deriving DecidableEq, Repr

/-- A freed range whose zero fill runs (R129, R232). -/
structure Fill where
  scratch : Bool
  base : Nat
  size : Nat
  deriving DecidableEq, Repr

/-- Protection of stored data (R117-R130); `hubMarks` are the poisoned entries of the hub tables (R116). -/
structure Protect where
  table : Tab Quad := []
  dropped : Word := 0
  event : Bool := false
  patrolsDone : Quad := 0
  droneCorrected : Quad := 0
  droneUncorrectable : Quad := 0
  repairAddr : BitVec 40 := 0
  repairData0 : Quad := 0
  repairData1 : Quad := 0
  repairData2 : Quad := 0
  repairData3 : Quad := 0
  repair : OpField := {}
  startFillDone : Bool := false
  fills : List Fill := []
  freeFills : Quad := 0
  hubCorrected : Quad := 0
  hubUncorrectable : Quad := 0
  hubMarks : List HubEntry := []
  deriving DecidableEq, Repr

end Sys2Proof.Machine
end

