-- ==== Sys2Proof/Machine/StateUnits.lean ====
section
/-! DEFINITION. State of the near-bank units, the exchange between them, the collectors and the owners (chapters 07 to 09, 14). -/
namespace Sys2Proof.Machine

/-- A sector of an output buffer with its tag (R137, R138), the reduction that its phrase belongs to, and how the reading
collector completes its tag (R287, R289). -/
structure OutSector where
  tag : Word
  sector : Sector
  reduction : Nat := 0
  plan : TagPlan := {}
  deriving DecidableEq, Repr

/-- A mailbox slot (R133, R153). -/
structure MailSlot where
  valid : Bool := false
  poison : Bool := false
  data : BitVec 512 := 0
  deriving DecidableEq, Repr

/-- A message between units (R151); `dest` and `src` are 16 × channel + unit of the tile. -/
structure Message where
  dest : Nat
  src : Nat
  slot : Nat
  poison : Bool
  words : List Quad
  deriving DecidableEq, Repr

inductive Path | dieBus | chain | relay
  deriving DecidableEq, Repr

/-- A message on its way between units of a tile (R151, R152). -/
structure Flight where
  tile : Nat
  message : Message
  path : Path
  deriving DecidableEq, Repr

structure LoopFrame where
  first : Nat
  last : Nat
  left : Nat
  deriving DecidableEq, Repr

/-- The phrase that a unit runs (R137, R162, R164): its declaration, place, cost so far, sectors queued, fixed paths; the faults of
the exchange paths as it started (R154); what its directory entry declares and what the step plan says of it (R144, R189); `tainted`
once it ran a word from a poisoned sector of the micro-program store (R119). -/
structure PhraseRun where
  pc : Nat
  cycles : Nat := 0
  outSectors : Nat := 0
  segMask : Half := 0
  writes : Bool := false
  sends : Bool := false
  elapsed : Nat := 0
  loops : List LoopFrame := []
  ended : Bool := false
  pendingOut : List OutSector := []
  paths : Tab Path := []
  dieFaulted : Bool := false
  cutLinks : List Nat := []
  owes : Nat := 0
  declared : List Nat := []
  reduction : Nat := 0
  plan : TagPlan := {}
  badPositions : List Nat := []
  tainted : Bool := false
  deriving DecidableEq, Repr

/-- The fields of STATUS that gather until the controller reads it (R143). -/
structure Gathered where
  code : Half := 0
  errAt : Option Nat := none
  more : Bool := false
  mailOverrun : Bool := false
  poisonSeen : Bool := false
  overrun : Bool := false
  deriving DecidableEq, Repr

/-- A near-bank unit (R133). Stores are byte memories; `actMarks` and `lbMarks` are the poisoned sectors of the activation
and local buffers, `storeMarks` those of the other stores as 4,096 × STORE + sector (7 the statistics entries), `xMarks` and
`shadowMarks` the registers whose values came from poisoned sectors, `bad` the bytes whose check bits are uncorrectable (R116) as
65,536 × STORE + byte (6 the activation buffer, 8 the mailbox); `segments` the vector that each segment holds whole (R25);
`isolated` a unit that did not answer (R400). -/
structure Unit where
  accs : Tab Acc := []
  stats : Tab Stats := []
  act : Mem := []
  actMarks : List Nat := []
  out : List OutSector := []
  mail : Tab MailSlot := []
  relay : List Message := []
  lb : Mem := []
  lbMarks : List Nat := []
  bad : List Nat := []
  storeMarks : List Nat := []
  xMarks : List Nat := []
  shadowMarks : List Nat := []
  segments : Tab Nat := []
  micro : Mem := []
  codebooks : Mem := []
  scales : Mem := []
  tables : Mem := []
  freqs : Mem := []
  loaded : Bool := false
  fenced : Bool := false
  isolated : Bool := false
  args : List Quad := [0, 0, 0, 0, 0, 0]
  shadow : List Quad := [0, 0, 0, 0, 0, 0]
  lastStart : Nat := 0
  x : List Word := []
  positions : List Nat := [0, 0, 0, 0, 0, 0, 0, 0]
  log2k : Nat := 0
  run : Option PhraseRun := none
  status : Gathered := {}
  errors : List Nat := []
  listOverflow : Bool := false
  unitStatus : Quad := 0
  deriving DecidableEq, Repr

/-- Exchange paths of one die (R151, R154, R160), keyed 16 × tile + die; `granted` the unit of the die granted last. -/
structure DieBus where
  granted : Nat := 63
  faulted : Bool := false
  badAt : List Nat := []
  messages : Quad := 0
  corrected : Word := 0
  uncorrectable : Word := 0
  deriving DecidableEq, Repr

/-- Near-bank registers of a channel (R160) and the chain links of its units. -/
structure NearChannel where
  phrases : Quad := 0
  phraseCycles : Quad := 0
  relayed : Word := 0
  chainFaulted : List Nat := []
  chainBadAt : Tab (List Nat) := []
  outputSectors : Quad := 0
  deriving DecidableEq, Repr

/-- A running maximum of R183. -/
structure MaxSlot where
  value : Val
  poison : Bool := false
  deriving DecidableEq, Repr

/-- The record of a reduction, as the controller's plan gives it (R156, R183): its number, width and mode, the declared sectors
still to be applied (R158), and the elements whose partials are supplied as poisoned zeros (R104, R150, R400). -/
structure Reduction where
  number : Nat := 0
  width : Nat := 0
  isMax : Bool := false
  owed : Nat := 0
  poisoned : List Nat := []
  deriving DecidableEq, Repr

/-- An element of a tile partial (R158, R183), in the mode of its reduction. -/
structure Partial where
  acc : Acc
  isMax : Bool
  deriving DecidableEq, Repr

/-- A collector (R155), keyed 4 × tile + k: its accumulators, its statistics, the sectors that have reached it, the reductions in
their order (the first is the current one), the elements of the tile partial, the score bursts and probe or merge blocks it is
home of. `allPoisoned`: every accumulator of the current reduction is poisoned. -/
structure Collector where
  accs : Tab Acc := []
  maxes : Tab MaxSlot := []
  stats : Tab Stats := []
  reductions : List Reduction := []
  inbox : List OutSector := []
  allPoisoned : Bool := false
  partials : Tab Partial := []
  bursts : Tab (Tab Sector) := []
  blocks : Tab (Tab Sector) := []
  packet : List OutSector := []
  deriving DecidableEq, Repr

/-- An owner's running state for one query head (R290). -/
structure Running where
  m : Word := 0xFF800000
  l : Acc := {}
  o : Tab Acc := []
  packets : Nat := 0
  headPoison : Bool := false
  deriving DecidableEq, Repr

/-- A vector as the all-gather brings it to a tile (R21, R25): its width, its elements in FP32, and those poisoned. -/
structure Finished where
  width : Nat := 0
  words : Tab Word := []
  marks : List Nat := []
  deriving DecidableEq, Repr

/-- The collectors' side of one tile: the results of its slices (R20; the residual and rescale slices lie in the collectors' staging
bank), the finished vectors by number (R21), tables, routing (R177, R190, R288, R290), the experts selected and the positions whose
router outputs were poisoned (R189), counters (R193). -/
structure Owner where
  results : Tab Word := []
  resultMarks : List Nat := []
  finished : Tab Finished := []
  running : Tab Running := []
  routing : Tab (BitVec 128) := []
  dest : Tab (List Quad) := []
  experts : Tab ExpertDecl := []
  selected : Tab (List (Nat × Word)) := []
  badRoutes : List Nat := []
  tables : Mem := []
  freqs : Mem := []
  codebooks : Mem := []
  positions : List Nat := [0, 0, 0, 0, 0, 0, 0, 0]
  gathered : Quad := 0
  discarded : Quad := 0
  forwarded : Quad := 0
  probes : Word := 0
  probeHits : Word := 0
  merges : Word := 0
  routes : Word := 0
  decoded : Quad := 0
  deriving DecidableEq, Repr

/-- A packet of an attention partial (R289): header and 16 output sectors, its first global query head, the value group, and
the owner tiles that have yet to merge it. -/
structure Packet where
  sectors : List OutSector
  head : Nat
  group : Nat
  tiles : List Nat
  deriving DecidableEq, Repr

/-- The near-bank half of the module. `directory` is keyed 512 × tile + address (R144); `relayed` are the messages, with their tile,
that a controller has read from a relay queue and not yet delivered (R152). -/
structure NearBank where
  units : Tab Unit := []
  dies : Tab DieBus := []
  channels : Tab NearChannel := []
  directory : Tab Quad := []
  collectors : Tab Collector := []
  owners : Tab Owner := []
  flights : List Flight := []
  relayed : List (Nat × Message) := []
  packets : List Packet := []
  deriving DecidableEq, Repr

end Sys2Proof.Machine
end

