-- ==== Sys2Proof/Machine/StateFabric.lean ====
section
/-! DEFINITION. State of the optical fabric (chapter 17). -/
namespace Sys2Proof.Machine

inductive LinkState | down | sweep | lock | align | hello | up | quarantined
  deriving DecidableEq, Repr

/-- Credits or freed buffers of the three classes (R344). -/
structure Credits where
  req : Nat := 0
  rsp : Nat := 0
  col : Nat := 0
  deriving DecidableEq, Repr

/-- One optical link (R344-R361). -/
structure Link where
  state : LinkState := .down
  enabled : Bool := false
  peerNode : Half := 0
  peerLink : Nat := 0
  staysDown : Bool := false
  startedMs : Nat := 0
  nextSeq : Nat := 0
  ackedSeq : Nat := 4095
  expected : Nat := 0
  retryReq : Bool := false
  retryDue : Bool := false
  replay : List Flit := []
  queue : List Flit := []
  credits : Credits := {}
  peerCounts : Credits := {}
  freed : Credits := {}
  peerUsed : Credits := {}
  rotate : Nat := 0
  violationsMs : List Nat := []
  creditViolationsMs : List Nat := []
  retriesMs : List Nat := []
  quarantineUs : List Nat := []
  lastNakUs : Option Nat := none
  quarantines : Byte := 0
  flitsTx : Quad := 0
  flitsRx : Quad := 0
  fecCorrected : Quad := 0
  fecUncorrectable : Quad := 0
  retries : Quad := 0
  violations : Quad := 0
  naksSent : Word := 0
  naksSuppressed : Word := 0
  naksReceived : Word := 0
  txHeater : Quad := 0
  rxHeater : Quad := 0
  peerTune : List Word := []
  peerPeriod : Word := 0
  period : Nat := 0
  rxSums : Tab (Nat × Nat) := []
  txSums : Tab (Nat × Nat) := []
  deriving DecidableEq, Repr

/-- The accumulators and contributions of one round of a collective (R353), elements by number; contributions keyed by
element, as the children that have contributed. -/
structure Round where
  number : Nat
  accs : Tab Acc := []
  maxes : Tab MaxSlot := []
  children : Tab (List Nat) := []
  done : List Nat := []
  deriving DecidableEq, Repr

/-- A collective with its two accumulator sets (R352, R353), and by owner tile the record of its delivery (R41). -/
structure Coll where
  image : Nat
  decl : CollDecl
  current : Round := { number := 0 }
  next : Round := { number := 1 }
  records : Tab Delivery := []
  result : Tab Word := []
  resultMarks : List Nat := []
  deriving DecidableEq, Repr

/-- An inbound window with its image (R347). -/
structure Inbound where
  image : Nat
  decl : WindowDecl
  deriving DecidableEq, Repr

/-- An export window with its image and tenant (R349). -/
structure Export where
  image : Nat
  tenant : Nat
  decl : ExportDecl
  deriving DecidableEq, Repr

inductive Socket | empty | lasing | dark
  deriving DecidableEq, Repr

/-- The fabric block (R361). -/
structure Fabric where
  node : Half := 0
  fenceFailed : Bool := false
  socketA : Socket := .empty
  socketB : Socket := .empty
  fenceLimit : Word := 0xC8
  collLimit : Word := 0x64
  violationLimit : Word := 0x400
  quarantineHold : Word := 0xA
  rreadAddr : BitVec 40 := 0
  rreadNode : Half := 0
  rreadSpace : Bool := false
  rreadSectors : BitVec 3 := 0
  rread : OpField := {}
  rreadPoison : BitVec 7 := 0
  rreadData : Tab Quad := []
  rreadTag : Option Nat := none
  routes : Tab Quad := []
  links : Tab Link := []
  inbound : List Inbound := []
  exports : List Export := []
  colls : Tab Coll := []
  nextTag : Nat := 0
  collTurn : Tab Nat := []
  lost : List (Nat × Nat) := []
  sent : List (Nat × Flit) := []
  switchUs : Option Nat := none
  deriving DecidableEq, Repr

end Sys2Proof.Machine
end

