-- ==== Sys2Proof/Machine/StatePort.lean ====
section
/-! DEFINITION. State of the host port: link, configuration space, MSI-X, DMA engine, swap registers (chapter 18). -/
namespace Sys2Proof.Machine

/-- One entry of the MSI-X table (R373): PCIe masks every vector at reset. -/
structure MsixEntry where
  addr : Quad := 0
  data : Word := 0
  masked : Bool := true
  deriving DecidableEq, Repr

inductive DmaPhase | free | queued | running
  deriving DecidableEq, Repr

/-- One DMA command slot (R374): its registers, the words copied at the arm, the descriptor copied (R243) and the
image that made it (R54). -/
structure DmaSlot where
  words : List Quad := [0, 0, 0, 0, 0, 0, 0, 0]
  gen : Half := 0
  phase : DmaPhase := .free
  code : Half := 0
  copied : List Quad := []
  descriptor : BitVec 512 := 0
  image : Option Nat := none
  deriving DecidableEq, Repr

/-- What a read of host memory is for (R372). -/
inductive ReadFor | prompt (slot : Nat) | bias (slot : Nat) | dma (slot : Nat)
  deriving DecidableEq, Repr

/-- An outstanding module read of host memory: how it ended once it has, and the data with its poison marks. -/
structure HostRead where
  tag : Nat
  purpose : ReadFor
  addr : Quad
  length : Nat
  ended : Option ReadEnd := none
  data : List (Byte × Bool) := []
  deriving DecidableEq, Repr

/-- The host port (R363-R380); `bars` the double words of the memory BARs as last written (R14). -/
structure Port where
  linkWidth : Nat := 0
  linkSpeed : Nat := 0
  flitMode : Bool := false
  linkUp : Bool := false
  busMasterEnable : Bool := false
  bars : Tab Word := []
  d3hot : Bool := false
  ready : Bool := false
  event : Bool := false
  eventIrqEnable : Bool := false
  eventVector : Nat := 0
  bar2Base : BitVec 40 := 0
  malformed : Quad := 0
  poisonedIn : Quad := 0
  readFailures : Quad := 0
  swapBase : Quad := 0
  swapSize : Quad := 0
  dmaBytesIn : Quad := 0
  dmaBytesOut : Quad := 0
  dmaArmsIgnored : Quad := 0
  msix : Tab MsixEntry := []
  pending : List Nat := []
  msixEnable : Bool := false
  functionMask : Bool := false
  dma : Tab DmaSlot := []
  dmaQueue : List Nat := []
  reads : List HostRead := []
  nextTag : Nat := 0
  waiting : List HostMsg := []
  sent : List HostMsg := []
  answer : Answer := .none
  held : Tab Word := []
  latched : Tab Word := []
  deriving DecidableEq, Repr

/-- W1C event bits of the areas whose block holds nothing else of them (R160, R214, R229, R293, R361); per-tile bits as
the list of tiles whose bit reads 1. -/
structure Events where
  kv : Bool := false
  fabric : Bool := false
  unit : List Nat := []
  core : List Nat := []
  scratch : List Nat := []
  deriving DecidableEq, Repr

end Sys2Proof.Machine
end

