-- ==== Sys2Proof/Machine/StateServing.lean ====
section
/-! DEFINITION. State of the serving engine: images, the key-value cache, requests, the sampling unit, tenants, jobs,
adapters and loading (chapters 14 to 16, 21). -/
namespace Sys2Proof.Machine

/-- A loaded image (R436): its manifest without the segments' bytes, the table indices it took, its declarations, and
the module addresses of its codebooks and scale tables by identifier. -/
structure Image where
  version : Word
  manifest : Manifest
  allocs : List Nat
  descs : List Nat
  decls : List Decl
  codebooks : Tab Nat := []
  scaleTables : Tab Nat := []
  deriving DecidableEq, Repr

inductive LoadPhase | idle | verify | check | transfer | content | commit | undo
  deriving DecidableEq, Repr

/-- The loading registers and the load in progress (R434-R439). -/
structure Loading where
  addr : Quad := 0
  len : Quad := 0
  index : BitVec 3 := 0
  op : OpField := {}
  phase : LoadPhase := .idle
  cause : Half := 0
  detail : Half := 0
  bytes : Quad := 0
  object : Option ImageObject := none
  allocs : List Nat := []
  images : Tab Image := []
  deriving DecidableEq, Repr

/-- An entry of the block table (R274). -/
structure Block where
  refs : Nat := 0
  tree : Bool := false
  poisoned : Bool := false
  tenant : Nat := 0
  prefixIndex : Nat := 0
  lastUse : Word := 0
  deriving DecidableEq, Repr

/-- An entry of a page table (R274). -/
inductive PageEntry | resident (block : Nat) | swapped (slot : Nat)
  deriving DecidableEq, Repr

inductive SeqState | free | idle | stepping | swappingOut | swapped | swappingIn
  deriving DecidableEq, Repr

/-- A sequence: its entry (R275), its page table and token tail (R274). -/
structure Sequence where
  state : SeqState := .free
  releasePending : Bool := false
  tenant : Nat := 0
  adapterSlot : Nat := 0x7FF
  adapterVersion : Nat := 0
  length : Nat := 0
  chain : Quad := 0
  lastStep : Word := 0
  pages : List PageEntry := []
  tail : List Word := []
  deriving DecidableEq, Repr

/-- An entry of the prefix table (R274). -/
structure PrefixEntry where
  hash : Quad
  tenant : Nat
  block : Nat
  deriving DecidableEq, Repr

/-- A block image sealed in a swap slot, as the module wrote it (R284). -/
structure SlotWritten where
  seq : Nat
  entry : Nat
  tenant : Nat
  nonce : Quad
  deriving DecidableEq, Repr

/-- An append that a step in flight has made (R28): sequence, layer, kind, channel group of 64 and position. -/
structure Append where
  seq : Nat
  layer : Nat
  kind : Nat
  group : Nat
  position : Nat
  deriving DecidableEq, Repr

/-- The key-value cache (R267-R293) of `total` blocks. A block is in use or retained (`blocks`), being filled (`filling`),
or free (in neither). `pageOpen` are the pages opened in a block, 4,096 × block + 2 × layer + kind (R273); `appends` what the steps in
flight have appended. -/
structure Kv where
  seqs : Tab Sequence := []
  blocks : Tab Block := []
  total : Nat := 0
  filling : List Nat := []
  prefixes : Tab PrefixEntry := []
  lowBlocks : Word := 0
  seqId : Half := 0
  seqTenant : Byte := 0
  op : OpField := {}
  swapCause : Half := 0
  entry : List Quad := [0, 0, 0, 0]
  slots : Tab SlotWritten := []
  nonce : Quad := 0
  lookups : Quad := 0
  hits : Quad := 0
  dropped : Quad := 0
  copies : Quad := 0
  swapOuts : Quad := 0
  swapIns : Quad := 0
  pageOpen : List Nat := []
  appends : List Append := []
  deriving DecidableEq, Repr

inductive ReqState | free | admitting | ready | stepping | closing
  deriving DecidableEq, Repr

inductive EndWhy | none | endToken | limit | deadline | failed
  deriving DecidableEq, Repr

/-- A request slot's own state (R295-R311); `words` are words 0-30 as copied at the arm, `adapter` the slot bound,
`history` the last 256 tokens, `length` the LENGTH of its sequence after the last completed step (R300), `promptRead` and
`biasRead` whether the reads of host memory have ended well. -/
structure Request where
  state : ReqState := .free
  gen : Half := 0
  code : Half := 0
  cancelled : Bool := false
  why : EndWhy := .none
  words : List Quad := []
  bestEffort : Bool := false
  armUs : Nat := 0
  armOrder : Nat := 0
  deadline : Option Nat := none
  adapter : Option Nat := none
  bias : List (Word × Word) := []
  prompt : List Word := []
  history : List Word := []
  pendingToken : Option Word := none
  matched : Nat := 0
  length : Nat := 0
  computed : Nat := 0
  generated : Nat := 0
  tokensOut : Nat := 0
  proposed : Nat := 0
  accepted : Nat := 0
  steps : Nat := 0
  firstTokenUs : Nat := 0
  charged : Nat := 0
  update : Nat := 0
  promptRead : Option Bool := none
  biasRead : Option Bool := none
  failCode : Option Half := none
  drafts : List Word := []
  draws : List Word := []
  deriving DecidableEq, Repr

/-- A decode step or prefill chunk in flight (R320, R328): its members (slot and positions), whether its blocks stand
ready (R278), and the failure report taken first (R308). -/
structure Step where
  members : List (Nat × Nat)
  selectedUs : Nat
  waves : Nat
  positions : Nat
  maxLength : Nat
  prepared : Bool := false
  failure : Option Half := none
  deriving DecidableEq, Repr

/-- Requests, steps and the sampling unit (R295-R311). `logits` is keyed by position (0-7 of the latency-critical step,
8-15 of the best-effort step), then by token;
`poisonedLogits` are the positions that received a poisoned sector. -/
structure Serving where
  slotWords : Tab Quad := []
  requests : Tab Request := []
  refused : Bool := false
  closed : Bool := false
  refusalVector : Nat := 0
  requestsClosed : Quad := 0
  stepsFailed : Quad := 0
  draftsProposed : Quad := 0
  draftsAccepted : Quad := 0
  armsIgnored : Quad := 0
  samples : Quad := 0
  armCount : Nat := 0
  lcStep : Option Step := none
  beStep : Option Step := none
  chunk : Option Step := none
  beLast : Nat := 0
  logits : Tab (Tab Word) := []
  poisonedLogits : List Nat := []
  classOf : Tab Nat := []
  deriving DecidableEq, Repr

/-- An entry of the tenant table (R313, R317, R318, R328, R329). -/
structure Tenant where
  valid : Bool := false
  maxActive : Nat := 4096
  cap : Word := 0
  refill : Word := 0
  balance : Word := 0
  charged : Quad := 0
  generated : Quad := 0
  promptComputed : Quad := 0
  rejectedDrafts : Word := 0
  slowdown : Half := 0
  lcAllowed : Bool := false
  soloUs : Word := 0
  measuredUs : Word := 0
  soloSum : Nat := 0
  measuredSum : Nat := 0
  windowsClosed : Word := 0
  satWindows : Half := 0
  nanWindows : Half := 0
  deriving DecidableEq, Repr

inductive JobState | idle | waiting | running | saving | saved | restoring | done | failed
  deriving DecidableEq, Repr

/-- A job slot (R324, R336). -/
structure Job where
  state : JobState := .idle
  tenant : Nat := 0
  entry : Nat := 0
  args : BitVec 40 := 0
  code : Half := 0
  us : Quad := 0
  step : Nat := 0
  stopTaken : Bool := false
  heldSince : Nat := 0
  deriving DecidableEq, Repr

inductive AdapterState | free | loading | current | retiring | filling
  deriving DecidableEq, Repr

/-- An adapter slot (R330); `replaces` is the predecessor that its commit retires. -/
structure Adapter where
  state : AdapterState := .free
  successor : Option Nat := none
  tenant : Nat := 0
  version : Nat := 0
  replaces : Option Nat := none
  deriving DecidableEq, Repr

/-- Tenants, jobs and adapters (R313-R336); `adapterBytes` what the operation under way moves into its slot, by offset. -/
structure Tenancy where
  tenants : Tab Tenant := [(0, { valid := true })]
  tenantArg : Byte := 0
  tenantOp : OpField := {}
  resumeHold : Word := 0x3E8
  lastLcPrompt : Nat := 0
  jobs : Tab Job := []
  jobArgs : BitVec 40 := 0
  jobTenant : Byte := 0
  jobEntry : BitVec 12 := 0
  jobSlot : BitVec 3 := 0
  jobOp : OpField := {}
  preemptions : Quad := 0
  lastSwitch : Half := 0
  maxSwitch : Half := 0
  adapters : Tab Adapter := []
  adapterSource : Quad := 0
  predValid : Bool := false
  predecessor : BitVec 10 := 0
  adapterArg : BitVec 10 := 0
  adapterTenant : Byte := 0
  adapterOp : OpField := {}
  adapterCause : Half := 0
  adapterBytes : List (Nat × List Byte) := []
  nextVersion : Nat := 1
  deriving DecidableEq, Repr

end Sys2Proof.Machine
end

