-- ==== Sys2Proof/Machine/StateTables.lean ====
section
/-! DEFINITION. State of the scratchpads, the allocation and descriptor tables and the fences (chapters 11 to 13). -/
namespace Sys2Proof.Machine

/-- A request that waits for an arbitrated port (R220): its master, 0-15 the cores, 16 the DMA engine, 17 the collectors, 18 fabric
receive, 19 host access, and its bytes. -/
structure PortRequest where
  master : Nat
  bytes : Nat
  deriving DecidableEq, Repr

/-- The arbitrated port and counters of one scratchpad bank (R220, R229), keyed 20 × tile + bank; masters are numbered
as the banks they own (R216). -/
structure BankPort where
  lastGranted : Nat := 19
  requests : List PortRequest := []
  grants : Quad := 0
  waitCycles : Quad := 0
  conflicts : Quad := 0
  aliasWrites : Quad := 0
  deriving DecidableEq, Repr

/-- The scratchpads of all tiles, keyed by scratchpad address (R217); `marks` are the marked 32-byte sectors (address
divided by 32), `bad` the bytes whose check bits are uncorrectable, `fixing` the corrected bytes to be written back. -/
structure Scratch where
  bytes : Mem := []
  marks : List Nat := []
  bad : List Nat := []
  fixing : List Nat := []
  ports : Tab BankPort := []
  corrected : Tab Quad := []
  uncorrectable : Tab Quad := []
  deriving DecidableEq, Repr

/-- An entry of the allocation table (R231); `image` is the number of the image that created it. -/
structure Alloc where
  valid : Bool := false
  base : Nat := 0
  size : Nat := 0
  scratch : Bool := false
  gen : Nat := 0
  tenant : Nat := 0
  sealed : Bool := false
  readOnly : Bool := false
  image : Option Nat := none
  descRefs : Nat := 0
  deriving DecidableEq, Repr

/-- An entry of the descriptor table (R242): the descriptor and who created it. -/
structure DescEntry where
  words : BitVec 512
  image : Option Nat
  deriving DecidableEq, Repr

/-- Who issued a copy (R243, R263). -/
inductive CopyIssuer | core (g counter : Nat) | dma (slot : Nat)
  deriving DecidableEq, Repr

/-- An accepted copy: both descriptors as copied at acceptance, the indices named, the image of the source's descriptor (R54). -/
structure Copy where
  issuer : CopyIssuer
  srcIndex : Nat
  dstIndex : Nat
  src : BitVec 512
  dst : BitVec 512
  image : Option Nat := none
  deriving DecidableEq, Repr

/-- The descriptor and allocation tables and their registers (R231, R242, R246). -/
structure Tables where
  allocs : Tab Alloc := []
  descs : Tab DescEntry := []
  stage : List Quad := [0, 0, 0, 0, 0, 0, 0, 0]
  descIndex : Half := 0
  desc : OpField := {}
  allocBase : BitVec 40 := 0
  allocSize : BitVec 40 := 0
  allocSpace : Bool := false
  allocSealed : Bool := false
  allocTenant : Byte := 0
  allocId : BitVec 20 := 0
  newAllocId : Option (BitVec 20) := none
  alloc : OpField := {}
  entry : List Quad := [0, 0, 0, 0]
  copies : List Copy := []
  deriving DecidableEq, Repr

inductive Scope | core | module | system
  deriving DecidableEq, Repr

/-- Who waits for a release (R248, R253). -/
inductive Releaser | core (g : Nat) | host
  deriving DecidableEq, Repr

/-- A release that is not complete (R253, R350): the nodes whose FENCE ACK is awaited, by TAG. -/
structure Release where
  agent : Releaser
  scope : Scope
  awaiting : List (Nat × Nat) := []
  failed : Bool := false
  deriving DecidableEq, Repr

/-- Ordering (R253-R266); `nodes` lists per agent the modules written since its last SYSTEM release
(key 0 the host, 1 + g core g). -/
structure Ordering where
  imageOverride : Bool := false
  strapCompat : Bool := false
  orderMode : Bool := false
  releases : List Release := []
  nodes : Tab (List Nat) := []
  moduleReleases : Quad := 0
  systemReleases : Quad := 0
  acquiresFailed : Quad := 0
  compatInvalidations : Quad := 0
  deriving DecidableEq, Repr

end Sys2Proof.Machine
end

