-- ==== Sys2Proof/Machine/State.lean ====
section
/-! DEFINITION. The state of the module: every register, store, table, queue and pin the spec gives it, the queue of
commands waiting, and State.reset. -/
namespace Sys2Proof.Machine

/-- An accumulator file and its statistics as they are saved (R34, R64): 16 bytes an accumulator and an entry, the marks of the
32-byte sectors that hold two of them (R119), and the partials delivered at a full count (R36). -/
structure SavedFile where
  accs : Tab (BitVec 128) := []
  accMarks : List Nat := []
  spilled : Tab (List Quad) := []
  stats : Tab (BitVec 128) := []
  statMarks : List Nat := []
  deriving DecidableEq, Repr

/-- What is saved of a core (R212). -/
structure SavedCore where
  file : SavedFile := {}
  regs : List Word := []
  counters : List Word := [0, 0, 0, 0, 0, 0, 0, 0]
  pc : Nat := 0
  lastPc : Nat := 0
  deriving DecidableEq, Repr

/-- What is saved of a collector: its part of the staging bank that the model holds beside the bank (R155, R183). -/
structure SavedCollector where
  file : SavedFile := {}
  maxes : Tab MaxSlot := []
  partials : Tab Partial := []
  deriving DecidableEq, Repr

/-- The save area of the job that is pre-empted (R325): core banks and staging banks, cores, collectors, and the 144 bursts of
each unit's saved state (R140) where the entry declares them. -/
structure SaveArea where
  cores : Tab SavedCore
  collectors : Tab SavedCollector
  banks : List Nat
  bytes : Mem
  marks : List Nat
  units : Option (Tab (List (List Sector)))
  deriving DecidableEq, Repr

structure State where
  us : Nat := 0
  lut : Luthier := {}
  log : Recorder := {}
  events : Events := {}
  nvm : Nvm := {}
  opTicks : Nat := 0
  start : Startup := {}
  supply : Supplies := {}
  dram : Stacks := {}
  spread : Spread := {}
  protect : Protect := {}
  free : Nat := 0
  scratch : Scratch := {}
  tables : Tables := {}
  order : Ordering := {}
  port : Port := {}
  load : Loading := {}
  heldHost : List Instr := []
  kv : Kv := {}
  serve : Serving := {}
  tenancy : Tenancy := {}
  saved : Option SaveArea := none
  near : NearBank := {}
  dense : Cores := {}
  fabric : Fabric := {}
  deferred : List Instr := []
  pending : List Instr := []
  deriving DecidableEq, Repr

/-- The module before any feed is accepted: every register at its reset value (the log entries name those the spec
states no value for), the flashes as they leave manufacture (R95), the queue empty. -/
def State.reset : State := {}

/-- Why the machine stops with a fault. -/
inductive Fault
  /-- A command whose operands are outside the ranges of its rule reached a meaning (raised by the meanings that check
  an operand; safe: the machine stops where the spec names no such command). -/
  | illFormed (mnemonic : String)
  deriving DecidableEq, Repr

/-- Why a command is refused. -/
inductive Refusal
  /-- A command without a meaning in this model (raised by the arms of `exec` alone; safe: the machine stops). -/
  | notModelled (mnemonic : String)
  deriving DecidableEq, Repr

/-- The outcome of every command and step. -/
abbrev Out := Host.Outcome State Fault Refusal

end Sys2Proof.Machine
end

