-- ==== Sys2Proof/Machine/Tab.lean ====
section
/-! DEFINITION. Operations over sparse tables and bit fields: the one home of reads and writes of every table of State. -/
namespace Sys2Proof.Machine

/-- The value at key `i`, `d` where nothing is listed. -/
def tabGet {α : Type} (d : α) : Tab α → Nat → α
  | [], _ => d
  | (k, v) :: t, i => if k = i then v else tabGet d t i

/-- The value at key `i`, if any is listed. -/
def tabFind? {α : Type} : Tab α → Nat → Option α
  | [], _ => none
  | (k, v) :: t, i => if k = i then some v else tabFind? t i

/-- Write `v` at key `i`; the table keeps one entry a key, keys rising. -/
def tabPut {α : Type} : Tab α → Nat → α → Tab α
  | [], i, v => [(i, v)]
  | (k, w) :: t, i, v =>
    if i < k then (i, v) :: (k, w) :: t
    else if i = k then (i, v) :: t
    else (k, w) :: tabPut t i v

/-- Remove key `i`. -/
def tabDel {α : Type} (t : Tab α) (i : Nat) : Tab α := t.filter fun e => e.1 != i

/-- Write `v` at key `i` in canonical form: an entry equal to the default `d` is not listed. -/
def tabSet {α : Type} [DecidableEq α] (d : α) : Tab α → Nat → α → Tab α
  | [], i, v => if v = d then [] else [(i, v)]
  | (k, w) :: t, i, v =>
    if i < k then (if v = d then (k, w) :: t else (i, v) :: (k, w) :: t)
    else if i = k then (if v = d then t else (i, v) :: t)
    else (k, w) :: tabSet d t i v

/-- The canonical form: keys strictly rising from above `lo` (where given), no entry equal to `d`. -/
def tabWfFrom {α : Type} [DecidableEq α] (d : α) : Option Nat → Tab α → Bool
  | _, [] => true
  | lo, (k, v) :: t =>
    (match lo with | none => true | some l => decide (l < k)) && decide (v ≠ d) && tabWfFrom d (some k) t

def tabWf {α : Type} [DecidableEq α] (d : α) (t : Tab α) : Bool := tabWfFrom d none t

/-- Memory in its canonical form: addresses strictly rising, no listed byte equal to 0. -/
def Memory.wf (m : Mem) : Bool := tabWf (0 : Byte) m

/-- Every key of `[lo, hi)` goes back to the default. -/
def tabClear {α : Type} (t : Tab α) (lo hi : Nat) : Tab α := t.filter fun e => !(decide (lo ≤ e.1) && decide (e.1 < hi))

def memRead (m : Mem) (a : Nat) : Byte := tabGet 0 m a
def memWrite (m : Mem) (a : Nat) (b : Byte) : Mem := tabSet 0 m a b

/-- `n` bytes from address `a`, the lowest address first. -/
def memReadN (m : Mem) : Nat → Nat → List Byte
  | _, 0 => []
  | a, n + 1 => memRead m a :: memReadN m (a + 1) n

/-- Bytes written from address `a` up. -/
def memWriteL (m : Mem) : Nat → List Byte → Mem
  | _, [] => m
  | a, b :: bs => memWriteL (memWrite m a b) (a + 1) bs

/-- R8: the little-endian value of bytes. -/
def leValue : List Byte → Nat
  | [] => 0
  | b :: bs => b.toNat + 256 * leValue bs

/-- R8: the `n` bytes of a value, least significant first. -/
def leBytes : Nat → Nat → List Byte
  | 0, _ => []
  | n + 1, v => BitVec.ofNat 8 v :: leBytes n (v / 256)

/-- Little-endian words of `k` bytes each. -/
def leWords (k : Nat) : Nat → List Byte → List Nat
  | 0, _ => []
  | n + 1, bs => leValue (bs.take k) :: leWords k n (bs.drop k)

def quadOfBytes (bs : List Byte) : Quad := BitVec.ofNat 64 (leValue bs)

/-- Insert a number in a sorted list without repeats. -/
def setInsert : List Nat → Nat → List Nat
  | [], i => [i]
  | k :: t, i => if i < k then i :: k :: t else if i = k then k :: t else k :: setInsert t i

def setErase (l : List Nat) (i : Nat) : List Nat := l.filter (· != i)

/-- Field `[hi:lo]` of a natural number's bits. -/
def bits (v hi lo : Nat) : Nat := v / 2 ^ lo % 2 ^ (hi + 1 - lo)
def bit (v i : Nat) : Bool := v / 2 ^ i % 2 == 1
def bitNat (b : Bool) : Nat := if b then 1 else 0

/-- A counter of `w` bits that saturates. -/
def satAdd {w : Nat} (a : BitVec w) (n : Nat) : BitVec w :=
  if a.toNat + n < 2 ^ w then a + BitVec.ofNat w n else BitVec.allOnes w

def listModify {α : Type} (l : List α) (i : Nat) (f : α → α) : List α :=
  match l[i]? with
  | some v => l.set i (f v)
  | none => l

/-- Sum of a list of natural numbers. -/
def sumNat : List Nat → Nat
  | [] => 0
  | x :: t => x + sumNat t

def ceilDiv (a b : Nat) : Nat := (a + b - 1) / b

/-- Serial-number order of 32-bit sequence numbers (R413): `x` follows `y`. -/
def seqFollows (x y : BitVec 32) : Bool :=
  let d := (x - y).toNat
  decide (1 ≤ d) && decide (d ≤ 2147483647)

/-- "At or above" in serial-number order (R413). -/
def seqAtOrAbove (x y : BitVec 32) : Bool := x == y || seqFollows x y

end Sys2Proof.Machine
end

