-- ==== Sys2Proof/Machine/Flags.lean ====
section
/-! DEFINITION. Messages to the host, event bits, severities, the aggregator and the ring of records: everything that a
status code or an event bit sets (R373, R398-R401, R412-R417, R452). -/
namespace Sys2Proof.Machine

/-- The next free value's number; the counter is advanced. -/
def takeFree (s : State) : Nat × State := (s.free, { s with free := s.free + 1 })

/-- Prompt positions that a prefill chunk has yet to compute: all but the last token. -/
def Request.promptLeft (r : Request) : Nat := r.prompt.length - 1 - r.matched - r.computed

/-- A latency-critical request has prompt positions ready (R298). -/
def lcPromptReady (s : State) : Bool :=
  s.serve.requests.any fun e => e.2.state == .ready && !e.2.bestEffort && decide (0 < e.2.promptLeft)

/-- R324: a latency-critical prompt position is ready, or a chunk computes some. -/
def lcPromptHeld (s : State) : Bool :=
  lcPromptReady s || s.serve.chunk.any fun x => x.members.any fun m => !(tabGet {} s.serve.requests m.1).bestEffort

/-- R7, R382: `n` microseconds pass on the serving engine's counter; the operating-hours counter takes a unit of 1/65,536 hour
every 3,515,625 / 64 µs. R324: latency-critical prompt positions that are held are held until then. -/
def passTime (n : Nat) (s : State) : State :=
  let k := s.opTicks + 64 * n
  { s with
    us := s.us + n
    opTicks := k % 3515625
    lut.opHours := s.lut.opHours + BitVec.ofNat 48 (k / 3515625)
    tenancy.lastLcPrompt := if lcPromptHeld s then s.us + n else s.tenancy.lastLcPrompt }

/-- Commands that carry a time (in µs since the start) move the clock forward only; the counter runs from step 5 on (R7). -/
def advanceTo (us : Nat) (s : State) : State := if 5 ≤ s.start.state then passTime (us - s.us) s else s

/-- R366: a request on the link is sent, or waits in its order while Bus Master Enable is 0 or the function is in D3hot. -/
def sendMsg (m : HostMsg) (s : State) : State :=
  if s.port.busMasterEnable && !s.port.d3hot then { s with port.sent := s.port.sent ++ [m] }
  else { s with port.waiting := s.port.waiting ++ [m] }

/-- AER messages are not requests of the function; they are sent as the specification directs (R370). -/
def sendAer (error : AerError) (s : State) : State := { s with port.sent := s.port.sent ++ [.aer error] }

def answer (a : Answer) (s : State) : State := { s with port.answer := a }

def msixEntry (s : State) (v : Nat) : MsixEntry := tabGet {} s.port.msix v

def vectorOpen (s : State) (v : Nat) : Bool := s.port.msixEnable && !s.port.functionMask && !(msixEntry s v).masked

/-- R373: a signal on a vector sends its message, or sets its pending bit while the vector is masked. -/
def signalVector (v : Nat) (s : State) : State :=
  if vectorOpen s v then sendMsg (.msix v (msixEntry s v).addr (msixEntry s v).data) s
  else { s with port.pending := setInsert s.port.pending v }

/-- R373: an event bit that rises from 0 to 1 signals EVENT_VECTOR when EVENT_IRQ_ENABLE is 1. -/
def raisedBit (old : Bool) (s : State) : State :=
  if !old && s.port.eventIrqEnable then signalVector s.port.eventVector s else s

def raisePortEvent (s : State) : State := raisedBit s.port.event { s with port.event := true }
def raiseRecordEvent (s : State) : State := raisedBit s.lut.recordEvent { s with lut.recordEvent := true }
def raiseAggEvent (s : State) : State := raisedBit s.lut.aggEvent { s with lut.aggEvent := true }
def raisePoisonEvent (s : State) : State := raisedBit s.protect.event { s with protect.event := true }
def raiseDegradedEvent (s : State) : State := raisedBit s.spread.degradedEvent { s with spread.degradedEvent := true }

/-- Codes of severity info, warning, error and fatal: the status-code tables of every chapter. -/
def infoCodes : List Nat := [0x1005, 0x1006, 0x3011, 0x3C12, 0x5023, 0x7011, 0x7012, 0x7031, 0x7051, 0x7065]
def warningCodes : List Nat :=
  List.range' 0x3001 4 ++ [0x3013, 0x3015, 0x3018, 0x3030, 0x3C01, 0x3C03, 0x3C10, 0x4020, 0x4820, 0x4843] ++
  List.range' 0x4C04 2 ++ [0x5001] ++ List.range' 0x5010 10 ++ [0x5021, 0x5034] ++
  List.range' 0x6001 3 ++ [0x6010, 0x6011, 0x6020, 0x6040, 0x7010, 0x7013, 0x7014, 0x7032, 0x7050, 0x7060, 0x7066, 0x7067] ++
  [0x8011] ++ List.range' 0x8013 5 ++ [0x8846, 0x9045, 0x9C01, 0x9C03]
def errorCodes : List Nat :=
  List.range' 0x1002 3 ++ [0x2030] ++ List.range' 0x2040 5 ++ [0x3005, 0x3010, 0x3012, 0x3014, 0x3C02, 0x3C11, 0x3C30] ++
  List.range' 0x4C11 4 ++ [0x4C20, 0x4C21, 0x5002, 0x5020, 0x5022] ++ List.range' 0x5030 3 ++
  [0x5040, 0x6050, 0x7001, 0x7030, 0x7041] ++ List.range' 0x8001 5 ++ [0x8012, 0x8030] ++ List.range' 0x8050 3 ++
  List.range' 0x8841 5 ++ List.range' 0x9041 4 ++ [0x9046, 0x9047, 0x9050, 0x9C02]
def fatalCodes : List Nat := [0x7020, 0x7021, 0x7052]

/-- R398: the severity of a code; none for a code that is only returned. -/
def severityOf (code : Half) : Option Severity :=
  let c := code.toNat
  if fatalCodes.contains c then some .fatal
  else if errorCodes.contains c then some .error
  else if warningCodes.contains c then some .warning
  else if infoCodes.contains c then some .info
  else none

/-- R430: the codes that START_CODE may hold. -/
def startCodes : List Nat :=
  [0x1001, 0x1002, 0x1003, 0x1004, 0x1005, 0x1006, 0x7066, 0x3C01, 0x3C02, 0x3C03, 0x3C10, 0x3C30, 0x7001, 0x7020,
   0x7030, 0x7032, 0x5020]

/-- R430: the first listed code raised in a start enters START_CODE. -/
def noteStartCode (code : Half) (s : State) : State :=
  if s.start.starting && s.start.startCode == 0 && startCodes.contains code.toNat then
    { s with start.startCode := code }
  else s

/-- Subjects of R397. -/
def subjModule : Half := 0x0000
def subjLink (n : Nat) : Half := BitVec.ofNat 16 (0x0100 + n)
def subjSensor (k : Nat) : Half := BitVec.ofNat 16 (0x0200 + k)
def subjServing : Half := 0x0400
def subjSampling : Half := 0x0401
def subjPort : Half := 0x0402
def subjLuthier : Half := 0x0403
def subjTile (t : Nat) : Half := BitVec.ofNat 16 (0x0800 + t)
def subjCollector (t k : Nat) : Half := BitVec.ofNat 16 (0x0900 + 4 * t + k)
def subjChannel (c : Nat) : Half := BitVec.ofNat 16 (0x0A00 + c)
def subjDieBus (t d : Nat) : Half := BitVec.ofNat 16 (0x0C00 + 16 * t + d)
def subjCore (g : Nat) : Half := BitVec.ofNat 16 (0x0D00 + g)
def subjUnit (u : Nat) : Half := BitVec.ofNat 16 (0x1000 + u)

def unflushed (s : State) : List RingEntry := s.log.ring.filter fun e => !e.flushed

/-- R416: a trigger asks for a flush; it runs at the FLUSH command. -/
def triggerFlush (s : State) : State := { s with log.flushWaiting := true }

def removeFirst {α : Type} (p : α → Bool) : List α → List α
  | [] => []
  | x :: t => if p x then t else x :: removeFirst p t

/-- R416, R417: the ring with a place for a record of this severity, and how many records were replaced and dropped. -/
def makePlace (ring : List RingEntry) (sev : Severity) : Option (List RingEntry × Nat) :=
  if ring.length < 4096 then some (ring, 0)
  else if ring.any (·.flushed) then some (removeFirst (·.flushed) ring, 0)
  else if ring.any fun e => decide (e.record.severity.rank ≤ sev.rank) then
    some (removeFirst (fun e => decide (e.record.severity.rank ≤ sev.rank)) ring, 1)
  else none

/-- R413-R417: a record takes the next SEQ and enters the ring, or is dropped and takes none. -/
def commitRecord (r : Record) (s : State) : State :=
  match makePlace s.log.ring r.severity with
  | none => { s with log.dropped := s.log.dropped + 1 }
  | some (ring, replaced) =>
    let rec' : Record := { r with seq := s.log.nextSeq, powerCycle := s.lut.powerCycles }
    let high := decide (Severity.error.rank ≤ r.severity.rank)
    let s1 : State := { s with
      log.ring := ring ++ [{ record := rec', flushed := false }]
      log.nextSeq := s.log.nextSeq + 1
      log.newestOpen := !high
      log.overwritten := s.log.overwritten + BitVec.ofNat 64 replaced }
    let s2 := raiseRecordEvent s1
    if high || decide (2048 ≤ (unflushed s2).length) then triggerFlush s2 else s2

def foldCode (old new : Half) : Half :=
  if new == 0 then old
  else if old == 0 then new
  else match severityOf new, severityOf old with
    | some a, some b => if b.rank < a.rank then new else old
    | _, _ => old

def Aggregate.toRecord (a : Aggregate) : Record :=
  { code := a.code, subject := a.subject, severity := a.severity, type := .event, repeats := a.repeats, seq := 0,
    powerCycle := 0, stamp := a.stamp, folded := a.folded, lastStamp := a.lastStamp, reporter := a.reporter,
    detail := a.detail, lastDetail := a.lastDetail, foldedCode := a.foldedCode }

/-- R414: merge an aggregate into the newest record. -/
def mergeRecord (a : Aggregate) (r : Record) : Record :=
  { r with
    repeats := satAdd r.repeats a.repeats.toNat
    folded := satAdd r.folded a.folded.toNat
    lastStamp := a.lastStamp
    lastDetail := a.lastDetail
    foldedCode := foldCode r.foldedCode a.foldedCode }

/-- R398 step 3, R414: an aggregate becomes a record, or is merged into the newest open record. -/
def commitAggregate (a : Aggregate) (s : State) : State :=
  match s.log.ring.getLast? with
  | some e =>
    if s.log.newestOpen && e.record.code == a.code && e.record.subject == a.subject && e.record.type == .event then
      { s with
        log.ring := s.log.ring.dropLast ++ [{ e with record := mergeRecord a e.record }]
        log.merges := s.log.merges + 1 }
    else commitRecord a.toRecord s
  | none => commitRecord a.toRecord s

/-- Every open aggregate is committed, the oldest first (R365, R392). -/
def commitAll (s : State) : State :=
  s.lut.aggregates.foldl (fun s a => commitAggregate a s) { s with lut.aggregates := [] }

def matchAgg (code subject : Half) (a : Aggregate) : Bool := a.code == code && a.subject == subject

/-- R398 step 2: one further report. -/
def Aggregate.again (a : Aggregate) (now : Hours) (detail : Word) : Aggregate :=
  { a with repeats := satAdd a.repeats 1, lastStamp := now, lastDetail := detail }

/-- R399: the aggregate of severity error or fatal, open for `subject`, of highest severity, the oldest on a tie. -/
def foldTarget (subject : Half) : List Aggregate → Option Aggregate
  | [] => none
  | a :: t =>
    let rest := foldTarget subject t
    if a.subject == subject && decide (Severity.error.rank ≤ a.severity.rank) then
      match rest with
      | some b => if a.severity.rank < b.severity.rank then some b else some a
      | none => some a
    else rest

/-- R398 steps 1, 4 and 5: a report that matches nothing opens an aggregate. -/
def openAggregate (code subject reporter : Half) (sev : Severity) (detail : Word) (s : State) : State :=
  let s1 := match s.lut.aggregates with
    | a :: t => if 64 ≤ s.lut.aggregates.length then commitAggregate a { s with lut.aggregates := t } else s
    | [] => s
  let a : Aggregate :=
    { code := code, subject := subject, reporter := reporter, severity := sev, repeats := 1, folded := 0,
      foldedCode := 0, stamp := s.lut.opHours, lastStamp := s.lut.opHours, detail := detail, lastDetail := detail }
  let s2 := if Severity.error.rank ≤ sev.rank then raiseAggEvent s1 else s1
  if sev = .fatal then commitAggregate a s2
  else { s2 with lut.aggregates := s2.lut.aggregates ++ [a] }

/-- R398, R399: what the aggregator does with a report; the Bool says that an aggregate opened. -/
def aggregate (code subject reporter : Half) (sev : Severity) (detail : Word) (s : State) : State × Bool :=
  if s.lut.aggregates.any (matchAgg code subject) then
    ({ s with lut.aggregates := s.lut.aggregates.map fun a =>
        if matchAgg code subject a then a.again s.lut.opHours detail else a }, false)
  else match foldTarget subject s.lut.aggregates with
    | some b =>
      if sev.rank ≤ b.severity.rank then
        ({ s with
          lut.aggregates := s.lut.aggregates.map fun a =>
            if matchAgg b.code b.subject a then
              { a.again s.lut.opHours detail with folded := satAdd a.folded 1, foldedCode := foldCode a.foldedCode code }
            else a
          lut.folded := s.lut.folded + 1 }, false)
      else (openAggregate code subject reporter sev detail s, true)
    | none => (openAggregate code subject reporter sev detail s, true)

def raiseTileBit (tiles : List Nat) (t : Nat) (set : List Nat → State → State) (s : State) : State :=
  raisedBit (tiles.contains t) (set (setInsert tiles t) s)

def raiseUnitEvent (t : Nat) (s : State) : State :=
  raiseTileBit s.events.unit t (fun l s => { s with events.unit := l }) s
def raiseCoreEvent (t : Nat) (s : State) : State :=
  raiseTileBit s.events.core t (fun l s => { s with events.core := l }) s
def raiseScratchEvent (t : Nat) (s : State) : State :=
  raiseTileBit s.events.scratch t (fun l s => { s with events.scratch := l }) s
def raiseKvEvent (s : State) : State := raisedBit s.events.kv { s with events.kv := true }
def raiseFabricEvent (s : State) : State := raisedBit s.events.fabric { s with events.fabric := true }

/-- The W1C event bit of the area whose code is recorded: KV_EVENT (R293), FABRIC_EVENT (R361), PORT_EVENT (R380) and
SCRATCH_EVENT of the tile that is the subject (R229). -/
def raiseAreaEvent (code subject : Half) (s : State) : State :=
  let c := code.toNat
  if c / 0x1000 = 6 then raisePortEvent s
  else if c / 0x1000 = 5 then raiseFabricEvent s
  else if 0x4C00 ≤ c ∧ c < 0x5000 then raiseKvEvent s
  else if 0x9C00 ≤ c ∧ c < 0xA000 then raiseScratchEvent (subject.toNat % 8) s
  else s

/-- One report without R401: nothing for a code without severity. -/
def reportCore (code subject reporter : Half) (detail : Word) (s : State) : State × Bool :=
  match severityOf code with
  | none => (s, false)
  | some sev => aggregate code subject reporter sev detail (raiseAreaEvent code subject (noteStartCode code s))

/-- R401: codes on which Luthier forces a test of the unit or core at once. -/
def forcesTest (code : Half) : Bool :=
  let c := code.toNat
  c == 0x7041 || (decide (0x8001 ≤ c) && decide (c ≤ 0x8005)) || c == 0x9046

/-- The unit or core a subject names (R397). -/
def testOfSubject (subject : Half) : Option TestSubject :=
  let n := subject.toNat
  if 0x0D00 ≤ n ∧ n < 0x0D80 then some (.core (n - 0x0D00))
  else if 0x1000 ≤ n ∧ n < 0x3000 then some (.unit (n - 0x1000))
  else none

/-- R452: the subject of 0x7031 is the channel or core tested. -/
def windowSubject : TestSubject → Half
  | .channel c => subjChannel c
  | .unit u => subjChannel (u / 16)
  | .core g => subjCore g

/-- R395: a window is forced: the test waits for it, and 0x7031 is recorded with the reason in DETAIL. -/
def forceWindow (t : TestSubject) (reason : Nat) (byMailbox : Bool) (s : State) : State :=
  let run : TestRun := { subject := t, reason := reason, isRepeat := false, byMailbox := byMailbox }
  if s.lut.forced.contains run then s
  else (reportCore 0x7031 (windowSubject t) subjLuthier (BitVec.ofNat 32 reason)
    { s with lut.forced := s.lut.forced ++ [run] }).1

/-- R398-R401: a report of a code with its subject, reporter and detail. -/
def report (code subject reporter : Half) (detail : Word) (s : State) : State :=
  let r := reportCore code subject reporter detail s
  if r.2 && forcesTest code then
    match testOfSubject subject with
    | some t => forceWindow t 3 false r.1
    | none => r.1
  else r.1

/-- R452: a report whose detail the spec leaves open. -/
def reportFree (code subject reporter : Half) (s : State) : State :=
  let (n, s') := takeFree s
  report code subject reporter (Config.freeDetail n) s'

end Sys2Proof.Machine
end

