-- ==== Sys2Proof/Machine/Recorder.lean ====
section
/-! DEFINITION. The event recorder: record words, flush and partition, the window, clearing (R412-R423). -/
namespace Sys2Proof.Machine

/-- Luthier runs: after step 3 of start-up, not in the service state (R443). -/
def luthierRuns (s : State) : Bool := decide (3 ≤ s.start.state) && !s.start.stopped && !s.supply.service

/-- One bit of the IEEE 802.3 CRC-32, least significant bit first. -/
def crcBit (c : Nat) : Nat := if c % 2 = 1 then (c / 2) ^^^ 0xEDB88320 else c / 2

def crcByte (c : Nat) (b : Byte) : Nat :=
  crcBit (crcBit (crcBit (crcBit (crcBit (crcBit (crcBit (crcBit (c ^^^ b.toNat))))))))

/-- The remainder carried over the bytes. It is looked at after every byte, so that an evaluation by the kernel holds a numeral. -/
def crcOver : List Byte → Nat → Nat
  | [], c => c
  | b :: t, c => match crcByte c b with
    | 0 => crcOver t 0
    | n + 1 => crcOver t (n + 1)

/-- CRC-32 with the IEEE 802.3 polynomial (R95, R412). -/
def crc32 (bs : List Byte) : Word := ~~~(BitVec.ofNat 32 (crcOver bs 0xFFFFFFFF))

def typeCode : RecordType → Nat
  | .event => 0
  | .clear => 1
  | .start => 2

/-- Words 0 to 6 of a record (R412). -/
def recordBody (r : Record) : List Quad :=
  [r.code ++ r.subject ++ BitVec.ofNat 2 r.severity.rank ++ BitVec.ofNat 2 (typeCode r.type) ++ (0 : BitVec 12) ++ r.repeats,
   r.seq ++ r.powerCycle,
   r.stamp ++ r.folded,
   r.lastStamp ++ r.reporter,
   r.detail ++ r.lastDetail,
   r.foldedCode ++ (0 : BitVec 48),
   0]

def quadBytes (q : Quad) : List Byte := leBytes 8 q.toNat

/-- R412: the CRC over bytes 0 to 55; a record whose CRC fails is given the complement. -/
def recordCrc (r : Record) : Word :=
  let c := crc32 (((recordBody r).map quadBytes).flatten)
  if r.crcBad then ~~~c else c

/-- The eight words of a record (R412). -/
def recordWords (r : Record) : List Quad := recordBody r ++ [(0 : Word) ++ recordCrc r]

/-- R393: the case temperature of flash `k` in 1/16 °C: channel 198 + k, its substitute if broken, or the boot ROM's
sample until housekeeping round 0 has sampled it. -/
def flashTemp (k : Nat) (s : State) : Int :=
  let r := tabGet {} s.lut.readings (198 + k)
  if r.valid then (if r.broken then r.substitute else r.raw.toInt)
  else if k = 0 then s.lut.bootSample0.toInt else s.lut.bootSample1.toInt

/-- R393: a page program or block erase of flash `k` may be issued. -/
def flashOk (k : Nat) (s : State) : Bool := decide (0 ≤ flashTemp k s) && decide (flashTemp k s ≤ 95 * 16)

/-- R393: a write that cannot be issued is held and recorded once with 0x7060. -/
def holdWrite (w : HeldWrite) (s : State) : State :=
  if s.lut.held.contains w then s
  else reportFree 0x7060 subjLuthier subjLuthier { s with lut.held := s.lut.held ++ [w] }

def lowestRank : List Record → Nat
  | [] => 4
  | r :: t => min r.severity.rank (lowestRank t)

/-- R418: one record written to the partition of 524,288 slots, 256 of them kept free: the oldest record of the lowest
severity gives way, and a record below every one held is dropped. -/
def partitionWrite (r : Record) (s : State) : State :=
  if s.nvm.log.length < 524288 - 256 then { s with nvm.log := s.nvm.log ++ [r] }
  else if r.severity.rank < lowestRank s.nvm.log then { s with log.dropped := s.log.dropped + 1 }
  else { s with
    nvm.log := removeFirst (fun e => e.severity.rank == lowestRank s.nvm.log) s.nvm.log ++ [r]
    log.overwritten := s.log.overwritten + 1 }

def writeAll (rs : List Record) (s : State) : State := rs.foldl (fun s r => partitionWrite r s) s

/-- R416: a flush begins: every unflushed record in SEQ order is written, and closes (R415). -/
def beginFlush (s : State) : State :=
  let rs := (unflushed s).map (·.record)
  let s1 := writeAll rs { s with
    log.flushWaiting := false
    log.flushHeld := false
    log.flushing := some (rs.map (·.seq))
    log.newestOpen := false }
  { s1 with lut.held := s1.lut.held.filter (· != .log) }

/-- R416, R393: a waiting trigger starts a flush, unless one runs; out of 0 to 95 °C the flush is held. -/
def startFlush (s : State) : State :=
  if !s.log.flushWaiting || s.log.flushing.isSome then s
  else if flashOk 0 s then beginFlush s
  else holdWrite .log { s with log.flushHeld := true }

/-- R416: the flush ends; its records stay in the ring as copies, and a trigger that waited starts the next. -/
def endFlush (s : State) : State :=
  match s.log.flushing with
  | none => s
  | some seqs =>
    startFlush { s with
      log.flushing := none
      log.flushes := s.log.flushes + 1
      log.ring := s.log.ring.map fun e => if seqs.contains e.record.seq then { e with flushed := true } else e }

/-- Every severity in turn, the highest first (R416, loss of both feeds). -/
def fatalFirst (rs : List Record) : List Record :=
  rs.filter (·.severity == .fatal) ++ rs.filter (·.severity == .error) ++ rs.filter (·.severity == .warning) ++
    rs.filter (·.severity == .info)

/-- R392, R365: the last flush before the module stops: at most `limit` records reach the flash, none while the
temperature rule forbids it; the ring is lost with what was not written. -/
def lastFlush (fatalsFirst : Bool) (limit : Nat) (s : State) : State :=
  if flashOk 0 s then
    let done := s.log.flushing.getD []
    let rs := ((unflushed s).map (·.record)).filter fun r => !done.contains r.seq
    writeAll ((if fatalsFirst then fatalFirst rs else rs).take limit) s
  else s

/-- R419: the records held, the ring's copy first where both hold one. -/
def heldRecords (s : State) : List Snapshot :=
  let lastSeq := (s.log.ring.getLast?.map (·.record.seq))
  s.log.ring.map (fun e => { record := e.record, isOpen := s.log.newestOpen && lastSeq == some e.record.seq, inRing := true }) ++
  (s.nvm.log.filter fun r => !s.log.ring.any fun e => e.record.seq == r.seq).map
    fun r => { record := r, isOpen := false, inRing := false }

/-- The record with the smallest SEQ at or above `cursor` in serial-number order (R413, R419). -/
def nextRecord (cursor : Word) : List Snapshot → Option Snapshot
  | [] => none
  | x :: t =>
    let rest := nextRecord cursor t
    if seqAtOrAbove x.record.seq cursor then
      match rest with
      | some y => if (y.record.seq - cursor).toNat < (x.record.seq - cursor).toNat then some y else some x
      | none => some x
    else rest

/-- R419: a read of window word 0 latches the next record at or above CURSOR and advances CURSOR. -/
def latchWindow (s : State) : State :=
  match nextRecord s.log.cursor (heldRecords s) with
  | some x => { s with log.snapshot := some x, log.cursor := x.record.seq + 1 }
  | none => { s with log.snapshot := none }

/-- Word `k` of the latched record; zero where nothing is latched. -/
def windowWord (k : Nat) (s : State) : Quad :=
  match s.log.snapshot with
  | some x => (recordWords x.record).getD k 0
  | none => 0

/-- WINDOW_STATUS (R423): VALID, OPEN, CRC_BAD, IN_RING. -/
def windowStatus (s : State) : Word :=
  match s.log.snapshot with
  | some x => BitVec.ofNat 32 (0x80000000 + 0x40000000 * bitNat x.isOpen + 0x20000000 * bitNat x.record.crcBad +
      0x10000000 * bitNat x.inRing)
  | none => 0

/-- The serially highest or lowest SEQ held (R413): `first` compares. -/
def extremeSeq (above : Bool) : List Word → Option Word
  | [] => none
  | x :: t => match extremeSeq above t with
    | none => some x
    | some y => if seqFollows x y == above then some x else some y

def heldSeqs (s : State) : List Word := (heldRecords s).map (·.record.seq)
def oldestSeq (s : State) : Word := (extremeSeq false (heldSeqs s)).getD 0
def newestSeq (s : State) : Word := (extremeSeq true (heldSeqs s)).getD 0

/-- R422: EVENT and START records at or below UP_TO_SEQ go. -/
def clearable (upTo : Word) (r : Record) : Bool :=
  r.type != .clear && (r.seq == upTo || seqFollows upTo r.seq)

/-- R422: the clear, and its CLEAR record. -/
def clearLog (upTo : Word) (s : State) : State :=
  let removed := ((heldRecords s).filter fun x => clearable upTo x.record).length
  let s1 : State := { s with
    log.ring := s.log.ring.filter fun e => !clearable upTo e.record
    nvm.log := s.nvm.log.filter fun r => !clearable upTo r }
  commitRecord
    { code := 0, subject := subjModule, severity := .error, type := .clear, repeats := 1, seq := 0, powerCycle := 0,
      stamp := s.lut.opHours, folded := 0, lastStamp := s.lut.opHours, reporter := subjLuthier,
      detail := BitVec.ofNat 32 removed, lastDetail := upTo, foldedCode := 0 } s1

/-- R393, R422: the clear that was accepted runs. -/
def programClear (s : State) : State :=
  match s.lut.pendingClear with
  | none => s
  | some upTo => clearLog upTo { s with lut.pendingClear := none, lut.held := s.lut.held.filter (· != .clear) }

/-- R413, start-up step 3: SEQ goes on from the partition, and a START record is committed. -/
def startRecord (s : State) : State :=
  let valid := s.nvm.log.filter fun r => !r.crcBad
  let next : Word := match extremeSeq true (valid.map (·.seq)) with
    | some x => x + 1
    | none => 0
  commitRecord
    { code := 0, subject := subjModule, severity := .info, type := .start, repeats := 1, seq := 0, powerCycle := 0,
      stamp := s.lut.opHours, folded := 0, lastStamp := s.lut.opHours, reporter := subjLuthier,
      detail := BitVec.ofNat 32 valid.length, lastDetail := BitVec.ofNat 32 (s.nvm.log.length - valid.length),
      foldedCode := 0 } { s with log.nextSeq := next }

/-- REPORT (R398). -/
def execReport (code subject reporter : Half) (detail : Word) (s : State) : Out :=
  .next (report code subject reporter detail s)

/-- AGG_WINDOW_CLOSE (R398): the aggregate of this code and subject becomes a record. -/
def execAggWindowClose (code subject : Half) (s : State) : Out :=
  match s.lut.aggregates.find? (matchAgg code subject) with
  | some a => .next (commitAggregate a { s with lut.aggregates := removeFirst (matchAgg code subject) s.lut.aggregates })
  | none => .next s

/-- FLUSH (R416). -/
def execFlush (s : State) : Out := .next (startFlush s)

/-- FLUSH_DONE (R416). -/
def execFlushDone (s : State) : Out := .next (endFlush s)

/-- WINDOW_LATCH (R419): word 0, as a read of 4 or 8 bytes. -/
def windowLatch (eight : Bool) (s : State) : State :=
  let s1 := latchWindow s
  answer (.data ((quadBytes (windowWord 0 s1)).take (if eight then 8 else 4))) s1

end Sys2Proof.Machine
end

