-- ==== Sys2Proof/Machine/Ops.lean ====
section
/-! DEFINITION. The named operations over stacked memory and scratchpads: the spreading function, the outer code,
sectors with their poison marks, the poison table (chapters 04 to 06, 11). -/
namespace Sys2Proof.Machine

/-! The spreading function (R90, R91, R93). -/

/-- R93: the channels of a tile in the order of the live-unit table. -/
def channelOrder : List Nat := (List.range 64).map fun k => 4 * (k % 16) + k / 16

/-- R93: the live channels of tile `t` in order, under the applied map. -/
def liveList (applied : List Nat) (t : Nat) : List Nat := channelOrder.filter fun c => !applied.contains (64 * t + c)

/-- Live channels of each tile. -/
def tileCounts (applied : List Nat) : List Nat := (List.range 8).map fun t => (liveList applied t).length

/-- L: 16 units for each live channel (R89). -/
def liveUnitCount (applied : List Nat) : Nat := 16 * sumNat (tileCounts applied)

/-- The tiles that have a channel in slot `k`. -/
def tilesOfSlot (counts : List Nat) (k : Nat) : List Nat := (List.range 8).filter fun t => decide (k < counts.getD t 0)

/-- R93: slot and tile of position `p` in a block of the live-unit table. -/
def findSlot (counts : List Nat) : Nat → Nat → Nat → Nat × Nat
  | 0, k, _ => (k, 0)
  | f + 1, k, p =>
    let ts := tilesOfSlot counts k
    if p < ts.length then (k, ts.getD p 0) else findSlot counts f (k + 1) (p - ts.length)

/-- A place in stacked memory (R91). -/
structure Place where
  index : Nat
  tile : Nat
  channel : Nat
  unit : Nat
  bank : Nat
  row : Nat
  column : Nat
  deriving DecidableEq, Repr

/-- R93: tile, channel and unit of live index `i`. -/
def liveUnit (applied : List Nat) (i : Nat) : Nat × Nat × Nat :=
  let counts := tileCounts applied
  let block := sumNat counts
  let (k, t) := findSlot counts 64 0 (i % block)
  (t, (liveList applied t).getD k 0, i / block)

/-- R91: the rotation of unit row `r`. -/
def rotation (r : Nat) : Nat := 16 * (r * 0x9E3779B9 % 0x100000000 / 2 ^ 19)

/-- R90, R91: the place of module address `a`; none at or above C. -/
def place (s : State) (a : Nat) : Option Place :=
  let L := s.spread.units
  let g := a / 2048
  if L = 0 ∨ L * 40960 ≤ g then none
  else
    let r := g / L
    let i := (g % L + rotation r) % L
    let (t, c, n) := liveUnit s.spread.applied i
    some { index := i, tile := t, channel := c, unit := n, bank := 2 * n + r % 2, row := r / 2,
           column := a % 2048 / 32 }

/-- C (R89). -/
def capacity (s : State) : Nat := s.spread.units * 83886080

def globalChannel (p : Place) : Nat := 64 * p.tile + p.channel
def globalUnit (p : Place) : Nat := 1024 * p.tile + 16 * p.channel + p.unit

/-- The number of a physical sector: channel, bank, row, column. -/
def sectorOf (chan bank row column : Nat) : Nat := ((chan * 32 + bank) * 20480 + row) * 64 + column

def Place.sector (p : Place) : Nat := sectorOf (globalChannel p) p.bank p.row p.column

def chanOfSector (n : Nat) : Nat := n / 64 / 20480 / 32
def bankOfSector (n : Nat) : Nat := n / 64 / 20480 % 32
def rowOfSector (n : Nat) : Nat := n / 64 % 20480

/-- Positions before slot `k` of a block. -/
def slotStart (counts : List Nat) (k : Nat) : Nat := sumNat ((List.range k).map fun j => (tilesOfSlot counts j).length)

/-- R93 read backwards: the live index of a unit, none for a unit of a mapped-out channel. -/
def liveIndex (applied : List Nat) (t c n : Nat) : Option Nat :=
  let counts := tileCounts applied
  match (liveList applied t).findIdx? (· == c) with
  | none => none
  | some k => some (n * sumNat counts + slotStart counts k + ((tilesOfSlot counts k).findIdx? (· == t)).getD 0)

/-- R90, R91 read backwards: the module address of granule `r` of live index `i`. -/
def granuleAddress (L i r : Nat) : Nat := (r * L + (i + (L - rotation r % L)) % L) * 2048

/-- The module address of a physical sector; none on a channel of the applied map. -/
def sectorAddress (s : State) (n : Nat) : Option Nat :=
  let chan := chanOfSector n
  let bank := bankOfSector n
  match liveIndex s.spread.applied (chan / 64) (chan % 64) (bank / 2) with
  | none => none
  | some i => if s.spread.units = 0 then none else
      some (granuleAddress s.spread.units i (2 * rowOfSector n + bank % 2) + n % 64 * 32)

/-- The live units (R93), by number. -/
def liveUnits (s : State) : List Nat :=
  (List.range s.spread.units).map fun i =>
    let (t, c, n) := liveUnit s.spread.applied i
    1024 * t + 16 * c + n

/-- R390. -/
def tileTripped (s : State) (t : Nat) : Bool := (tabGet ({} : TileHeat) s.lut.heat t).tripped

/-- R395: a test that runs holds the unit, or the core. -/
def unitUnderTest (s : State) (u : Nat) : Bool := s.lut.tests.any fun r => match r.subject with
  | .channel c => c == u / 16
  | .unit v => v == u
  | .core _ => false

def coreUnderTest (s : State) (g : Nat) : Bool := s.lut.tests.any fun r => r.subject == .core g

/-! The outer code (R109-R113). -/

/-- GF(16) on x⁴ + x + 1: multiplication by α. -/
def gfDouble (a : BitVec 4) : BitVec 4 := if a.getLsbD 3 then (a <<< 1) ^^^ 3#4 else a <<< 1

def gfMul (a b : BitVec 4) : BitVec 4 :=
  let a1 := gfDouble a
  let a2 := gfDouble a1
  let a3 := gfDouble a2
  (if b.getLsbD 0 then a else 0) ^^^ (if b.getLsbD 1 then a1 else 0) ^^^ (if b.getLsbD 2 then a2 else 0) ^^^
    (if b.getLsbD 3 then a3 else 0)

/-- Powers of α. -/
def gfPowers : List (BitVec 4) := [1, 2, 4, 8, 3, 6, 12, 11, 5, 10, 7, 14, 15, 13, 9]
def gfPow (e : Nat) : BitVec 4 := gfPowers.getD (e % 15) 0

/-- R110: xₛ and yₛ of symbol `s`. -/
def colX (s : Nat) : BitVec 4 := if s < 15 then gfPow s else if s = 15 then 0 else gfPow (s - 16)
def colY (s : Nat) : BitVec 4 := if s < 16 then 0 else gfPow (3 * (s - 16))

/-- Symbol `s` of a codeword: data symbols 0-15, check symbols 16-19 (R109). -/
def symbol (data : Quad) (check : Half) (s : Nat) : BitVec 4 :=
  if s < 16 then data.extractLsb' (4 * s) 4 else check.extractLsb' (4 * (s - 16)) 4

structure Syndrome where
  s0 : BitVec 4
  s1 : BitVec 4
  s2 : BitVec 4
  s3 : BitVec 4
  deriving DecidableEq, Repr

def addSymbol (z : Syndrome) (s : Nat) (v : BitVec 4) : Syndrome :=
  let vx := gfMul v (colX s)
  { s0 := z.s0 ^^^ v, s1 := z.s1 ^^^ vx, s2 := z.s2 ^^^ gfMul vx (colX s), s3 := z.s3 ^^^ gfMul v (colY s) }

/-- R110: the syndrome of a codeword. -/
def syndrome (data : Quad) (check : Half) : Syndrome :=
  (List.range 20).foldl (fun z s => addSymbol z s (symbol data check s)) ⟨0, 0, 0, 0⟩

/-- R110: the check symbols that make the codeword valid (the inverse of the columns of symbols 16-19). -/
def encodeCheck (data : Quad) : Half :=
  let d := syndrome data 0
  let c0 := gfMul 7 d.s0 ^^^ gfMul 4 d.s1 ^^^ gfMul 1 d.s2 ^^^ gfMul 3 d.s3
  let c1 := gfMul 4 d.s0 ^^^ gfMul 12 d.s1 ^^^ gfMul 7 d.s2 ^^^ gfMul 15 d.s3
  let c2 := gfMul 1 d.s0 ^^^ gfMul 7 d.s1 ^^^ gfMul 8 d.s2 ^^^ gfMul 14 d.s3
  let c3 := gfMul 3 d.s0 ^^^ gfMul 15 d.s1 ^^^ gfMul 14 d.s2 ^^^ gfMul 2 d.s3
  c3 ++ c2 ++ c1 ++ c0

inductive Decoded
  | clean
  | corrected (data : Quad)
  | uncorrectable
  deriving DecidableEq, Repr

def errorAt (z : Syndrome) (s : Nat) : Bool :=
  let x := gfMul z.s0 (colX s)
  z.s1 == x && z.s2 == gfMul x (colX s) && z.s3 == gfMul z.s0 (colY s)

/-- R111: what the decoder makes of one codeword. -/
def decodeWord (data : Quad) (check : Half) : Decoded :=
  let z := syndrome data check
  if z = ⟨0, 0, 0, 0⟩ then .clean
  else if z.s0 = 0 then .uncorrectable
  else match (List.range 20).filter (errorAt z) with
    | [s] => .corrected (if s < 16 then data ^^^ ((z.s0.zeroExtend 64) <<< (4 * s)) else data)
    | _ => .uncorrectable

/-- Codeword `k` of a stored sector (R109). -/
def wordOf (data : BitVec 256) (k : Nat) : Quad := data.extractLsb' (64 * k) 64
def checkOf (checks : Quad) (k : Nat) : Half := checks.extractLsb' (16 * k) 16

def joinWords (a b c d : Quad) : BitVec 256 := d ++ c ++ b ++ a
def encodeChecks (data : BitVec 256) : Quad :=
  encodeCheck (wordOf data 3) ++ encodeCheck (wordOf data 2) ++ encodeCheck (wordOf data 1) ++ encodeCheck (wordOf data 0)

/-- R113: the poison codeword. -/
def isPoisonWord (data : BitVec 256) (checks : Quad) (k : Nat) : Bool := wordOf data k == 0 && checkOf checks k == 0xFFFF

/-- What a decoder delivers of a sector: the sector, the codewords it corrected, whether one was uncorrectable. -/
structure SectorRead where
  sector : Sector
  corrected : Nat
  uncorrectable : Bool
  deriving DecidableEq, Repr

def fixedWord (data : BitVec 256) (checks : Quad) (k : Nat) : Quad :=
  match decodeWord (wordOf data k) (checkOf checks k) with
  | .corrected d => d
  | _ => wordOf data k

/-- R111, R113: the decoding of a sector's four codewords. -/
def decodeSector (data : BitVec 256) (checks : Quad) : SectorRead :=
  let ks := [0, 1, 2, 3]
  if 2 ≤ (ks.filter (isPoisonWord data checks)).length then ⟨.poisoned, 0, false⟩
  else
    let ds := ks.map fun k => decodeWord (wordOf data k) (checkOf checks k)
    let fixed := (ds.filter fun d => d != .clean && d != .uncorrectable).length
    if ds.contains .uncorrectable then ⟨.poisoned, fixed, true⟩
    else
      let f := fixedWord data checks
      ⟨{ data := joinWords (f 0) (f 1) (f 2) (f 3), poison := false }, fixed, false⟩

/-! Stacked memory. -/

def sectorBytes (d : BitVec 256) : List Byte := leBytes 32 d.toNat
def sectorQuad (x : Sector) (i : Nat) : Quad := x.data.extractLsb' (64 * i) 64
def sectorWord (x : Sector) (i : Nat) : Word := x.data.extractLsb' (32 * i) 32
def sectorOfBytes (bs : List Byte) : BitVec 256 := BitVec.ofNat 256 (leValue bs)

def chan (s : State) (c : Nat) : Channel := tabGet {} s.dram.channels c
def setChan (c : Nat) (v : Channel) (s : State) : State := { s with dram.channels := tabPut s.dram.channels c v }
def onChan (c : Nat) (f : Channel → Channel) (s : State) : State := setChan c (f (chan s c)) s

/-- The 256 data bits stored in a physical sector. -/
def storedData (s : State) (n : Nat) : BitVec 256 := sectorOfBytes (memReadN s.dram.bytes (32 * n) 32)
def storedChecks (s : State) (n : Nat) : Quad := tabGet 0 s.dram.checks n

/-- The stored bits of a physical sector, exactly as given. -/
def setStored (n : Nat) (data : BitVec 256) (checks : Quad) (s : State) : State :=
  { s with
    dram.bytes := memWriteL s.dram.bytes (32 * n) (sectorBytes data)
    dram.checks := tabSet 0 s.dram.checks n checks }

/-- R109, R113: the stored form of a sector: its checks, or the poison codeword four times. -/
def storedForm (x : Sector) : BitVec 256 × Quad :=
  if x.poison then (0, BitVec.allOnes 64) else (x.data, encodeChecks x.data)

/-- R104: a sector stored inside the die; a write to a failed channel is discarded. -/
def putSector (n : Nat) (x : Sector) (s : State) : State :=
  if (chan s (chanOfSector n)).failed then s else setStored n (storedForm x).1 (storedForm x).2 s

/-! The wires of a channel (R72, R74, R112). -/

/-- R112: one bit of a sector inverted, data bit or check bit of its codeword. -/
def flipBit (bit : Nat) (d : BitVec 256 × Quad) : BitVec 256 × Quad :=
  let k := bit / 80 % 4
  let j := bit % 80
  if j < 64 then (d.1 ^^^ ((1 : BitVec 256) <<< (64 * k + j)), d.2)
  else (d.1, d.2 ^^^ ((1 : Quad) <<< (16 * k + (j - 64))))

/-- R74: wire `w` of a channel is in use through a wire that works: its own, or the spare it is mapped onto. -/
def wireWorks (h : Channel) (w : Nat) : Bool :=
  match tabFind? h.spares w with
  | some k => !h.wires.contains (320 + k)
  | none => !h.wires.contains w

/-- R112: the wires that disturb every beat of the channel. -/
def openWires (h : Channel) : List Nat := (h.wires ++ h.spares.map (·.1)).eraseDups.filter fun w => decide (w < 320) && !wireWorks h w

/-- What the open wires carry in one beat is free. -/
def wireNoise (free : Nat) (ws : List Nat) (d : BitVec 256 × Quad) : BitVec 256 × Quad :=
  ((List.range ws.length).zip ws).foldl (fun d p => if Config.wireBit (free + p.1) then flipBit p.2 d else d) d

/-- One beat of channel `c` over its wires. -/
def onBeat (c : Nat) (d : BitVec 256 × Quad) (s : State) : (BitVec 256 × Quad) × State :=
  match openWires (chan s c) with
  | [] => (d, s)
  | ws => (wireNoise s.free ws d, { s with free := s.free + ws.length })

/-- A sector that the controller writes over the channel (R104, R112). -/
def ctlPut (n : Nat) (x : Sector) (s : State) : State :=
  if (chan s (chanOfSector n)).failed then s
  else
    let (d, s1) := onBeat (chanOfSector n) (storedForm x) s
    setStored n d.1 d.2 s1

/-! The poison table (R122, R123). -/

def poisonCount (s : State) : Nat := (s.protect.table.filter fun e => e.2.getLsbD 63).length

/-- Module address bits [39:5] named by an entry. -/
def entryAddress (e : Quad) : Nat := e.toNat % 2 ^ 40 / 32 * 32

/-- The allocation of stacked memory, or of scratchpad, that holds byte `a`. -/
def allocAt (scratch : Bool) (a : Nat) (s : State) : Option (Nat × Alloc) :=
  s.tables.allocs.find? fun e => e.2.valid && e.2.scratch == scratch && decide (e.2.base ≤ a) &&
    decide (a < e.2.base + e.2.size)

/-- R231: the identifier of table index `i`. -/
def allocIdent (i : Nat) (a : Alloc) : Nat := a.gen * 16384 + i

def lowestFree {α : Type} (t : Tab α) (used : α → Bool) : Nat → Nat → Option Nat
  | 0, _ => none
  | f + 1, i => match tabFind? t i with
    | some v => if used v then lowestFree t used f (i + 1) else some i
    | none => some i

/-! The key-value reserve (R269, R274) and its poisoned blocks (R282). -/

/-- The serving image's cache declaration. -/
def servingImage (s : State) : Option (Nat × Image) := s.load.images.find? fun e => e.2.manifest.serves
def findCache : List Decl → Option CacheDecl
  | [] => none
  | .cache c :: _ => some c
  | _ :: t => findCache t
def cacheDecl (s : State) : Option CacheDecl := (servingImage s).bind fun e => findCache e.2.decls

/-- The reserve's base address. -/
def reserveBase (s : State) : Nat :=
  match servingImage s, cacheDecl s with
  | some (_, i), some d => (tabGet {} s.tables.allocs (i.allocs.getD d.reserve 0)).base
  | _, _ => 0

/-- R269. -/
def blockBytes (d : CacheDecl) : Nat := 2048 * ceilDiv (2 * d.layers * (d.pageBytes + d.headerBytes)) 2048

def blockAddress (s : State) (d : CacheDecl) (n : Nat) : Nat := reserveBase s + n * blockBytes d
def seqEntry (s : State) (q : Nat) : Sequence := tabGet {} s.kv.seqs q

/-- The block of the reserve that holds byte `a` of module memory. -/
def blockOfAddress (s : State) (a : Nat) : Option Nat :=
  match cacheDecl s with
  | none => none
  | some d =>
    if reserveBase s ≤ a ∧ a < reserveBase s + s.kv.total * blockBytes d then some ((a - reserveBase s) / blockBytes d)
    else none

/-- R282: the block's prefix entry is cleared. -/
def clearPrefix (b : Block) (s : State) : State :=
  if b.tree then { s with kv.prefixes := tabDel s.kv.prefixes b.prefixIndex } else s

/-- R273: no page of block `n` is open any more. -/
def closePages (n : Nat) (s : State) : State := { s with kv.pageOpen := s.kv.pageOpen.filter fun k => k / 4096 != n }

/-- R282: the block leaves use and is filled before it is free. -/
def startBlockFill (n : Nat) (s : State) : State :=
  { closePages n s with kv.blocks := tabDel s.kv.blocks n, kv.filling := s.kv.filling ++ [n] }

/-- R282, last row: a poison-table entry names a sector of block `n`. -/
def poisonBlock (n : Nat) (s : State) : State :=
  match tabFind? s.kv.blocks n with
  | none => s
  | some b =>
    let s1 := clearPrefix b s
    if b.refs = 0 then startBlockFill n s1
    else { s1 with kv.blocks := tabPut s1.kv.blocks n { b with poisoned := true, tree := false, prefixIndex := 0 } }

/-- R122, R123: a sector where poison arose enters the table at the lowest free index, or is dropped with 0x3013; the
result's index is that of the entry added. -/
def poisonAdd (addr : Nat) (foundBy : Nat) (s : State) : State × Option Nat :=
  let owner := allocAt false addr s
  let shared := match owner with | some (_, a) => a.readOnly | none => false
  let ident := match owner with | some (i, a) => allocIdent i a | none => 0
  let entry : Quad := BitVec.ofNat 64 (2 ^ 63 + bitNat shared * 2 ^ 62 + foundBy * 2 ^ 60 + ident * 2 ^ 40 + addr / 32 * 32)
  match lowestFree s.protect.table (fun e => e.getLsbD 63) 4096 0 with
  | some i =>
    let s1 := raisePoisonEvent { s with protect.table := tabSet 0 s.protect.table i entry }
    (match blockOfAddress s addr with | some n => poisonBlock n s1 | none => s1, some i)
  | none =>
    (reportFree 0x3013 subjModule subjModule { s with protect.dropped := s.protect.dropped + 1 }, none)

/-- R123: a whole-sector write other than the poison codeword removes the entry of its address. -/
def poisonRemove (addr : Nat) (s : State) : State :=
  { s with protect.table := s.protect.table.filter fun e => !(e.2.getLsbD 63 && entryAddress e.2 == addr / 32 * 32) }

/-- R122: a valid entry names the sector. -/
def poisonEntry? (addr : Nat) (s : State) : Option (Nat × Quad) :=
  s.protect.table.find? fun e => e.2.getLsbD 63 && entryAddress e.2 == addr / 32 * 32

/-- R123: what a write of a whole sector does to the poison table. -/
def afterWrite (n : Nat) (x : Sector) (s : State) : State :=
  if x.poison || s.protect.table.isEmpty || (chan s (chanOfSector n)).failed then s
  else match sectorAddress s n with
    | some a => poisonRemove a s
    | none => s

/-- A near-bank unit's write of a physical sector (R115, R123). -/
def writeSectorAt (n : Nat) (x : Sector) (s : State) : State := afterWrite n x (putSector n x s)

/-- The controller's write of a physical sector for any master (R112, R123). -/
def ctlWrite (n : Nat) (x : Sector) (s : State) : State := afterWrite n x (ctlPut n x s)

/-- R117 step 3: the sector proved uncorrectable twice: the poison codeword, the entry, the counters and records. -/
def poisonSector (n : Nat) (foundBy : Nat) (s : State) : State :=
  let c := chanOfSector n
  let s1 := onChan c (fun h => { h with uncorrectable := h.uncorrectable + 1 }) (ctlPut n .poisoned s)
  match sectorAddress s n with
  | none => report 0x3010 (subjChannel c) (subjChannel c) 0xFFFFFFFF s1
  | some a =>
    let (s2, i) := poisonAdd a foundBy s1
    let d : Word := match i with | some i => BitVec.ofNat 32 i | none => 0xFFFFFFFF
    let s3 := report 0x3010 (subjChannel c) (subjChannel c) d s2
    match allocAt false a s with
    | some (_, al) => if al.readOnly then report 0x3014 subjModule (subjChannel c) d s3 else s3
    | none => s3

/-- One read of a stored sector over the channel's wires, its corrections counted (R111, R112, R131). -/
def readBeat (n : Nat) (s : State) : SectorRead × State :=
  let c := chanOfSector n
  let (d, s1) := onBeat c (storedData s n, storedChecks s n) s
  let r := decodeSector d.1 d.2
  (r, if r.corrected = 0 then s1 else
    onChan c (fun h => { h with outerCorrected := h.outerCorrected + BitVec.ofNat 64 r.corrected }) s1)

/-- R117 steps 2 and 3: what the second read of a sector comes to. -/
def secondOutcome (n foundBy : Nat) (r : SectorRead) (s : State) : State :=
  let c := chanOfSector n
  if r.uncorrectable then poisonSector n foundBy s
  else if r.sector.poison then s
  else reportFree 0x3011 (subjChannel c) (subjChannel c) (onChan c (fun h => { h with outerRetried := h.outerRetried + 1 }) s)

/-- A controller read of a physical sector (R104, R111, R117): an uncorrectable one is read once more at once. -/
def ctlRead (n : Nat) (s : State) : Sector × State :=
  let c := chanOfSector n
  if (chan s c).failed then (.poisoned, s)
  else
    let (r, s1) := readBeat n s
    let (r2, s2) := if r.uncorrectable then
        let (q, s') := readBeat n s1
        (q, secondOutcome n 0 q s')
      else (r, s1)
    (r2.sector, if r2.sector.poison then onChan c (fun h => { h with poisonDelivered := h.poisonDelivered + 1 }) s2 else s2)

/-- The sector at module address `a` as the decoder delivers it, without any effect: the model's read of stacked memory. -/
def peekSector (s : State) (a : Nat) : Option Sector :=
  match place s a with
  | none => none
  | some p =>
    if (chan s (globalChannel p)).failed then some .poisoned
    else some (decodeSector (storedData s p.sector) (storedChecks s p.sector)).sector

/-- R75, R88: the beats of the burst that a sector belongs to, counted where the burst begins. -/
def countRead (fresh : Bool) (p : Place) (s : State) : State :=
  if (fresh || p.column % 8 == 0) && !(chan s (globalChannel p)).failed then
    onChan (globalChannel p) (fun h => { h with readBeats := h.readBeats + 8 }) s
  else s

def countWrite (fresh : Bool) (p : Place) (s : State) : State :=
  if (fresh || p.column % 8 == 0) && !(chan s (globalChannel p)).failed then
    onChan (globalChannel p) (fun h => { h with writeBeats := h.writeBeats + 8 }) s
  else s

/-- A read of the sector at module address `a` by a controller; none at or above C. `fresh`: a burst of its own. -/
def readAddrIn (fresh : Bool) (a : Nat) (s : State) : Option Sector × State :=
  match place s a with
  | none => (none, s)
  | some p => let (x, s') := ctlRead p.sector s; (some x, countRead fresh p s')

def readAddr (a : Nat) (s : State) : Option Sector × State := readAddrIn true a s

/-- A write of the whole sector at module address `a`; nothing at or above C. -/
def writeAddrIn (fresh : Bool) (a : Nat) (x : Sector) (s : State) : State :=
  match place s a with
  | none => s
  | some p => countWrite fresh p (ctlWrite p.sector x s)

def writeAddr (a : Nat) (x : Sector) (s : State) : State := writeAddrIn true a x s

def readOn (fresh : Bool) : Nat → Nat → State → List Sector × State
  | 0, _, s => ([], s)
  | n + 1, a, s =>
    let (x, s1) := readAddrIn fresh a s
    let (xs, s2) := readOn false n (a + 32) s1
    (x.getD .zero :: xs, s2)

/-- `n` consecutive sectors from address `a`; a sector at or above C is delivered as zeros. -/
def readSectors (n a : Nat) (s : State) : List Sector × State := readOn true n a s

def writeOn (fresh : Bool) : Nat → List Sector → State → State
  | _, [], s => s
  | a, x :: xs, s => writeOn false (a + 32) xs (writeAddrIn fresh a x s)

def writeSectors (a : Nat) (xs : List Sector) (s : State) : State := writeOn true a xs s

/-! Accesses that wait (R29, R82, R84, R117, R175). -/

/-- A sector waits for its second read in bank `b` of channel `c` (R117). -/
def rereadWaits (s : State) (c b : Nat) : Bool :=
  s.dram.rereads.any fun x => chanOfSector x.sector == c && bankOfSector x.sector == b

/-- A command to bank `b` of channel `c` has to wait: its pair is held by a phrase, a slice holds the channel, or a second
read comes first. -/
def bankWaits (s : State) (c b : Nat) : Bool :=
  !(chan s c).failed && ((tabFind? (chan s c).holds (b / 2)).isSome || (chan s c).slicing || rereadWaits s c b)

def addressWaits (s : State) (a : Nat) : Bool :=
  match place s a with
  | none => false
  | some p => bankWaits s (globalChannel p) p.bank

/-- Some granule of `[a, a + n)` has to wait. -/
def rangeWaits (s : State) (a n : Nat) : Bool :=
  n != 0 && (List.range ((a + n - 1) / 2048 + 1 - a / 2048)).any fun k => addressWaits s (2048 * (a / 2048 + k))

/-- A command whose access has to wait is issued when what it waits for has ended. -/
def deferCommand (i : Instr) (s : State) : State := { s with deferred := s.deferred ++ [i] }

/-- What waited takes the front of the queue again, in its order. -/
def wakeDeferred (s : State) : State := { s with pending := s.deferred ++ s.pending, deferred := [] }

/-- Zero fill of a range of module addresses, whole granules (R129): stored zeros, valid checks, no entries. -/
def fillGranules : Nat → Nat → State → State
  | 0, _, s => s
  | n + 1, a, s =>
    match place s a with
    | none => s
    | some p =>
      let k := sectorOf (globalChannel p) p.bank p.row 0
      let s1 := if (chan s (globalChannel p)).failed then s else { s with
        dram.bytes := tabClear s.dram.bytes (32 * k) (32 * (k + 64))
        dram.checks := tabClear s.dram.checks k (k + 64) }
      fillGranules n (a + 2048) s1

def inRange (lo n a : Nat) : Bool := decide (lo ≤ a) && decide (a < lo + n)

/-- R129: the fill of a freed range. -/
def zeroRange (base size : Nat) (s : State) : State :=
  let s1 : State := { s with protect.table := s.protect.table.filter fun e => !(inRange base size (entryAddress e.2)) }
  fillGranules (size / 2048) base s1

/-! Scratchpads (R216-R224). -/

/-- The slot offset and tile of a scratchpad address (R217). -/
def slotOffset (a : Nat) : Nat := a % 0x20000000
def tileOf (a : Nat) : Nat := a / 0x20000000 % 8

inductive Alias | normal | set | clear
  deriving DecidableEq, Repr

/-- R217: the alias a scratchpad address goes through and the address of the byte it names; none for a hole. -/
def resolve (a : Nat) : Option (Alias × Nat) :=
  let o := slotOffset a
  if o < 0x06000000 then some (.normal, a)
  else if 0x08000000 ≤ o ∧ o < 0x0E000000 then some (.set, a - 0x08000000)
  else if 0x10000000 ≤ o ∧ o < 0x16000000 then some (.clear, a - 0x10000000)
  else none

/-- R216: the bank number of a (normal) scratchpad address. -/
def bankOf (a : Nat) : Nat :=
  let o := slotOffset a
  if o < 0x04000000 then o / 0x00400000 else 16 + (o - 0x04000000) / 0x00800000

def bankPort (s : State) (tile bank : Nat) : BankPort := tabGet {} s.scratch.ports (20 * tile + bank)
def onPort (tile bank : Nat) (f : BankPort → BankPort) (s : State) : State :=
  { s with scratch.ports := tabPut s.scratch.ports (20 * tile + bank) (f (bankPort s tile bank)) }

def marked (s : State) (a : Nat) : Bool := s.scratch.marks.contains (a / 32)
def setMark (a : Nat) (s : State) : State := { s with scratch.marks := setInsert s.scratch.marks (a / 32) }
def clearMark (a : Nat) (s : State) : State := { s with scratch.marks := setErase s.scratch.marks (a / 32) }

def scratchByte (s : State) (a : Nat) : Byte := memRead s.scratch.bytes a

/-- R116, R131: an uncorrectable byte of an SRAM of tile `t` met by a read: counted and recorded. -/
def sramLost (t : Nat) (s : State) : State :=
  reportFree 0x3012 (subjTile t) (subjTile t)
    { s with scratch.uncorrectable := tabSet 0 s.scratch.uncorrectable t (tabGet 0 s.scratch.uncorrectable t + 1) }

/-- R116, R131: corrected bytes of the SRAMs of tile `t`. -/
def sramCorrected (t n : Nat) (s : State) : State :=
  if n = 0 then s else
    { s with scratch.corrected := tabSet 0 s.scratch.corrected t (tabGet 0 s.scratch.corrected t + BitVec.ofNat 64 n) }

/-- R116, R225: an uncorrectable byte of a scratchpad found at a read or alias write: its sector is marked, counted and recorded. -/
def sramBad (a : Nat) (s : State) : State := sramLost (tileOf a) (setMark a s)

def anyBad (s : State) (a n : Nat) : Bool := s.scratch.bad.any (inRange a n)

/-- R116: uncorrectable bytes met by a read of `[a, a + n)`, once each. -/
def meetBad (a n : Nat) (s : State) : State :=
  (s.scratch.bad.filter (inRange a n)).foldl (fun s b => sramBad b s)
    { s with scratch.bad := s.scratch.bad.filter fun b => !inRange a n b }

/-- `n` bytes from scratchpad address `a`, their sectors' marks included in the Bool (R116, R119). -/
def scratchRead (a n : Nat) (s : State) : List Byte × Bool × State :=
  let s1 := meetBad a n s
  (memReadN s1.scratch.bytes a n, (List.range n).any (fun i => marked s1 (a + i)), s1)

/-- One byte through a mode of R223. -/
def aliasByte (m : Alias) (old new : Byte) : Byte :=
  match m with
  | .normal => new
  | .set => old ||| new
  | .clear => old &&& ~~~new

/-- Bytes written from address `a` in a mode of R223, without marks. -/
def putBytes (m : Alias) : Nat → List Byte → State → State
  | _, [], s => s
  | a, b :: bs, s =>
    let s1 :=
      if m != .normal && s.scratch.bad.contains a then sramBad a s
      else { s with
        scratch.bytes := memWrite s.scratch.bytes a (aliasByte m (scratchByte s a) b)
        scratch.bad := setErase s.scratch.bad a
        scratch.fixing := setErase s.scratch.fixing a }
    putBytes m (a + 1) bs s1

/-- R224: the marks of the sectors that a write of `n` bytes at `a` touches. -/
def markSectors (m : Alias) (poison : Bool) (a n : Nat) : Nat → Nat → State → State
  | 0, _, s => s
  | f + 1, k, s =>
    let whole := decide (a ≤ 32 * k) && decide (32 * k + 32 ≤ a + n)
    let s1 :=
      if poison then setMark (32 * k) s
      else if m == .normal && whole then clearMark (32 * k) s
      else s
    markSectors m poison a n f (k + 1) s1

/-- R223, R224: bytes written at a resolved scratchpad address, in one mode, with the poison of their data. -/
def scratchSet (m : Alias) (poison : Bool) (a : Nat) (bs : List Byte) (s : State) : State :=
  if bs.isEmpty then s
  else markSectors m poison a bs.length ((a + bs.length - 1) / 32 + 1 - a / 32) (a / 32) (putBytes m a bs s)

/-- R229: the 64-byte lines that a write of `n` bytes through an alias writes. -/
def countAlias (m : Alias) (a n : Nat) (s : State) : State :=
  if m == .normal || n == 0 then s
  else onPort (tileOf a) (bankOf a)
    (fun p => { p with aliasWrites := p.aliasWrites + BitVec.ofNat 64 ((a + n - 1) / 64 + 1 - a / 64) }) s

/-- One write at a resolved scratchpad address. -/
def scratchPut (m : Alias) (poison : Bool) (a : Nat) (bs : List Byte) (s : State) : State :=
  countAlias m a bs.length (scratchSet m poison a bs s)

/-- A write at a scratchpad address through whichever alias it names; the Bool says it missed (a hole). -/
def scratchWrite (poison : Bool) (a : Nat) (bs : List Byte) (s : State) : State × Bool :=
  match resolve a with
  | some (m, b) => (scratchPut m poison b bs s, false)
  | none => (s, true)

/-- R222: the swizzle. -/
def swizzle (mode a : Nat) : Nat :=
  if mode = 0 then a else a ^^^ (a / 2 ^ (10 + mode) % 32 * 64)

/-! Ports (R219-R221). A bank's owner is the master of its own number. -/

/-- R220: larger transfers are split into requests of at most 8 KiB. -/
def splitRequests (m n : Nat) : List PortRequest :=
  (List.range (ceilDiv n 8192)).map fun i => { master := m, bytes := min 8192 (n - 8192 * i) }

/-- R219, R220: an access of master `m` to `n` contiguous bytes of a bank; any but the owner's waits for the arbitrated port. -/
def portAccess (m a n : Nat) (s : State) : State :=
  if bankOf a = m then s else onPort (tileOf a) (bankOf a) (fun p => { p with requests := p.requests ++ splitRequests m n }) s

/-- The accesses to a list of ranges. -/
def portRanges (m : Nat) (rs : List (Nat × Nat)) (s : State) : State := rs.foldl (fun s r => portAccess m r.1 r.2 s) s

/-- Contiguous ranges of a rising list of sectors. -/
def sectorRanges : List Nat → List (Nat × Nat)
  | [] => []
  | k :: t => match sectorRanges t with
    | (a, n) :: r => if 32 * (k + 1) = a then (32 * k, n + 32) :: r else (32 * k, 32) :: (a, n) :: r
    | [] => [(32 * k, 32)]

/-- R221: the cycles that an access to `lines` takes beyond those of a port of `per` lines a cycle. -/
def extraCycles (per : Nat) (lines : List Nat) : Nat :=
  ((List.range 32).map fun b => (lines.filter fun l => l % 32 == b).length).foldl max 0 - ceilDiv lines.length per

def countConflicts (a n : Nat) (s : State) : State :=
  if n = 0 then s else onPort (tileOf a) (bankOf a) (fun p => { p with conflicts := p.conflicts + BitVec.ofNat 64 n }) s

/-- The 64-byte lines of a range. -/
def linesOf (a n : Nat) : List Nat := (List.range ((a + n + 63) / 64 - a / 64)).map (a / 64 + ·)

/-- R129, R225: a scratchpad range zeroed by its owning master; what was to be written back there is dropped. -/
def zeroScratch (base size : Nat) (s : State) : State :=
  { s with
    scratch.bytes := tabClear s.scratch.bytes base (base + size)
    scratch.marks := s.scratch.marks.filter fun k => !inRange (base / 32) ((size + 31) / 32) k
    scratch.bad := s.scratch.bad.filter fun b => !inRange base size b
    scratch.fixing := s.scratch.fixing.filter fun b => !inRange base size b }

end Sys2Proof.Machine
end

