-- ==== Sys2Proof/Machine/Fabric.lean ====
section
/-! DEFINITION. The optical fabric's links: sending, receiving, credits, replay, routes, violations, quarantine and
bring-up (R338-R346, R354-R359). -/
namespace Sys2Proof.Machine

def link (s : State) (l : Nat) : Link := tabGet {} s.fabric.links l
def onLink (l : Nat) (f : Link → Link) (s : State) : State :=
  { s with fabric.links := tabPut s.fabric.links l (f (link s l)) }

/-! Classes and credits (R343, R344). -/

/-- R343: class of a flit: 0 REQ, 1 RSP, 2 COL, 3 none. -/
def flitClass (f : Flit) : Nat :=
  if f.type = 1 ∨ f.type = 2 ∨ f.type = 4 then 0
  else if f.type = 3 then 1
  else if f.type = 5 then (if f.op = 0 then 0 else 1)
  else if f.type = 6 then 2
  else 3

def classBuffers (k : Nat) : Nat := if k = 1 then 256 else if k < 3 then 384 else 0

def Credits.get (c : Credits) (k : Nat) : Nat := if k = 0 then c.req else if k = 1 then c.rsp else if k = 2 then c.col else 0
def Credits.put (c : Credits) (k v : Nat) : Credits :=
  if k = 0 then { c with req := v } else if k = 1 then { c with rsp := v } else if k = 2 then { c with col := v } else c

def fullCredits : Credits := { req := 384, rsp := 256, col := 384 }

def linkUp (s : State) (l : Nat) : Bool := (link s l).state == .up

/-- R342: the CRC of a flit, over bytes 0-27 and 32-255. The CRC itself stands in bytes 24-27: they count as zero (DEDUCED, log
entry 99). -/
def flitCrc (f : Flit) : Word :=
  crc32 (leBytes 8 f.word0 ++ leBytes 8 f.word1 ++ leBytes 8 f.word2.toNat ++ leBytes 4 0 ++
    (List.range 7).flatMap fun k => sectorBytes (f.data.getD k 0))

def crcGood (f : Flit) : Bool := f.crc == flitCrc f

/-- A flit as it goes onto the fibre. -/
def sealFlit (f : Flit) : Flit := { f with crc := flitCrc f }

/-! Sending (R344, R345). -/

def canSend (k : Link) (f : Flit) : Bool :=
  k.state == .up && decide (k.replay.length < 1024) && (flitClass f == 3 || decide (0 < k.credits.get (flitClass f)))

/-- The acknowledgement, retry and credit fields of an outgoing flit. -/
def stampFlit (k : Link) (f : Flit) : Flit :=
  { f with ack := (k.expected + 4095) % 4096, retryReq := k.retryDue, creditClass := k.rotate,
           credits := k.freed.get k.rotate }

def emit (l : Nat) (f : Flit) (s : State) : State := { s with fabric.sent := s.fabric.sent ++ [(l, sealFlit f)] }

/-- One sequenced flit leaves. -/
def sendNow (l : Nat) (f : Flit) (s : State) : State :=
  let k := link s l
  let f' := { stampFlit k f with seq := k.nextSeq }
  let c := flitClass f
  emit l f' (onLink l (fun k => { k with
    nextSeq := (k.nextSeq + 1) % 4096, replay := k.replay ++ [f'], credits := k.credits.put c (k.credits.get c - 1),
    rotate := (k.rotate + 1) % 3, retryDue := false, flitsTx := k.flitsTx + 1 }) s)

/-- One queued flit, unless it is blocked or an earlier flit of its class is. -/
def pumpOne (l : Nat) (a : State × List Flit) (f : Flit) : State × List Flit :=
  if a.2.any (fun g => flitClass g == flitClass f) || !canSend (link a.1 l) f then (a.1, a.2 ++ [f])
  else (sendNow l f a.1, a.2)

/-- Queued flits leave in order, those of a class without credit staying behind. -/
def pump (l : Nat) (s : State) : State :=
  let r := (link s l).queue.foldl (pumpOne l) (s, [])
  onLink l (fun k => { k with queue := r.2 }) r.1

def sendOn (l : Nat) (f : Flit) (s : State) : State := pump l (onLink l (fun k => { k with queue := k.queue ++ [f] }) s)

/-- An IDLE flit: acknowledgement, retry request and credits only (R343-R345). -/
def sendIdle (l : Nat) (s : State) : State :=
  emit l (stampFlit (link s l) {}) (onLink l (fun k => { k with retryDue := false, rotate := (k.rotate + 1) % 3 }) s)

/-- One flit of the replay buffer leaves again with its SEQ, counted in FLITS_TX (R361). -/
def replayOne (l : Nat) (s : State) (f : Flit) : State :=
  emit l { stampFlit (link s l) f with seq := f.seq } (onLink l (fun k => { k with
    rotate := (k.rotate + 1) % 3, retryDue := false, flitsTx := k.flitsTx + 1 }) s)

/-- R345: flits of the replay buffer are sent again, in their order. -/
def replayFlits (l : Nat) (which : List Flit) (s : State) : State := which.foldl (replayOne l) s

/-- R345: a sender that sees RETRY_REQ replays from ACK + 1: what an ACK has not yet covered. -/
def replayAll (l : Nat) (s : State) : State := replayFlits l (link s l).replay s

/-! Routes (R346). -/

def routeLinks (q : Quad) : List Nat :=
  if q.getLsbD 63 then (List.range ((q.extractLsb' 48 3).toNat + 1)).map fun i => (q.extractLsb' (6 * i) 6).toNat else []

def groupLinks (s : State) (dest : Nat) : List Nat := routeLinks (tabGet 0 s.fabric.routes dest)
def hasRoute (s : State) (dest : Nat) : Bool := !(groupLinks s dest).isEmpty

/-- Ordered traffic: the first link of the group that is up. -/
def orderedLink (s : State) (dest : Nat) : Option Nat := (groupLinks s dest).find? (linkUp s)

/-- Collective traffic: the group's links that are up, round robin. -/
def collLink (s : State) (dest : Nat) : Option Nat :=
  let ls := (groupLinks s dest).filter (linkUp s)
  ls[tabGet 0 s.fabric.collTurn dest % max 1 ls.length]?

def nodeOf (s : State) : Nat := s.fabric.node.toNat

def sendOrdered (f : Flit) (s : State) : State :=
  match orderedLink s f.dest with
  | some l => sendOn l f s
  | none => s

def sendColl (f : Flit) (s : State) : State :=
  match collLink s f.dest with
  | some l => sendOn l f { s with fabric.collTurn := tabPut s.fabric.collTurn f.dest (tabGet 0 s.fabric.collTurn f.dest + 1) }
  | none => s

def routeFlit (f : Flit) (s : State) : State := if f.type = 6 then sendColl f s else sendOrdered f s

/-! Violations (R355-R357). -/

def msWindow (now : Nat) (l : List Nat) : List Nat := (l.filter fun t => decide (now < t + 1000)) ++ [now]

/-- R357: at most one NAK a µs. -/
def sendNak (l : Nat) (code : Half) (f : Flit) (s : State) : State :=
  let late := match (link s l).lastNakUs with | some t => decide (t + 1 ≤ s.us) | none => true
  if late then
    sendOn l { type := 7, op := 1, dest := f.src, src := nodeOf s, tag := f.tag,
               word2 := BitVec.ofNat 64 (f.seq * 65536 + code.toNat) }
      (onLink l (fun k => { k with naksSent := k.naksSent + 1, lastNakUs := some s.us }) s)
  else onLink l (fun k => { k with naksSuppressed := k.naksSuppressed + 1 }) s

/-- R355-R357: counted, recorded, and answered with a NAK unless `answered` otherwise. -/
def violate (l : Nat) (code : Half) (nak : Bool) (f : Flit) (s : State) : State :=
  let s1 := onLink l (fun k => { k with
    violations := k.violations + 1
    violationsMs := msWindow s.us k.violationsMs
    creditViolationsMs := if code = 0x5019 then msWindow s.us k.creditViolationsMs else k.creditViolationsMs }) s
  let s2 := reportFree code (subjLink l) (subjLink l) s1
  if nak then sendNak l code f s2 else s2

/-! Receiving (R344, R345). -/

/-- ACK of a flit with a good CRC. -/
def takeAck (l : Nat) (f : Flit) (s : State) : State :=
  let k := link s l
  let d := (f.ack + 4096 - k.ackedSeq) % 4096
  if k.replay.length < d then violate l 0x5019 true f s
  else onLink l (fun k => { k with ackedSeq := f.ack, replay := k.replay.drop d }) s

/-- CREDITS of a flit with a good CRC. -/
def takeCredits (l : Nat) (f : Flit) (s : State) : State :=
  let k := link s l
  let c := f.creditClass
  if 3 ≤ c then s
  else
    let d := (f.credits + 2048 - k.peerCounts.get c % 2048) % 2048
    if classBuffers c < k.credits.get c + d then violate l 0x5019 true f s
    else onLink l (fun k => { k with
      credits := k.credits.put c (k.credits.get c + d), peerCounts := k.peerCounts.put c f.credits }) s

/-- R345: a flit reaches the receiver; the Bool says that it is accepted as the next in order. -/
def receive (l : Nat) (at_ : Nat) (f : Flit) (s0 : State) : State × Bool :=
  let s := advanceTo at_ s0
  if !linkUp s l then (s, false)
  else
    let s1 := if crcGood f then takeCredits l f (takeAck l f s) else s
    let s2 := pump l (if crcGood f && f.retryReq then replayAll l s1 else s1)
    if f.type = 0 then (s2, false)
    else
      let k := link s2 l
      if f.fecOk && crcGood f && f.seq == k.expected then
        (onLink l (fun k => { k with
          expected := (k.expected + 1) % 4096, retryReq := false, retryDue := false, flitsRx := k.flitsRx + 1,
          peerUsed := k.peerUsed.put (flitClass f) (k.peerUsed.get (flitClass f) + 1),
          freed := k.freed.put (flitClass f) ((k.freed.get (flitClass f) + 1) % 2048) }) s2, true)
      else if k.retryReq then (s2, false)
      else (onLink l (fun k => { k with
        retryReq := true, retryDue := true, retries := k.retries + 1, retriesMs := msWindow s2.us k.retriesMs }) s2, false)

/-- R343: TYPE and OP exist. -/
def opOk (f : Flit) : Bool :=
  match f.type with
  | 1 => f.op == 0
  | 2 => f.op == 0
  | 3 => decide (f.op < 2)
  | 4 => decide (f.op < 2)
  | 5 => decide (f.op < 2)
  | 6 => decide (f.op < 3)
  | 7 => decide (f.op < 4)
  | 0 => f.op == 0
  | _ => false

/-- R343, R348: SECTORS in range and ADDRESS aligned. -/
def shapeOk (f : Flit) : Bool :=
  match f.type with
  | 1 => decide (1 ≤ f.sectors) && f.address % 32 == 0
  | 2 => decide (1 ≤ f.sectors) && f.address % 32 == 0
  | 3 => true
  | 4 => f.sectors == 1 && f.address % 8 == 0
  | 5 => f.sectors == 0
  | 6 => decide (1 ≤ f.sectors)
  | 7 => decide (f.sectors ≤ 1)
  | _ => f.sectors == 0

/-- Buffers of a class the peer fills beyond what it was given (R344). -/
def overCredit (k : Link) (f : Flit) : Bool :=
  let c := flitClass f
  c != 3 && decide (classBuffers c < (k.peerUsed.get c + 2048 - k.freed.get c % 2048) % 2048)

/-- R356, R346: what an accepted flit meets before its own operation: a violation, forwarding, or `act`. -/
def dispatchFlit (l : Nat) (f : Flit) (act : State → State) (s : State) : State :=
  if !opOk f || !f.unusedZero then violate l 0x5010 true f s
  else if overCredit (link s l) f then violate l 0x5011 true f s
  else if !shapeOk f then violate l 0x5012 true f s
  else if f.type = 7 then act s
  else if f.dest ≠ nodeOf s ∧ hasRoute s f.dest = false then violate l 0x5014 true f s
  else if 7 < f.hops then violate l 0x5015 true f s
  else if f.dest = nodeOf s then act s
  else routeFlit { f with hops := f.hops + 1 } s

/-- The command by which a flit arrives, by its TYPE and OP (R343). -/
def arrival (l : Fin 36) (f : Flit) (at_ : Nat) : Instr :=
  match f.type, f.op with
  | 1, _ => .fabricWrite l f at_
  | 2, _ => .fabricRead l f at_
  | 3, _ => .readResponse l f at_
  | 4, _ => .atomicAdd l f at_
  | 5, o => if o = 0 then .fenceRequest l f at_ else .fenceAck l f at_
  | 6, o => if o = 0 then .collectiveSum l f at_ else if o = 1 then .collectiveMax l f at_ else .collectiveResult l f at_
  | _, o => if o = 0 then .hello l f at_ else if o = 1 then .nak l f at_ else if o = 2 then .tune l f at_ else .drain l f at_

/-- The link of a request of the fabric that arrives. -/
def requestLink : Instr → Option (Fin 36)
  | .fabricWrite l .. | .fabricRead l .. | .readResponse l .. | .atomicAdd l .. | .fenceRequest l .. => some l
  | .fenceAck l .. | .collectiveSum l .. | .collectiveMax l .. | .collectiveResult l .. => some l
  | .nak l .. | .tune l .. | .drain l .. | .hello l .. => some l
  | _ => none

/-- R249: a link's flits are taken in their order, so behind one that waits the later ones wait. -/
def linkBlocked (l : Fin 36) (s : State) : Bool := s.deferred.any fun i => requestLink i == some l

/-- R29, R82, R84: a WRITE or READ for this node's stacked memory has to wait for its banks. -/
def flitWaits (f : Flit) (s : State) : Bool :=
  (f.type == 1 || f.type == 2) && f.dest == nodeOf s && !f.scratch && rangeWaits s f.address (32 * f.sectors)

/-- A flit arrives on a link, and `act` is what its TYPE and OP do at this node. -/
def receiveAs (l : Fin 36) (at_ : Nat) (f : Flit) (act : State → State) (s : State) : Out :=
  if linkBlocked l s || flitWaits f s then .next (deferCommand (arrival l f at_) s)
  else
    let r := receive l at_ f s
    .next (if r.2 then dispatchFlit l f act r.1 else r.1)

/-- R343, R356: an IDLE whose CRC is good is held to its format; it is not sequenced, so nothing more becomes of it. -/
def checkIdle (l : Nat) (f : Flit) (s : State) : State :=
  if !linkUp s l || !crcGood f then s
  else if !opOk f || !f.unusedZero then violate l 0x5010 true f s
  else if !shapeOk f then violate l 0x5012 true f s else s

/-- IDLE (R343, R344). -/
def execIdle (l : Fin 36) (f : Flit) (at_ : Nat) (s : State) : Out :=
  .next (checkIdle l { f with type := 0 } (receive l at_ { f with type := 0 } s).1)

/-- RETRY_REQ_REPEAT (R345). -/
def execRetryReqRepeat (l : Fin 36) (s : State) : Out :=
  if linkUp s l && (link s l).retryReq then
    .next (sendIdle l (onLink l (fun k => { k with retryDue := true }) s))
  else .next s

/-- REPLAY_TIMEOUT (R345): the oldest flit that no ACK covers is replayed. -/
def execReplayTimeout (l : Fin 36) (s : State) : Out :=
  if linkUp s l && !(link s l).replay.isEmpty then .next (replayFlits l ((link s l).replay.take 1) s) else .next s

/-- NAK (R357, R452). -/
def execNak (l : Fin 36) (f : Flit) (at_ : Nat) (s : State) : Out :=
  receiveAs l at_ { f with type := 7, op := 1 } (fun s =>
    report 0x5023 (subjLink l) (subjLink l) (BitVec.ofNat 32 f.status.toNat)
      (onLink l (fun k => { k with naksReceived := k.naksReceived + 1 }) s)) s

def flitSector (f : Flit) (k : Nat) : Sector := { data := f.data.getD k 0, poison := f.poison.getLsbD k }

/-- TUNE (R354): one 32-bit count a lane and the period number. -/
def execTune (l : Fin 36) (f : Flit) (at_ : Nat) (s : State) : Out :=
  receiveAs l at_ { f with type := 7, op := 2 } (fun s =>
    onLink l (fun k => { k with
      peerTune := (List.range 4).map (sectorWord (flitSector f 0))
      peerPeriod := sectorWord (flitSector f 0) 4 }) s) s

/-- DRAIN (R358): the peer quarantines the link. -/
def execDrain (l : Fin 36) (f : Flit) (at_ : Nat) (s : State) : Out :=
  receiveAs l at_ { f with type := 7, op := 3 } (fun s => s) s

/-! Tuning (R354). -/

def heaterCode (q : Quad) (lane : Nat) : Nat := (q.extractLsb' (16 * lane) 12).toNat
def setHeater (q : Quad) (lane v : Nat) : Quad :=
  let m : Quad := (0xFFF : Quad) <<< (16 * lane)
  (q &&& ~~~m) ||| (BitVec.ofNat 64 v <<< (16 * lane))

/-- Step 2: one step towards the smaller sum. -/
def nudge (code plus minus : Nat) : Nat :=
  if plus + 16 < minus then min 4095 (code + 1) else if minus + 16 < plus then code - 1 else code

/-- One lane's sums after a period at c + 2 (`plus`) or c − 2. -/
def addSum (plus : Bool) (n : Nat) (p : Nat × Nat) : Nat × Nat := if plus then (p.1 + n, p.2) else (p.1, p.2 + n)

/-- The heater codes and sums after a period; a decision ends every `span` periods. -/
def ditherLanes (plus decide_ : Bool) (counts : List Nat) (code : Quad) (sums : Tab (Nat × Nat)) : Quad × Tab (Nat × Nat) :=
  (List.range 4).foldl (fun a lane =>
    let p := addSum plus (counts.getD lane 0) (tabGet (0, 0) a.2 lane)
    if decide_ then (setHeater a.1 lane (nudge (heaterCode a.1 lane) p.1 p.2), tabPut a.2 lane (0, 0))
    else (a.1, tabPut a.2 lane p)) (code, sums)

/-- TUNE_PERIOD (R354): `corrected` are the lanes' corrected symbols of the 20 µs, `bad` the codewords not corrected. -/
def execTunePeriod (l : Fin 36) (corrected : List Nat) (bad : Nat) (at_ : Nat) (s0 : State) : Out :=
  let s := advanceTo at_ s0
  if linkUp s l then
    let k := link s l
    let switching := match s.fabric.switchUs with | some t => decide (s.us < t + 2000) | none => false
    let plus := k.period % 2 == 0
    let due := k.period % (if switching then 2 else 8) == (if switching then 1 else 7)
    let rx := ditherLanes plus due corrected k.rxHeater k.rxSums
    let tx := ditherLanes plus due (k.peerTune.map (·.toNat)) k.txHeater k.txSums
    let words := ((List.range 4).map fun q => leBytes 4 (corrected.getD q 0)).flatten ++ leBytes 4 (k.period + 1)
    let tune : Flit :=
      { type := 7, op := 2, src := nodeOf s, dest := k.peerNode.toNat, sectors := 1,
        data := [BitVec.ofNat 256 (leValue words)] }
    .next (sendOn l tune (onLink l (fun k => { k with
      period := k.period + 1, rxHeater := rx.1, rxSums := rx.2, txHeater := tx.1, txSums := tx.2,
      fecCorrected := k.fecCorrected + BitVec.ofNat 64 (sumNat (corrected.take 4)),
      fecUncorrectable := k.fecUncorrectable + BitVec.ofNat 64 bad }) s))
  else .next s

/-! Bring-up (R359). -/

def lightOn (s : State) : Bool := s.fabric.socketA == .lasing || s.fabric.socketB == .lasing

def linkPlanHigh (s : State) : Bool := (s.start.straps.extractLsb' 6 2).toNat == 2

/-- Bring-up of an enabled link starts; without light it waits in DOWN. -/
def startLink (l : Nat) (s : State) : State :=
  onLink l (fun k => { k with
    state := if k.enabled && lightOn s then .sweep else .down, startedMs := s.us, replay := [], queue := [],
    retryReq := false, retryDue := false }) s

/-- A link that step 9 still waits for (R359). -/
def inBringup (s : State) (l : Nat) : Bool :=
  match (link s l).state with
  | .sweep | .lock | .hello => true
  | .align => !linkPlanHigh s
  | _ => false

/-- Step 10 (R429): READY, BOOT_OK, START_STATE 10. -/
def completeStart (s : State) : State :=
  let f := takeFree s
  let s1 : State := { f.2 with
    start.state := 10
    start.starting := false
    start.startMs := Config.freeMillis f.1
    port.ready := true }
  if s.lut.runningSlotB then { s1 with nvm.slotB.bootOk := true } else { s1 with nvm.slotA.bootOk := true }

/-- Step 9 ends when no enabled link is in bring-up (R359). -/
def settleStart (s : State) : State :=
  if s.start.starting && s.start.state == 8 && !((List.range 36).any (inBringup s)) then completeStart s else s

/-- SWEEP_DONE (R359): the codes at which the sweep located the rings. -/
def execSweepDone (l : Fin 36) (tx rx : Quad) (s : State) : Out :=
  if (link s l).state = .sweep then
    let m : Quad := 0x0FFF0FFF0FFF0FFF
    .next (onLink l (fun k => { k with state := .lock, txHeater := tx &&& m, rxHeater := rx &&& m }) s)
  else .next s

/-- LOCK_DONE (R359). -/
def execLockDone (l : Fin 36) (s : State) : Out :=
  if (link s l).state = .lock then .next (settleStart (onLink l (fun k => { k with state := .align }) s)) else .next s

/-- The HELLO of this module (R359). -/
def helloFlit (s : State) (l : Nat) : Flit :=
  { type := 7, op := 0, src := nodeOf s, dest := (link s l).peerNode.toNat, tag := l }

/-- ALIGN_DONE (R359): to HELLO, or held at ALIGN under the strap. -/
def execAlignDone (l : Fin 36) (s : State) : Out :=
  if (link s l).state = .align ∧ linkPlanHigh s = false then
    .next (emit l (helloFlit s l) (onLink l (fun k => { k with state := .hello }) s))
  else .next s

/-- R359, R344: a link comes up: SEQ and credits start anew. -/
def comeUp (l : Nat) (s : State) : State :=
  onLink l (fun k => { k with
    state := .up, nextSeq := 0, ackedSeq := 4095, expected := 0, retryReq := false, retryDue := false, replay := [],
    queue := [], credits := fullCredits, peerCounts := {}, freed := {}, peerUsed := {}, rotate := 0 }) s

/-- A link left DOWN with 0x5020. -/
def leaveDown (l : Nat) (s : State) : State :=
  reportFree 0x5020 (subjLink l) (subjLink l) (onLink l (fun k => { k with state := .down, staysDown := true }) s)

/-- HELLO (R359): node and link number must match the link plan; on a link that is up it is a MANAGEMENT flit. -/
def execHello (l : Fin 36) (f : Flit) (at_ : Nat) (s : State) : Out :=
  if (link s l).state = .hello then
    if crcGood { f with type := 7, op := 0 } && f.fecOk then
      let k := link s l
      let s1 := advanceTo at_ s
      .next (settleStart (if f.src = k.peerNode.toNat ∧ f.tag = k.peerLink then comeUp l s1 else leaveDown l s1))
    else .next s
  else receiveAs l at_ { f with type := 7, op := 0 } (fun s => s) s

/-- BRINGUP_TIMEOUT (R359): 20 ms after leaving DOWN; under STRAP_LINK_PLAN high the limit is for ALIGN. -/
def execBringupTimeout (l : Fin 36) (s : State) : Out :=
  match (link s l).state with
  | .sweep => .next (settleStart (leaveDown l s))
  | .lock => .next (settleStart (leaveDown l s))
  | .align => .next (if linkPlanHigh s then s else settleStart (leaveDown l s))
  | .hello => .next (settleStart (leaveDown l s))
  | _ => .next s

/-- A link that has not stayed down goes back to bring-up at the end of its hold (R358, R359). -/
def execQuarantineHoldExpiry (l : Fin 36) (s : State) : Out :=
  if (link s l).state = .quarantined then
    if (link s l).staysDown then .next (onLink l (fun k => { k with state := .down }) s)
    else .next (startLink l s)
  else .next s

/-! Laser sources (R339, R445). -/

/-- LASER_INSERT (R445): present, powered, not yet lasing. -/
def execLaserInsert (b : Fin 2) (s : State) : Out :=
  if b.val = 0 then
    .next (if s.fabric.socketA = .empty then { s with fabric.socketA := .dark } else s)
  else .next (if s.fabric.socketB = .empty then { s with fabric.socketB := .dark } else s)

/-- Links waiting in DOWN for light start bring-up (R359). -/
def startWaiting (s : State) : State :=
  (List.range 36).foldl (fun s l =>
    let k := link s l
    if k.enabled && k.state == .down && !k.staysDown then startLink l s else s) s

/-- SOURCE_OUTPUT_POWER (R445, R359). -/
def execSourceOutputPower (b : Fin 2) (s : State) : Out :=
  let present := if b.val = 0 then s.fabric.socketA else s.fabric.socketB
  if present = .dark then
    let s1 : State := if b.val = 0 then { s with fabric.socketA := .lasing } else { s with fabric.socketB := .lasing }
    let s2 : State := { s1 with fabric.switchUs := some s.us }
    .next (if linkPlanLow s2 then s2 else startWaiting s2)
  else .next s
where linkPlanLow (s : State) : Bool := (s.start.straps.extractLsb' 6 2).toNat == 0

end Sys2Proof.Machine
end

