-- ==== Sys2Proof/Machine/Export.lean ====
section
/-! DEFINITION. Export windows: what a write into one sends to another module (R349). -/
namespace Sys2Proof.Machine

/-! Export windows (R349). -/

/-- Agents whose writes to other modules a release covers: 0 the host, 1 + g core g. -/
abbrev AgentKey := Option Nat

def noteWrite (k : AgentKey) (dest : Nat) (s : State) : State :=
  match k with
  | some a => { s with order.nodes := tabPut s.order.nodes a (setInsert (tabGet [] s.order.nodes a) dest) }
  | none => s

/-- A write of an agent to another module; with no usable route it is lost for the agent's next release. -/
def sendWrite (k : AgentKey) (f : Flit) (s : State) : State :=
  let s1 := noteWrite k f.dest s
  match orderedLink s1 f.dest, k with
  | none, some a => { s1 with fabric.lost := s1.fabric.lost ++ [(a, f.dest)] }
  | _, _ => sendOrdered f s1

def scratchSector (s : State) (a : Nat) : Sector :=
  { data := sectorOfBytes (memReadN s.scratch.bytes a 32), poison := marked s a }

def windowBase (e : Export) : Nat := e.decl.tile * 0x20000000 + 0x05000000 + e.decl.offset

/-- One WRITE flit of up to seven consecutive sectors from scratchpad address `a`. -/
def exportFlit (s : State) (e : Export) (a n : Nat) : Flit :=
  let xs := (List.range n).map fun i => scratchSector s (a + 32 * i)
  let remote := e.decl.remoteBase + (a - windowBase e)
  { type := 1, dest := e.decl.dest, src := nodeOf s, tenant := e.tenant, sectors := n,
    poison := BitVec.ofNat 7 (((List.range n).map fun i => bitNat ((xs.getD i .zero).poison) * 2 ^ i).foldl (· + ·) 0),
    word2 := BitVec.ofNat 64 (remote * 2 ^ 24 + bitNat e.decl.scratch * 2 ^ 23), data := xs.map (·.data) }

def exportSectors (k : AgentKey) (e : Export) : Nat → Nat → Nat → State → State
  | 0, _, _, s => s
  | fuel + 1, a, n, s =>
    if n = 0 then s
    else
      let m := min 7 n
      exportSectors k e fuel (a + 32 * m) (n - m) (sendWrite k (exportFlit s e a m) s)

def atomicFlit (s : State) (e : Export) (a : Nat) (poison : Bool) : Flit :=
  { type := 4, dest := e.decl.dest, src := nodeOf s, tenant := e.tenant, sectors := 1, poison := BitVec.ofNat 7 (bitNat poison),
    word2 := BitVec.ofNat 64 ((e.decl.remoteBase + (a - windowBase e)) * 2 ^ 24 + bitNat e.decl.scratch * 2 ^ 23),
    data := [BitVec.ofNat 256 (leValue (memReadN s.scratch.bytes a 8))] }

def exportWords (k : AgentKey) (e : Export) : Nat → Nat → State → State
  | 0, _, s => s
  | n + 1, a, s => exportWords k e n (a + 8) (sendWrite k (atomicFlit s e a (marked s a)) s)

/-- R349: what one window sends of a write of `[a, a + n)`. -/
def exportOne (k : AgentKey) (a n : Nat) (s : State) (e : Export) : State :=
  let lo := max a (windowBase e)
  let hi := min (a + n) (windowBase e + e.decl.size)
  if hi ≤ lo then s
  else if e.decl.atomic then exportWords k e (hi / 8 - ceilDiv lo 8) (8 * ceilDiv lo 8) s
  else
    let first := ceilDiv lo 32
    let last := hi / 32
    let s1 := exportSectors k e (last - first) (32 * first) (last - first) s
    if lo % 32 ≠ 0 ∨ hi % 32 ≠ 0 then reportFree 0x5034 (subjTile e.decl.tile) (subjTile e.decl.tile) s1 else s1

/-- R349: transmission after a local write of `[a, a + n)` of scratchpad by an agent. -/
def exportWrite (k : AgentKey) (a n : Nat) (s : State) : State := s.fabric.exports.foldl (exportOne k a n) s

/-- A scratchpad write with its transmission; the Bool says it missed. -/
def scratchStore (k : AgentKey) (poison : Bool) (a : Nat) (bs : List Byte) (s : State) : State × Bool :=
  match resolve a with
  | some (m, b) => (exportWrite k b bs.length (scratchPut m poison b bs s), false)
  | none => (s, true)

end Sys2Proof.Machine
end

