-- ==== Sys2Proof/Machine/Dram.lean ====
section
/-! DEFINITION. Commands of the memory controller to a channel: activate, read, write, precharge, refresh (R75, R80, R81). -/
namespace Sys2Proof.Machine

def bank (h : Channel) (b : Nat) : Bank := tabGet {} h.banks b
def onBank (b : Nat) (f : Bank → Bank) (h : Channel) : Channel := { h with banks := tabPut h.banks b (f (bank h b)) }

/-- The row of the half activated last (R75 gives RD and WR no row and no half). -/
def openRow (k : Bank) : Option Nat := if k.lastHalf = 0 then k.row0 else k.row1

def closeHalf (half : Nat) (k : Bank) : Bank := if half = 0 then { k with row0 := none } else { k with row1 := none }

/-- R75 gives no case of an ACT to a half whose row is open: the model replaces that row (DESIGN CHOICE, log entry 84). -/
def openIn (row : Nat) (k : Bank) : Bank :=
  if row % 2 = 0 then { k with row0 := some row, lastHalf := 0 } else { k with row1 := some row, lastHalf := 1 }

/-- The controller sends commands to a live channel that no slice holds (R84, R104). -/
def channelReady (s : State) (c : Nat) : Bool := (chan s c).live && !(chan s c).failed && !(chan s c).slicing

/-- R81: a bank whose debt stands at 3 is refreshed before any other command to a bank of its channel. -/
def refreshFirst (s : State) (c : Nat) : Bool := (chan s c).banks.any fun e => decide (3 ≤ e.2.debt)

/-- R82: nothing is sent to a bank whose pair a phrase holds. -/
def bankFree (s : State) (c b : Nat) : Bool := channelReady s c && (tabFind? (chan s c).holds (b / 2)).isNone

/-- R81, R82, R117: an ordinary command to a bank is issued now. -/
def bankReady (s : State) (c b : Nat) : Bool := bankFree s c b && !refreshFirst s c && !rereadWaits s c b

def flipBits (fs : List BitFlip) (i : Nat) (d : BitVec 256 × Quad) : BitVec 256 × Quad :=
  (fs.filter fun f => f.sector == i).foldl (fun d f => flipBit f.bit d) d

/-- R112: of the bits that the world disturbs on the wires, those of a wire that a spare has replaced are not in use. -/
def onUsedWires (h : Channel) (fs : List BitFlip) : List BitFlip := fs.filter fun f => (tabFind? h.spares f.bit).isNone

/-- Sector `n`, the `i`-th of a burst, as the array gives it and passing disturbances leave it. -/
def disturbed (arrayFlips wireFlips : List BitFlip) (n i : Nat) (s : State) : BitVec 256 × Quad :=
  flipBits (arrayFlips ++ onUsedWires (chan s (chanOfSector n)) wireFlips) i (storedData s n, storedChecks s n)

/-- Sector `n`, the `i`-th of a burst, as it comes off the wires (R112). -/
def sectorOnWires (arrayFlips wireFlips : List BitFlip) (n i : Nat) (s : State) : SectorRead :=
  let d := (onBeat (chanOfSector n) (disturbed arrayFlips wireFlips n i s) s).1
  decodeSector d.1 d.2

/-- The free values that a beat of the channel takes (R112). -/
def passBeat (n : Nat) (s : State) : State := (onBeat (chanOfSector n) (0, 0) s).2

/-- The array keeps what disturbed it. -/
def disturb (arrayFlips : List BitFlip) (n i : Nat) (s : State) : State :=
  if arrayFlips.any fun f => f.sector == i then
    let d := flipBits arrayFlips i (storedData s n, storedChecks s n)
    setStored n d.1 d.2 s
  else s

/-- A sector that waits for its second read waits once (R117). -/
def queueReread (x : Reread) (s : State) : State :=
  if s.dram.rereads.any fun y => y.sector == x.sector then s else { s with dram.rereads := s.dram.rereads ++ [x] }

/-- One sector of a burst read: decoded, counted, queued for the second read when uncorrectable (R111, R117). -/
def readOne (arrayFlips wireFlips : List BitFlip) (foundBy c n i : Nat) (s : State) : Sector × State :=
  let r := sectorOnWires arrayFlips wireFlips n i s
  let s1 := passBeat n (disturb arrayFlips n i s)
  let s2 := onChan c (fun h => { h with
    outerCorrected := h.outerCorrected + BitVec.ofNat 64 r.corrected
    poisonDelivered := h.poisonDelivered + BitVec.ofNat 64 (bitNat (r.sector.poison && !r.uncorrectable)) }) s1
  (r.sector, if r.uncorrectable then queueReread { sector := n, foundBy := foundBy } s2 else s2)

def readBurst (arrayFlips wireFlips : List BitFlip) (foundBy c first : Nat) : Nat → Nat → State → List Sector × State
  | 0, _, s => ([], s)
  | k + 1, i, s =>
    let (x, s1) := readOne arrayFlips wireFlips foundBy c (first + i) i s
    let (xs, s2) := readBurst arrayFlips wireFlips foundBy c first k (i + 1) s1
    (x :: xs, s2)

/-- R114: inner corrections of one read, in the die's saturating counter. -/
def countInner (c n : Nat) (s : State) : State :=
  if n = 0 then s else onChan c (fun h => { h with dieInner := satAdd h.dieInner n }) s

/-- ACT (R75): the row is open in its half. -/
def execAct (c : Fin 512) (b : Fin 32) (row : BitVec 15) (s : State) : Out :=
  if 20480 ≤ row.toNat then .fault (.illFormed "ACT")
  else if bankReady s c b then .next (onChan c (onBank b (openIn row.toNat)) s)
  else .next s

/-- RD (R75, R110-R113): a burst of 8 columns of the open row; what the array and the wires disturbed comes with the
command, as do the inner corrections of the die. -/
def execRd (c : Fin 512) (b : Fin 32) (burst : Fin 8) (autoPrecharge : Bool) (inner : Nat)
    (arrayFlips wireFlips : List BitFlip) (s : State) : Out :=
  if (chan s c).failed then
    .next (onChan c (fun h => { h with delivered := List.replicate 8 Sector.poisoned }) s)
  else match bankReady s c b, openRow (bank (chan s c) b) with
  | true, some row =>
    let first := sectorOf c b row (8 * burst.val)
    let (xs, s1) := readBurst arrayFlips wireFlips 0 c first 8 0 (countInner c inner s)
    .next (onChan c (fun h =>
      let h1 := { h with delivered := xs, readBeats := h.readBeats + 8 }
      if autoPrecharge then onBank b (fun k => closeHalf k.lastHalf k) h1 else h1) s1)
  | _, _ => .next s

def writeMasked (mask : BitVec 8) (first : Nat) : Nat → List Sector → State → State
  | _, [], s => s
  | i, x :: xs, s =>
    writeMasked mask first (i + 1) xs (if mask.getLsbD i then ctlWrite (first + i) x s else s)

/-- WR (R75, R115): the sectors of a burst whose mask bit is set, each written whole. -/
def execWr (c : Fin 512) (b : Fin 32) (burst : Fin 8) (mask : BitVec 8) (autoPrecharge : Bool) (sectors : List Sector)
    (s : State) : Out :=
  match bankReady s c b, openRow (bank (chan s c) b) with
  | true, some row =>
    let s1 := writeMasked mask (sectorOf c b row (8 * burst.val)) 0 (sectors.take 8) s
    .next (onChan c (fun h =>
      let h1 := { h with writeBeats := h.writeBeats + 8 }
      if autoPrecharge then onBank b (fun k => closeHalf k.lastHalf k) h1 else h1) s1)
  | _, _ => .next s

/-- PRE (R75): a bank half closes its row. -/
def execPre (c : Fin 512) (b : Fin 32) (half : Fin 2) (s : State) : Out :=
  if bankReady s c b then .next (onChan c (onBank b (closeHalf half)) s) else .next s

/-- One REF: 5 rows, one less debt, the row buffers closed; counted, and counted as postponed where the bank's debt
was nonzero when it next fell due (debt of 2 or more) or a slice held it back (R81, R88). -/
def refOnce (b : Nat) (boundary afterSlice : Bool) (h : Channel) : Channel :=
  let debt := (bank h b).debt
  { onBank b (fun k => { k with debt := k.debt - 1, row0 := none, row1 := none }) h with
    refreshes := h.refreshes + 1
    boundaryRefreshes := h.boundaryRefreshes + BitVec.ofNat 64 (bitNat boundary)
    postponed := h.postponed + BitVec.ofNat 64 (bitNat (afterSlice || decide (2 ≤ debt))) }

/-- R83, R84: REF until the bank's debt is repaid. -/
def repay (b : Nat) (boundary afterSlice : Bool) : Nat → Channel → Channel
  | 0, h => h
  | n + 1, h => if (bank h b).debt = 0 then h else repay b boundary afterSlice n (refOnce b boundary afterSlice h)

/-- REF (R75, R81): to a bank with nonzero debt that no phrase holds. -/
def execRef (c : Fin 512) (b : Fin 32) (s : State) : Out :=
  if bankFree s c b && (bank (chan s c) b).debt != 0 then .next (onChan c (refOnce b false false) s) else .next s

/-- R79, R88: the channel runs at the doubled rate, as HOT and HOT_ANY show it. The spec does not say what they read for a mapped-out or
failed channel, which is refreshed at no rate: the model shows its state as any channel's (DESIGN CHOICE, log entry 83). -/
def doubled (s : State) (c : Nat) : Bool := (chan s c).hot || s.dram.forceDouble.contains (c / 64)

/-- R85: no bank ever owes more than three refreshes. -/
def raiseDebt (b : Nat) (h : Channel) : Channel :=
  let d := min 3 ((bank h b).debt + 1)
  { onBank b (fun k => { k with debt := d }) h with debtMax := max h.debtMax d }

/-- REFRESH_DUE (R80, R81, R85): an instant t₀ + b × 60.9375 ns + k × 1.95 µs of a bank of a refreshed channel; an `odd` k falls due
at the doubled rate alone. -/
def execRefreshDue (c : Fin 512) (b : Fin 32) (odd : Bool) (s : State) : Out :=
  if (chan s c).live && !(chan s c).failed && (!odd || doubled s c) then .next (onChan c (raiseDebt b) s) else .next s

end Sys2Proof.Machine
end

