-- ==== Sys2Proof/Machine/Tables.lean ====
section
/-! DEFINITION. Tables in a store: codebook slots, nonlinear tables, sine and cosine, reciprocal square root (R46, R47, R133). -/
namespace Sys2Proof.Machine

def memWord (m : Mem) (a : Nat) : Word := BitVec.ofNat 32 (leValue (memReadN m a 4))
def memHalf (m : Mem) (a : Nat) : Half := BitVec.ofNat 16 (leValue (memReadN m a 2))
def memQuad (m : Mem) (a : Nat) : Quad := quadOfBytes (memReadN m a 8)

/-- R139: slot `k` of a codebook store: 520 bytes, entries first, then the first 8 header bytes of R53. -/
def slotHeader (m : Mem) (k : Nat) : Nat := leValue (memReadN m (520 * k + 512) 8)
def slotEntryFmt (m : Mem) (k : Nat) : Nat := bits (slotHeader m k) 39 38
def slotLog2 (m : Mem) (k : Nat) : Nat := bits (slotHeader m k) 47 40
def slotValue (m : Mem) (k c : Nat) : Val := ofHalf (slotEntryFmt m k) (memHalf m (520 * k + 2 * c))

/-- The codebook that a slot holds. -/
def slotCodebook (m : Mem) (k : Nat) : Codebook :=
  let h := slotHeader m k
  { cbId := bits h 63 48, entriesLog2 := bits h 47 40, entryFmt := bits h 39 38, zeroIndex := bits h 31 24,
    anchorIndex := bits h 23 16,
    entries := (List.range (2 ^ min 8 (bits h 47 40))).map fun c => memHalf m (520 * k + 2 * c) }

def sideMode (n : Nat) : TableMode :=
  if n = 0 then .clamp else if n = 1 then .extend else if n = 2 then .identity else .zero

/-- R133: the parameter word and the coefficients of table slot `k`. -/
def storeTable (m : Mem) (k : Nat) : NlTable :=
  let p := 16384 + 16 * k
  { coeffs := (List.range 256).map fun i => (memWord m (2048 * k + 8 * i), memWord m (2048 * k + 8 * i + 4)),
    a := memWord m p, p := (memRead m (p + 4)).toInt, low := sideMode ((memRead m (p + 5)).toNat % 4),
    high := sideMode ((memRead m (p + 5)).toNat / 4 % 4) }

def tableValid (m : Mem) (k : Nat) : Bool := (memRead m (16384 + 16 * k + 6)).getLsbD 0

/-- R47: a quarter wave at `u` of 2^24; the end of the table's range is the free value. -/
def quarter (m : Mem) (u : Nat) : Val :=
  let t := storeTable m 7
  if 16777216 ≤ u then ofFp32 (Config.sineEnd (t.coeffs.getD 255 (0, 0)).1 (t.coeffs.getD 255 (0, 0)).2)
  else fma32 (t.c1 (u / 65536)) (.fin (u % 65536) (-16)) (t.c0 (u / 65536))

/-- R47: the sine of `theta` of 2^48 turns: quadrant, interval and fraction; reflected in the odd quadrants. -/
def sineTurns (m : Mem) (theta : Nat) : Val :=
  let q := theta / 2 ^ 46 % 4
  let u := theta / 2 ^ 22 % 16777216
  let v := quarter m (if q % 2 = 0 then u else 16777216 - u)
  if q < 2 then v else v.neg

def cosTurns (m : Mem) (theta : Nat) : Val := sineTurns m ((theta + 2 ^ 46) % 2 ^ 48)

/-- R147: one rotated pair at position `pos` and frequency `phi`. -/
def rotatePair (m : Mem) (pos phi : Nat) (x : Val × Val) : Val × Val :=
  let th := pos * phi % 2 ^ 48
  let c := cosTurns m th
  let s := sineTurns m th
  (roundFp32 ((x.1.mul c).sub (x.2.mul s)), roundFp32 ((x.1.mul s).add (x.2.mul c)))

/-- R147: frequency `j` of a frequency table, 48 bits in a 64-bit word. -/
def frequency (m : Mem) (j : Nat) : Nat := (memQuad m (8 * j)).toNat % 2 ^ 48

/-- Whether `w` lies within 2^-22 of the reciprocal square root of `x`, relative (R47). -/
def rsqrtClose (w x : Val) : Bool :=
  let p := (w.mul w).mul x
  let lo : Val := .fin 4194303 (-22)
  let hi : Val := .fin 4194305 (-22)
  !w.isNeg && !p.lt (lo.mul lo) && !(hi.mul hi).lt p

/-- R47: the reciprocal square root; the order of the Newton step's roundings is open, within the stated bound. -/
def rsqrt (m : Mem) (x : Val) : Val :=
  match x with
  | .fin a e =>
    if a ≤ 0 then ofFp32 (Config.rsqrtCorner (toFp32 x))
    else
      let ex := expOf a e
      let s := ex / 2
      let r : Val := .fin a (e - 2 * s)
      let t := storeTable m 6
      let q := if ex - 2 * s = 0 then (r.sub .one).mul (.fin 128 0) else (r.sub (.fin 2 0)).mul (.fin 64 0)
      let (i, f) := match q with
        | .fin b g => (floorVal b g, floorVal b (g + 16) - floorVal b g * 65536)
        | _ => (0, 0)
      let k := i.toNat + (if ex - 2 * s = 0 then 0 else 128)
      let y0 := fma32 (t.c1 k) (.fin f (-16)) (t.c0 k)
      let h := roundFp32 (r.mul y0)
      let d := roundFp32 (Val.one.sub (h.mul y0))
      let plain := roundFp32 (y0.add ((y0.mul d).mul (.fin 1 (-1))))
      let free := ofFp32 (Config.newton (toFp32 y0) (toFp32 r))
      (if rsqrtClose free r then free else plain).mul (.fin 1 (-s))
  | _ => ofFp32 (Config.rsqrtCorner (toFp32 x))

def toBf16 (v : Val) : Half := BitVec.ofNat 16 (roundTo .bf16 .nearest v)

end Sys2Proof.Machine
end

