-- ==== Sys2Proof/Machine/Pages.lean ====
section
/-! DEFINITION. Tables and key-value pages as they lie in module memory (R53, R56, R59, R269-R272). -/
namespace Sys2Proof.Machine

/-! Bytes of module memory as the module reads its own tables (R59). -/

def peekByte (s : State) (a : Nat) : Byte :=
  match peekSector s (a / 32 * 32) with
  | some x => x.data.extractLsb' (8 * (a % 32)) 8
  | none => 0

def peekBytes (s : State) (a n : Nat) : List Byte := (List.range n).map fun i => peekByte s (a + i)
def peekWord (s : State) (a : Nat) : Word := BitVec.ofNat 32 (leValue (peekBytes s a 4))

/-- R53: the codebook object at a module address. -/
def memCodebook (s : State) (a : Nat) : Codebook :=
  let h := leValue (peekBytes s a 8)
  let n := 2 ^ min 8 (bits h 47 40)
  { cbId := bits h 63 48, entriesLog2 := bits h 47 40, entryFmt := bits h 39 38, zeroIndex := bits h 31 24,
    anchorIndex := bits h 23 16,
    entries := (List.range n).map fun c => BitVec.ofNat 16 (leValue (peekBytes s (a + 32 + 2 * c) 2)) }

/-- R56: scale and ZERO_RANGE flag of channel `j` of the scale table at a module address. -/
def memScale (s : State) (a j : Nat) : Word × Bool :=
  let n := bits (leValue (peekBytes s a 8)) 47 24
  (peekWord s (a + 32 + 4 * j), (peekWord s (a + 32 + 4 * n + 4 * (j / 32))).getLsbD (j % 32))

/-- A sector of `[a, a + n)` reads as poisoned (R119). -/
def peekPoison (s : State) (a n : Nat) : Bool :=
  (List.range ((a + n + 31) / 32 - a / 32)).any fun k => ((peekSector s (32 * (a / 32 + k))).map (·.poison)).getD false

/-- R56, R200: position `p` counted through the scale tables of an image, in the order of their identifiers: the scale, its flag and
whether it reads as poisoned. -/
def imageScale (s : State) : List (Nat × Nat) → Nat → Option ((Word × Bool) × Bool)
  | [], _ => none
  | (_, a) :: t, p =>
    let n := bits (leValue (peekBytes s a 8)) 47 24
    if p < n then some (memScale s a p, peekPoison s (a + 32 + 4 * p) 4 || peekPoison s (a + 32 + 4 * n + 4 * (p / 32)) 4)
    else imageScale s t (p - n)

/-- R18: no loaded image places the product in the other half. -/
def halfAllows (s : State) (reduction : Nat) (dense : Bool) : Bool :=
  !s.load.images.any fun e => e.2.decls.contains (.half reduction (!dense))

/-! Key-value pages (R269-R273). -/

def pageOffset (d : CacheDecl) (l kv : Nat) : Nat := (2 * l + kv) * d.pageBytes
def headerOffset (d : CacheDecl) (l kv : Nat) : Nat := 2 * d.layers * d.pageBytes + (2 * l + kv) * d.headerBytes

/-- R270: the page byte of head `h`, slot `sp`, dimension `d`; the Bool is the high nibble of a 4-bit page. -/
def pageByte (fmt kv h sp d : Nat) : Nat × Bool :=
  if fmt = 0 then
    if kv = 0 then ((4 * h + sp / 16) * 2048 + sp % 16 * 128 + d, false)
    else ((4 * h + d / 32) * 2048 + sp * 32 + d % 32, false)
  else if fmt = 1 then
    if kv = 0 then ((2 * h + sp / 32) * 2048 + 1024 * (sp / 16 % 2) + sp % 16 * 64 + d / 2, d % 2 == 1)
    else ((2 * h + d / 64) * 2048 + sp * 32 + 16 * (d / 32 % 2) + d % 64 % 32 / 2, d % 2 == 1)
  else ((8 * h + sp / 8) * 2048 + sp % 8 * 256 + 2 * d, false)

def pageFmt (d : CacheDecl) (l kv : Nat) : PageFmt := d.pages.getD (2 * l + kv) ⟨2, 0, 0, 0⟩

/-- The block of entry `p` of a sequence. -/
def residentBlock (s : State) (q p : Nat) : Option Nat :=
  match (seqEntry s q).pages[p]? with
  | some (.resident b) => some b
  | _ => none

/-- R272: word 0 of a page header. -/
def headerWord (fmt kv cb table ctl source window heads l : Nat) : Quad :=
  BitVec.ofNat 2 fmt ++ BitVec.ofNat 1 kv ++ (0 : BitVec 1) ++ BitVec.ofNat 12 cb ++ BitVec.ofNat 16 table ++
    BitVec.ofNat 4 ctl ++ BitVec.ofNat 2 source ++ BitVec.ofNat 7 window ++ BitVec.ofNat 4 (heads - 1) ++
    (0 : BitVec 4) ++ BitVec.ofNat 11 l

/-- A page's scale and flag of channel `c` from its header (R272). -/
def headerScale (s : State) (heads hdr c : Nat) : Word × Bool :=
  (peekWord s (hdr + 64 + 4 * c), (peekWord s (hdr + 64 + 512 * heads + 4 * (c / 32))).getLsbD (c % 32))

end Sys2Proof.Machine
end

