-- ==== Sys2Proof/Machine/Units.lean ====
section
/-! DEFINITION. Near-bank units: commands on the channel, phrases as the controller holds them, the input path, the
exchange between units (R133-R154, R171, R172). -/
namespace Sys2Proof.Machine

def unit (s : State) (u : Nat) : Unit := tabGet {} s.near.units u
def setUnit (u : Nat) (v : Unit) (s : State) : State := { s with near.units := tabPut s.near.units u v }
def onUnit (u : Nat) (f : Unit → Unit) (s : State) : State := setUnit u (f (unit s u)) s

/-- R150, R396. -/
def unitFenced (s : State) (u : Nat) : Bool := s.lut.fencedUnits.contains u || (unit s u).fenced

def nearChan (s : State) (c : Nat) : NearChannel := tabGet {} s.near.channels c
def onNear (c : Nat) (f : NearChannel → NearChannel) (s : State) : State :=
  { s with near.channels := tabPut s.near.channels c (f (nearChan s c)) }

def dieBus (s : State) (d : Nat) : DieBus := tabGet {} s.near.dies d
def onDie (d : Nat) (f : DieBus → DieBus) (s : State) : State :=
  { s with near.dies := tabPut s.near.dies d (f (dieBus s d)) }

/-- The units that a command names (R139): all sixteen of the channel or the one; nothing goes to one that did not answer (R400). -/
def addressed (s : State) (c : Nat) (all : Bool) (n : Nat) : List Nat :=
  ((if all then List.range 16 else [n]).map (16 * c + ·)).filter fun u => !(unit s u).isolated

/-- The units that a phrase, a broadcast or a load reaches: those not fenced (R150). -/
def targets (s : State) (c : Nat) (all : Bool) (n : Nat) : List Nat :=
  (addressed s c all n).filter fun u => !unitFenced s u

def eachUnit (us : List Nat) (f : Nat → State → State) (s : State) : State := us.foldl (fun s u => f u s) s

/-- R163, R143, R160: a code a unit raises: STATUS.CODE keeps the first, UNIT_EVENT rises, the code is recorded. -/
def unitCode (code : Half) (u : Nat) (s : State) : State :=
  let first := (unit s u).status.code == 0
  let s1 := onUnit u (fun v => { v with
    status.code := if first then code else v.status.code
    status.overrun := v.status.overrun || code == 0x8004 || code == 0x8005 }) s
  let s2 := if first then raiseUnitEvent (u / 1024) s1 else s1
  reportFree code (subjUnit u) (subjUnit u) s2

/-- The micro-program word at an address (R165). -/
def microWord (v : Unit) (pc : Nat) : Nat := (memQuad v.micro (8 * pc)).toNat

/-- R162: the live index of a unit; 0 on a channel of the applied map. -/
def unitLiveIndex (s : State) (u : Nat) : Nat :=
  (liveIndex s.spread.applied (u / 1024) (u / 16 % 64) (u % 16)).getD 0

/-- R162: X1-X12 as the phrase starts. -/
def startRegs (args : List Quad) : List Word :=
  0 :: (args.map fun a => [a.extractLsb' 0 32, a.extractLsb' 32 32]).flatten ++ [0, 0, 0]

def dirEntry (s : State) (u addr : Nat) : Nat := (tabGet 0 s.near.directory (512 * (u / 1024) + addr)).toNat
def dirValid (e : Nat) : Bool := bit e 63
def dirCycles (e : Nat) : Nat := bits e 62 52
def dirSectors (e : Nat) : Nat := bits e 51 44

def dirSegMask (e : Nat) : Nat := bits e 43 28

def entryRow (arg0 : Quad) : Nat := arg0.toNat % 32768
def entryValid (arg0 : Quad) : Bool := arg0.getLsbD 15

/-- Both banks of a pair open one row (R171, R172). -/
def openPair (u row : Nat) (s : State) : State :=
  onChan (u / 16) (fun h => onBank (2 * (u % 16) + 1) (openIn row) (onBank (2 * (u % 16)) (openIn row) h)) s

/-! Collectors as the channels reach them (R155, R156, R158). -/

def collectorOf (c : Nat) : Nat := 4 * (c / 64) + c % 64 / 16
def collector (s : State) (k : Nat) : Collector := tabGet {} s.near.collectors k
def onCollector (k : Nat) (f : Collector → Collector) (s : State) : State :=
  { s with near.collectors := tabPut s.near.collectors k (f (collector s k)) }

def owner (s : State) (t : Nat) : Owner := tabGet {} s.near.owners t
def onOwner (t : Nat) (f : Owner → Owner) (s : State) : State :=
  { s with near.owners := tabPut s.near.owners t (f (owner s t)) }

/-- A finished vector as the tile holds it. -/
def Owner.vector (o : Owner) (v : Nat) : Finished := tabGet {} o.finished v

/-- R25: the vector has arrived, with every element of `[first, first + n)` within its width. -/
def Finished.present (v : Finished) (first n : Nat) : Bool :=
  v.width != 0 && (List.range n).all fun i => decide (v.width ≤ first + i) || (tabFind? v.words (first + i)).isSome

/-- The current reduction of a collector. -/
def Collector.current (q : Collector) : Reduction := q.reductions.headD {}

/-- R156, R158: `r` with `r.owed` more sectors declared and `r.poisoned` more elements supplied as poison. -/
def joinReduction (r : Reduction) : List Reduction → List Reduction
  | [] => [r]
  | x :: t =>
    if x.number = r.number then { r with owed := x.owed + r.owed, poisoned := x.poisoned ++ r.poisoned } :: t
    else x :: joinReduction r t

/-- Declared sectors that a reduction will not receive, with the elements supplied as poisoned zeros instead. -/
def writeOffSectors (number n : Nat) (elements : List Nat) (q : Collector) : Collector :=
  { q with reductions := q.reductions.map fun r =>
      if r.number = number then { r with owed := r.owed - n, poisoned := r.poisoned ++ elements } else r }

/-- The elements that an output sector feeds (R138). -/
def outElements (o : OutSector) : List Nat :=
  let i := o.tag.toNat % 2 ^ 24
  match o.tag.toNat / 2 ^ 24 with
  | 1 => [i, i + 1, i + 2, i + 3]
  | 4 => [i]
  | _ => []

/-- R104, R400: everything that a unit still owes its collector is supplied as poison. -/
def writeOffUnit (u : Nat) (s : State) : State :=
  let v := unit s u
  let kk := collectorOf (u / 16)
  let s1 := v.out.foldl (fun s o => onCollector kk (writeOffSectors o.reduction 1 (outElements o)) s) s
  let s2 := match v.run with
    | some r => onCollector kk (writeOffSectors r.reduction r.owes r.declared) s1
    | none => s1
  onUnit u (fun v => { v with out := [], run := none }) s2

/-! Phrases (R142-R145, R150, R172). -/

/-- R25: the segments that a mask declares. -/
def segmentsOf (mask : Nat) : List Nat := (List.range 16).filter (bit mask)

/-- R154: the exchange paths of a unit as its phrase starts. -/
def dieOf (tile lu : Nat) : Nat := 16 * tile + lu / 16 / 4

/-- The controller issues a phrase to a unit (R18, R25, R83, R118, R137, R144): a valid entry, room, a free pair without debt and without
sectors to read again, every declared segment whole. -/
def phraseReady (s : State) (u addr : Nat) (p : PhrasePlan) : Bool :=
  let v := unit s u
  let e := dirEntry s u addr
  let c := u / 16
  let b := 2 * (u % 16)
  halfAllows s p.reduction false && dirValid e && decide (v.out.length + dirSectors e ≤ 128) && (tabFind? (chan s c).holds (u % 16)).isNone &&
    (bank (chan s c) b).debt == 0 && (bank (chan s c) (b + 1)).debt == 0 &&
    !rereadWaits s c b && !rereadWaits s c (b + 1) &&
    (segmentsOf (dirSegMask e)).all fun k => tabFind? v.segments k == some p.vector

/-- R142-R144, R172: one unit starts a phrase. -/
def beginPhrase (addr : Nat) (p : PhrasePlan) (u : Nat) (s : State) : State :=
  let v := unit s u
  let e := dirEntry s u addr
  let c := u / 16
  let arg0 := v.shadow.getD 0 0
  let s1 := if entryValid arg0 && decide (entryRow arg0 < 20480) then openPair u (entryRow arg0) s else s
  let s2 := onChan c (fun h => { h with holds := tabPut h.holds (u % 16) (dirCycles e) }) s1
  let s3 := onNear c (fun n => { n with
    phrases := n.phrases + 1, phraseCycles := n.phraseCycles + BitVec.ofNat 64 (dirCycles e) }) s2
  let s4 := onCollector (collectorOf c) (fun q => { q with
    reductions := joinReduction ⟨p.reduction, p.width, p.isMax, dirSectors e, []⟩ q.reductions }) s3
  let run : PhraseRun :=
    { pc := addr
      segMask := BitVec.ofNat 16 (dirSegMask e)
      dieFaulted := (dieBus s (dieOf (u / 1024) (u % 1024))).faulted
      cutLinks := (nearChan s c).chainFaulted
      owes := dirSectors e
      declared := ((p.declared.find? fun x => x.1 == u % 16).map (·.2)).getD []
      reduction := p.reduction
      plan := p.tag
      badPositions := if p.expert.isSome then (owner s (u / 1024)).badRoutes else [] }
  onUnit u (fun v => { v with
    args := v.shadow, lastStart := addr, x := startRegs v.shadow, xMarks := v.shadowMarks, run := some run }) s4

/-- R145: a busy unit ignores START_PHRASE and records 0x8001. -/
def startOne (addr : Nat) (p : PhrasePlan) (u : Nat) (s : State) : State :=
  if (unit s u).run.isSome then unitCode 0x8001 u s else beginPhrase addr p u s

/-- R150: poisoned zero partials in place of what the plan declares of the fenced units named. -/
def supplyFenced (c : Nat) (all : Bool) (n : Nat) (p : PhrasePlan) (s : State) : State :=
  let fenced := (addressed s c all n).filter (unitFenced s)
  let elements := (p.declared.filter fun x => fenced.contains (16 * c + x.1)).flatMap (·.2)
  if elements.isEmpty then s
  else onCollector (collectorOf c) (fun q => { q with
    reductions := joinReduction ⟨p.reduction, p.width, p.isMax, 0, elements⟩ q.reductions }) s

/-- R190: a phrase of an expert goes, at the map entry's address, to the units whose mask bit is set, by ALL where a channel's mask
is full, and only when some position selected the expert. -/
def expertAllows (s : State) (c : Nat) (all : Bool) (n addr : Nat) (x : Nat × Bool) : Bool :=
  let o := owner s (c / 64)
  match (o.experts.find? fun e => e.2.expert == x.1).map (·.2) with
  | none => false
  | some e =>
    let mask := (e.masks.getD (c % 64) 0)
    o.selected.any (fun q => q.2.any fun y => y.1 == x.1) && addr == (if x.2 then e.down else e.gateUp) &&
      (if all then mask == 0xFFFF else mask.getLsbD n && mask != 0xFFFF)

/-! Attention phrases (R271, R286). -/

/-- R270: granule and half of a phrase's page. -/
def attnGranule (a : AttnPlan) (fmt : Nat) : Nat × Nat :=
  if fmt = 1 then (2 * a.head + a.part / 2, a.part % 2) else (4 * a.head + a.part, 0)

def kvOf (a : AttnPlan) : Nat := if a.value then 1 else 0

/-- The header and the granule that an attention phrase reads, and the fields of the header. -/
structure AttnPage where
  header : Nat
  fmt : Nat
  cb : Nat
  granule : Nat
  half : Nat
  deriving DecidableEq, Repr

def attnPage (s : State) (d : CacheDecl) (a : AttnPlan) : Option AttnPage :=
  match residentBlock s a.seq a.page with
  | none => none
  | some b =>
    let header := blockAddress s d b + headerOffset d a.layer (kvOf a)
    let w := leValue (peekBytes s header 8)
    let g := attnGranule a (bits w 63 62)
    some { header := header, fmt := bits w 63 62, cb := bits w 59 48, half := g.2,
           granule := blockAddress s d b + pageOffset d a.layer (kvOf a) + 2048 * g.1 }

/-- R271: the positions of the granule that the step has reached; LENGTH counts the position just appended (R28). -/
def validCount (a : AttnPlan) : Nat :=
  let length := a.position + 1
  if a.value then min 64 (length - 64 * a.page) else min 16 (length - 64 * a.page - 16 * a.part)

/-- R271: the row register of the phrase for a granule in unit row `r`. -/
def rowRegister (a : AttnPlan) (half r : Nat) : Nat := half * 2 ^ 23 + validCount a * 2 ^ 16 + r % 65536

/-- R286: the start address of the phrase, among those of the page codebook. -/
def attnAddress (d : CacheDecl) (cb : Nat) (a : AttnPlan) : Option Nat :=
  (d.phrases.find? fun p => p.cb == cb).map fun p => if a.value then (if a.second then p.value1 else p.value0) else p.score

/-- R28: the appends of the layer at the step's position have been made for the head. -/
def appendsMade (s : State) (a : AttnPlan) : Bool :=
  [0, 1].all fun g => s.kv.appends.contains ⟨a.seq, a.layer, kvOf a, 2 * a.head + g, a.position⟩

/-- R25: the query group that the plan broadcasts is there. -/
def queryPresent (s : State) (t : Nat) (d : CacheDecl) (a : AttnPlan) : Bool :=
  match a.query with
  | some (v, first) => ((owner s t).vector v).present first (128 * d.qheads)
  | none => true

/-- R286: the step on the sequence runs decode attention of this layer, page and head in unit `u`. -/
def attnAllows (s : State) (u addr : Nat) (a : AttnPlan) : Bool :=
  match cacheDecl s with
  | none => false
  | some d => match attnPage s d a with
    | none => false
    | some p =>
      d.decode.getD a.layer false && decide (a.head < d.heads) && decide (a.part < 4) && decide (64 * a.page ≤ a.position) &&
        (seqEntry s a.seq).state == .stepping && appendsMade s a && queryPresent s (u / 1024) d a &&
        attnAddress d p.cb a == some addr &&
        match place s p.granule with
        | some q => globalUnit q == u
        | none => false

/-- R286: the scales that the phrase needs in its unit's scale store, from word 0 for keys, from word 128 for values. -/
def attnScales (s : State) (d : CacheDecl) (p : AttnPage) (a : AttnPlan) : List Word :=
  let scale (i : Nat) : Word := (headerScale s d.heads p.header (128 * a.head + i)).1
  if a.value then (List.range 64).map fun i => if i < 32 then scale (32 * a.part + i) else 0
  else (List.range 128).map fun i => toFp32 ((ofFp32 (scale i)).mul (ofFp32 d.attnFactor))

/-! ARG_WRITE (R139, R142, R191). -/

/-- Lanes of data that go down the channel: WRITE_BEATS counts their beats (R88). -/
def sendBeats (c n : Nat) (s : State) : State := onChan c (fun h => { h with writeBeats := h.writeBeats + BitVec.ofNat 64 n }) s

/-- Beats that come up the channel, kept as the last read of it (R88). -/
def takeBeats (c : Nat) (xs : List Sector) (s : State) : State :=
  onChan c (fun h => { h with
    delivered := xs
    readBeats := h.readBeats + BitVec.ofNat 64 xs.length
    poisonDelivered := h.poisonDelivered + BitVec.ofNat 64 (xs.filter (·.poison)).length }) s

/-- R191: the weight of an expert for a position, +0 where the position did not select it. -/
def weightOf (o : Owner) (expert position : Nat) : Word :=
  (((tabGet [] o.selected position).find? fun x => x.1 == expert).map (·.2)).getD 0

/-- The value of a lane on a tile. -/
def laneValue (o : Owner) : ArgLane → Quad
  | .plan q => q
  | .results v low high => tabGet 0 (o.vector v).words high ++ tabGet 0 (o.vector v).words low
  | .weights e p => weightOf o e (p + 1) ++ weightOf o e p

/-- The elements that a lane takes are there (R23). -/
def lanePresent (o : Owner) : ArgLane → Bool
  | .results v low high => (o.vector v).present low 1 && (o.vector v).present high 1
  | _ => true

/-- R139: the lanes of ARG_WRITE that reach the shadow. -/
def writeLane (half : Nat) (skip : BitVec 4) (lanes : List Quad) (shadow : List Quad) (j : Nat) : List Quad :=
  let w := 4 * half + j
  if skip.getLsbD j || w = 0 || w = 7 then shadow else shadow.set (w - 1) (lanes.getD j 0)

/-- The halves of a lane that come from poisoned results (R119): 0 the low word, 1 the high. -/
def laneMarks (o : Owner) : ArgLane → List Nat
  | .results v low high =>
    (if (o.vector v).marks.contains low then [0] else []) ++ (if (o.vector v).marks.contains high then [1] else [])
  | _ => []

/-- The marks of the X registers that the shadow will load (R142). -/
def writeLaneMarks (half : Nat) (skip : BitVec 4) (marks : List (List Nat)) (l : List Nat) (j : Nat) : List Nat :=
  let w := 4 * half + j
  if skip.getLsbD j || w = 0 || w = 7 then l
  else (l.filter fun r => r != 2 * w - 1 && r != 2 * w) ++ (marks.getD j []).map (2 * w - 1 + ·)

/-- ARG_WRITE (R139, R142, R191). -/
def execArgWrite (c : Fin 512) (all : Bool) (n : Fin 16) (half : Fin 2) (skip : BitVec 4) (lanes : List ArgLane) (s : State) : Out :=
  if channelReady s c && lanes.all (lanePresent (owner s (c.val / 64))) then
    let o := owner s (c.val / 64)
    .next (sendBeats c 1 (eachUnit (addressed s c all n)
      (fun u => onUnit u fun v => { v with
        shadow := [0, 1, 2, 3].foldl (writeLane half skip (lanes.map (laneValue o))) v.shadow
        shadowMarks := [0, 1, 2, 3].foldl (writeLaneMarks half skip (lanes.map (laneMarks o))) v.shadowMarks }) s))
  else .next s

/-- Sectors stored in a byte memory from byte `a`, with their marks (keys are byte address / 32). -/
def putSectors (m : Mem) (marks : List Nat) : Nat → List Sector → Mem × List Nat
  | _, [] => (m, marks)
  | a, x :: xs =>
    putSectors (memWriteL m a (sectorBytes x.data)) (if x.poison then setInsert marks (a / 32) else setErase marks (a / 32))
      (a + 32) xs

/-! The input path (R146, R147). -/

def sectorHalf (x : Sector) (i : Nat) : Half := x.data.extractLsb' (16 * i) 16

def burstElem (xs : List Sector) (i : Nat) : Val := ofBf16 (sectorHalf (xs.getD (i / 16) .zero) (i % 16))

def packHalves (hs : List Half) : BitVec 256 := BitVec.ofNat 256 (leValue ((hs.map fun h => leBytes 2 h.toNat).flatten))

def chunk16 {α : Type} : Nat → List α → List (List α)
  | 0, _ => []
  | n + 1, l => l.take 16 :: chunk16 n (l.drop 16)

/-- Element `i` of a burst in ROTARY mode at buffer element `e`. -/
def rotaryElem (v : Unit) (dest : Nat) (xs : List Sector) (i : Nat) : Half :=
  let k := 2 ^ v.log2k
  let e := 128 * dest + i
  let pos := v.positions.getD (e / (16384 / k)) 0
  let j := e % (16384 / k) % 128 / 2
  let p := rotatePair v.tables pos (frequency v.freqs j) (burstElem xs (i / 2 * 2), burstElem xs (i / 2 * 2 + 1))
  toBf16 (if i % 2 = 0 then p.1 else p.2)

/-- R146: the result halves of a burst in a mode. -/
def inputPath (v : Unit) (mode slot dest : Nat) (xs : List Sector) : List Half :=
  match mode with
  | 0 => (List.range 128).map fun i => sectorHalf (xs.getD (i / 16) .zero) (i % 16)
  | 1 => (List.range 128).map fun i => toBf16 ((storeTable v.tables slot).eval (burstElem xs i))
  | 2 => (List.range 64).map fun i =>
      toBf16 (roundFp32 (((storeTable v.tables slot).eval (burstElem xs (2 * i))).mul (burstElem xs (2 * i + 1))))
  | _ => (List.range 128).map (rotaryElem v dest xs)

/-- The marks of the result sectors. -/
def inputMarks (mode : Nat) (xs : List Sector) : List Bool :=
  let p (i : Nat) : Bool := (xs.getD i .zero).poison
  if mode = 2 then (List.range 4).map fun i => p (2 * i) || p (2 * i + 1) else (List.range 8).map p

/-- A sector of a unit's store, by its STORE code, is marked in bytes `[a, a + n)` (R116, R119). -/
def storeMarked (v : Unit) (store a n : Nat) : Bool :=
  v.storeMarks.any fun k => decide (4096 * store + a / 32 ≤ k) && decide (32 * (k - 4096 * store) < a + n)

/-- The bytes of a store, in the code of `Unit.bad`, that a write of bytes `[a, a + n)` makes good again. -/
def clearBad (store a n : Nat) (v : Unit) : Unit := { v with bad := v.bad.filter fun b => !inRange (65536 * store + a) n b }

/-- R116: the sector of an uncorrectable byte takes its mark. -/
def markStore (store a : Nat) (v : Unit) : Unit :=
  if store = 5 then { v with lbMarks := setInsert v.lbMarks (a / 32) }
  else if store = 6 then { v with actMarks := setInsert v.actMarks (a / 32) }
  else if store = 8 then { v with mail := tabPut v.mail (a / 64) { tabGet ({} : MailSlot) v.mail (a / 64) with poison := true } }
  else { v with storeMarks := setInsert v.storeMarks (4096 * store + a / 32) }

/-- R116: a unit reads bytes `[a, a + n)` of a store: each uncorrectable one is met once. -/
def meetStore (u store a n : Nat) (s : State) : State :=
  ((unit s u).bad.filter (inRange (65536 * store + a) n)).foldl
    (fun s b => sramLost (u / 1024) (onUnit u (markStore store (b - 65536 * store)) s)) (onUnit u (clearBad store a n) s)

/-- The reads of one nonlinear table. -/
def meetTable (u slot : Nat) (s : State) : State :=
  meetStore u 3 (2048 * slot) 2048 (meetStore u 3 (16384 + 16 * slot) 16 s)

def tableMarked (v : Unit) (slot : Nat) : Bool := storeMarked v 3 (2048 * slot) 2048 || storeMarked v 3 (16384 + 16 * slot) 16

/-- The stores that a mode of the input path reads hold poison (R119). -/
def modeMarked (v : Unit) (mode slot : Nat) : Bool :=
  if mode = 0 then false else if mode = 3 then tableMarked v 7 || storeMarked v 4 0 512 else tableMarked v slot

/-- R146: one unit takes a burst through its input path; a table slot that is not VALID writes poisoned zeros. In ROTARY mode the slot
is 7 (R147), whatever TABLE says; in COPY mode TABLE is not read (DESIGN CHOICE, log entry 86). The segment then holds the burst's
vector whole, or waits for more of it (R25). -/
def bcastOne (mode slot dest : Nat) (xs : List Sector) (p : BcastPlan) (u : Nat) (s : State) : State :=
  let s := if mode = 0 then s
    else if mode = 3 then meetStore u 4 0 512 (meetTable u 7 s) else meetTable u slot s
  let v := unit s u
  let bad := (mode == 1 || mode == 2) && !tableValid v.tables slot || mode == 3 && !tableValid v.tables 7
  let d := if mode = 2 then dest % 256 else dest % 128
  let count := if mode = 2 then 4 else 8
  let sectors : List Sector :=
    if bad then List.replicate count .poisoned
    else ((chunk16 count (inputPath v mode slot d xs)).zip (inputMarks mode xs)).map fun p =>
      { data := packHalves p.1, poison := p.2 || modeMarked v mode slot }
  let a := (if mode = 2 then 128 else 256) * d
  let r := putSectors v.act v.actMarks a sectors
  let s1 := onUnit u (fun v => { clearBad 6 a (32 * count) v with
    act := r.1, actMarks := r.2
    segments := if p.closes then tabPut v.segments (a / 2048) p.vector else tabDel v.segments (a / 2048) }) s
  if bad then unitCode 0x8030 u s1 else s1

/-- R25: a running phrase declares the segment that a burst falls in. -/
def segmentBusy (s : State) (mode dest u : Nat) : Bool :=
  let a := if mode = 2 then 128 * (dest % 256) else 256 * (dest % 128)
  match (unit s u).run with
  | some r => r.segMask.getLsbD (a / 2048)
  | none => false

/-- The burst of 128 elements of a finished vector from element `first`, narrowed to bfloat16; beyond its width they are zeros (R27). -/
def finishedBurst (v : Finished) (first : Nat) : List Sector :=
  (List.range 8).map fun k =>
    { data := packHalves ((List.range 16).map fun i => toBf16 (ofFp32 (tabGet 0 v.words (first + 16 * k + i))))
      poison := (List.range 16).any fun i => v.marks.contains (first + 16 * k + i) }

/-- BCAST (R23, R25, R139, R146): of finished elements that are present, not into a segment that a running phrase declares. -/
def execBcast (c : Fin 512) (all : Bool) (n : Fin 16) (mode : Fin 4) (slot : Fin 8) (dest : Fin 256) (p : BcastPlan)
    (s : State) : Out :=
  let us := targets s c all n
  let v := (owner s (c.val / 64)).vector p.vector
  if channelReady s c && !tileTripped s (c.val / 64) && v.present p.first 128 && !us.any (segmentBusy s mode dest) then
    .next (sendBeats c 8 (eachUnit us (bcastOne mode slot dest (finishedBurst v p.first) p) s))
  else .next s

/-! START_PHRASE (R139, R142-R145, R150, R172, R190, R286). -/

/-- R286: before an attention phrase the controller loads its scales, writes its row register (word 1 of ARG0 and the word of the local
buffer that the worked example of R175 reads, log entry 89) and, where the plan says so, rotates the query into segments 0 and 1. -/
def prepareAttn (d : CacheDecl) (g : AttnPage) (a : AttnPlan) (p : PhrasePlan) (u : Nat) (s : State) : State :=
  let ws := attnScales s d g a
  let base := if a.value then 128 else 0
  let marks := (List.range (ws.length / 8)).map fun k => 4096 * 2 + base / 8 + k
  let dirty := peekPoison s g.header d.headerBytes
  let row := match place s g.granule with
    | some q => BitVec.ofNat 32 (rowRegister a g.half (2 * q.row + q.bank % 2))
    | none => 0
  let s1 := sendBeats (u / 16) (ws.length / 8) (onUnit u (fun v => { clearBad 2 (4 * base) (4 * ws.length) v with
    scales := memWriteL v.scales (4 * base) ((ws.map fun w => leBytes 4 w.toNat).flatten)
    storeMarks := marks.foldl (fun l k => if dirty then setInsert l k else setErase l k) v.storeMarks
    lb := memWriteL v.lb (if a.value then 4 else 0) (leBytes 4 row.toNat)
    shadow := v.shadow.set 0 (row ++ (v.shadow.getD 0 0).extractLsb' 0 32) }) s)
  match a.query, a.value with
  | some (v, first), false =>
    let s2 := sendBeats (u / 16) 1 (onUnit u (fun v => { v with
      positions := v.positions.set 0 (a.position % 2 ^ 24), log2k := 0 }) s1)
    (List.range d.qheads).foldl (fun s k =>
      sendBeats (u / 16) 8 (bcastOne 3 7 k (finishedBurst ((owner s (u / 1024)).vector v) (first + 128 * k))
        { vector := p.vector, first := first + 128 * k, closes := true } u s)) s2
  | _, _ => s1

/-- R288: the routing record of group `g`, in every tile; the spec does not say which collector is home: the model takes `g` mod 32
(DESIGN CHOICE, log entry 90). -/
def routeRecord (g block head : Nat) : BitVec 128 :=
  BitVec.ofNat 128 (block / 2048 * 2 ^ 35 + head * 2 ^ 31 + g % 32 / 4 * 2 ^ 21 + g % 4 * 2 ^ 19)

def putRoute (g block head : Nat) (s : State) : State :=
  (List.range 8).foldl (fun s t => onOwner t (fun o => { o with routing := tabPut o.routing g (routeRecord g block head) }) s) s

/-- The unit of an attention phrase prepared, and the group's record in the tables where a score phrase starts a later round. -/
def prepared (p : PhrasePlan) (u : Nat) (s : State) : State :=
  match p.attn, cacheDecl s with
  | some a, some d => match attnPage s d a, residentBlock s a.seq a.page with
    | some g, some b =>
      let s1 := prepareAttn d g a p u s
      if a.value then s1 else putRoute (p.tag.a % 4096) (blockAddress s d b) a.head s1
    | _, _ => s
  | _, _ => s

/-- R258: a release of a core that the step plan names as a precondition is not complete. -/
def releasesPending (s : State) (cores : List Nat) : Bool :=
  s.order.releases.any fun r => match r.agent with
    | .core g => cores.contains g
    | .host => false

/-- START_PHRASE: the controller issues it when every unit it reaches is ready; a tripped tile starts none (R390), and a unit under
test is waited for (R395). -/
def execStartPhrase (c : Fin 512) (all : Bool) (n : Fin 16) (addr : Fin 512) (p : PhrasePlan) (s : State) : Out :=
  let us := targets s c all n
  let may := channelReady s c && !tileTripped s (c.val / 64) && !releasesPending s p.after && !us.any (unitUnderTest s) &&
    (match p.expert with | some x => expertAllows s c all n addr x | none => true) &&
    (match p.attn with | some a => !all && attnAllows s (16 * c.val + n.val) addr a | none => true)
  let s1 := us.foldl (fun s u => prepared p u s) s
  if may && us.all fun u => (unit s u).run.isSome || phraseReady s1 u addr p then
    .next (onChan c (fun h => { h with issuedAt := some s.us }) (supplyFenced c all n p (eachUnit us (startOne addr p) s1)))
  else .next s

def sectorsBytes (xs : List Sector) : List Byte := (xs.map fun x => sectorBytes x.data).flatten

def bitsOfBytes (w : Nat) (bs : List Byte) : BitVec w := BitVec.ofNat w (leValue bs)

/-- Accumulators of a saved-state burst (R34, R140): 16 a burst, a sector's mark that of its accumulators (R119). -/
def restoreAccs (base : Nat) (xs : List Sector) (t : Tab Acc) : Tab Acc :=
  (List.range 16).foldl (fun t i =>
    let x := xs.getD (i / 2) .zero
    tabPut t (base + i) (Acc.ofBits (x.data.extractLsb' (128 * (i % 2)) 128) x.poison)) t

def restoreStats (base : Nat) (xs : List Sector) (t : Tab Stats) : Tab Stats :=
  (List.range 16).foldl (fun t i =>
    tabPut t (base + i) (Stats.ofBits ((xs.getD (i / 2) .zero).data.extractLsb' (128 * (i % 2)) 128))) t

def restoreMail (base : Nat) (xs : List Sector) (t : Tab MailSlot) : Tab MailSlot :=
  (List.range 4).foldl (fun t i =>
    let d : BitVec 512 := (xs.getD (2 * i + 1) .zero).data ++ (xs.getD (2 * i) .zero).data
    tabPut t (base + i) { tabGet ({} : MailSlot) t (base + i) with data := d }) t

def restoreMailBits (xs : List Sector) (t : Tab MailSlot) : Tab MailSlot :=
  let w := (xs.getD 0 .zero).data
  (List.range 16).foldl (fun t i =>
    tabPut t i { tabGet ({} : MailSlot) t i with valid := w.getLsbD i, poison := w.getLsbD (16 + i) }) t

/-- The marks of a store's sectors after a load of `n` bytes of `xs` from byte `a`. -/
def loadMarks (store a : Nat) (xs : List Sector) (l : List Nat) : List Nat :=
  ((List.range xs.length).zip xs).foldl (fun l p =>
    let k := 4096 * store + a / 32 + p.1
    if p.2.poison then setInsert l k else setErase l k) l

/-- R140: a write of a saved-state burst through STORE 110; burst 13 is ignored. -/
def restoreBurst (burst : Nat) (xs : List Sector) (v : Unit) : Unit :=
  if burst < 4 then { v with accs := restoreAccs (16 * burst) xs v.accs }
  else if burst < 8 then { v with
    stats := restoreStats (16 * (burst - 4)) xs v.stats
    storeMarks := loadMarks 7 (256 * (burst - 4)) xs v.storeMarks }
  else if burst < 12 then { v with mail := restoreMail (4 * (burst - 8)) xs v.mail }
  else if burst = 12 then { v with mail := restoreMailBits xs v.mail }
  else if burst < 16 then v
  else if burst < 144 then
    let r := putSectors v.act v.actMarks (256 * (burst - 16)) xs
    { clearBad 6 (256 * (burst - 16)) 256 v with act := r.1, actMarks := r.2 }
  else v

/-- R139: the store a burst loads; a burst beyond the store is without effect. -/
def loadStore (store burst : Nat) (xs : List Sector) (v0 : Unit) : Unit :=
  let bs := sectorsBytes xs
  let a := 256 * burst
  let v := clearBad store a 256 v0
  let marks := loadMarks store a xs v.storeMarks
  match store with
  | 0 => if burst < 16 then { v with micro := memWriteL v.micro a bs, storeMarks := marks, loaded := true } else v0
  | 1 => if burst < 33 then { v with codebooks := memWriteL v.codebooks a (bs.take (8320 - a)), storeMarks := marks } else v0
  | 2 => if burst < 16 then { v with scales := memWriteL v.scales a bs, storeMarks := marks } else v0
  | 3 => if burst < 65 then { v with tables := memWriteL v.tables a (bs.take (16512 - a)), storeMarks := marks } else v0
  | 4 => if burst < 2 then { v with freqs := memWriteL v.freqs a bs, storeMarks := marks } else v0
  | 5 =>
    if burst < 32 then
      let r := putSectors v.lb v.lbMarks a xs
      { v with lb := r.1, lbMarks := r.2 }
    else v0
  | 6 => restoreBurst burst xs v0
  | _ => v0

/-- R184: eight sectors of combined elements, in the target's format. -/
def resultSectors (o : Finished) (first : Nat) (half : Bool) : List Sector :=
  if half then finishedBurst o first
  else (List.range 8).map fun k =>
    { data := BitVec.ofNat 256 (leValue ((List.range 8).flatMap fun i => leBytes 4 (tabGet 0 o.words (first + 8 * k + i)).toNat))
      poison := (List.range 8).any fun i => o.marks.contains (first + 8 * k + i) }

/-- The beats of a STORE_LOAD; a list region is read with ordinary reads (R180). -/
def storeBeats (src : StoreSource) (o : Owner) (s : State) : List Sector × State :=
  match src with
  | .plan xs => (xs, s)
  | .memory a => readSectors 8 (a / 32 * 32) s
  | .results v first half => (resultSectors (o.vector v) first half, s)

def sourceWaits (s : State) (src : StoreSource) : Bool :=
  match src with
  | .memory a => rangeWaits s (a / 32 * 32) 256
  | _ => false

/-- The combined elements are there (R23, R184). -/
def sourcePresent (o : Owner) (src : StoreSource) : Bool :=
  match src with
  | .results v first half => (o.vector v).present first (if half then 128 else 64)
  | _ => true

/-- STORE_LOAD (R139, R145, R180, R184): a busy unit discards the beats and records 0x8002. -/
def execStoreLoad (c : Fin 512) (all : Bool) (n : Fin 16) (store : Fin 8) (burst : Fin 1024) (src : StoreSource)
    (s : State) : Out :=
  if sourceWaits s src then .next (deferCommand (.storeLoad c all n store burst src) s)
  else if channelReady s c && sourcePresent (owner s (c.val / 64)) src then
    let (xs, s1) := storeBeats src (owner s (c.val / 64)) s
    .next (sendBeats c 8 (eachUnit (targets s c all n) (fun u s =>
      if (unit s u).run.isSome then unitCode 0x8002 u s else onUnit u (loadStore store burst xs) s) s1))
  else .next s

/-- POS_WRITE (R147). -/
def execPosWrite (c : Fin 512) (all : Bool) (n : Fin 16) (lanes : List Word) (s : State) : Out :=
  if channelReady s c then
    .next (sendBeats c 1 (eachUnit (addressed s c all n) (fun u => onUnit u fun v => { v with
      positions := (List.range 8).map fun i => (lanes.getD i 0).toNat % 2 ^ 24
      log2k := (lanes.getD 0 0).toNat / 2 ^ 24 % 4 }) s))
  else .next s

/-- R153: a message lands in a slot. -/
def landMail (u slot : Nat) (data : BitVec 512) (poison : Bool) (s : State) : State :=
  if (chan s (u / 16)).failed then s
  else
    let full := (tabGet {} (unit s u).mail slot).valid
    let s1 := onUnit u (fun v => { clearBad 8 (64 * slot) 64 v with
      mail := tabPut v.mail slot { valid := true, poison := poison || full, data := data }
      status.mailOverrun := v.status.mailOverrun || full }) s
    if full then unitCode 0x8015 u s1 else s1

/-- R151: a message in its 64 bytes; the bytes beyond its LEN words are zeros (DESIGN CHOICE, log entry 87). -/
def messageBits (m : Message) : BitVec 512 :=
  let hdr : Quad := BitVec.ofNat 10 m.dest ++ BitVec.ofNat 10 m.src ++ BitVec.ofNat 4 m.slot ++
    BitVec.ofNat 3 m.words.length ++ BitVec.ofBool m.poison ++ (0 : BitVec 36)
  bitsOfBytes 512 (((hdr :: m.words).map fun q => leBytes 8 q.toNat).flatten)

/-- A relayed message for a slot of a unit of its tile. -/
def relayedFor (t dest slot : Nat) (x : Nat × Message) : Bool := x.1 == t && x.2.dest == dest && x.2.slot == slot

/-- MAIL_WRITE (R139, R152): the oldest message that the controller holds for the slot. -/
def execMailWrite (c : Fin 512) (n : Fin 16) (slot : Fin 16) (s : State) : Out :=
  let mine := relayedFor (c.val / 64) (16 * (c.val % 64) + n.val) slot
  match s.near.relayed.find? mine with
  | none => .next s
  | some x =>
    if channelReady s c then
      let s1 : State := { s with near.relayed := removeFirst mine s.near.relayed }
      .next (sendBeats c 2 (onNear c (fun k => { k with relayed := k.relayed + 1 })
        (landMail (16 * c.val + n.val) slot (messageBits x.2) x.2.poison s1)))
    else .next s

/-- R140: a tag beat. -/
def tagBeat (ts : List Word) : Sector :=
  { data := BitVec.ofNat 256 (leValue (ts.flatMap fun w => leBytes 4 w.toNat)), poison := false }

/-- R192: the sectors are of the collector's current reduction. -/
def mayRead (s : State) (c : Nat) (os : List OutSector) : Bool :=
  match (collector s (collectorOf c)).reductions with
  | [] => true
  | r :: _ => os.all fun o => o.reduction == r.number

/-- OB_READ_OUTPUT (R137, R140, R145, R155, R192): a tag beat and `count` sectors, the oldest first, which go on to the channel's
collector; poisoned zeros beyond. -/
def execObReadOutput (c : Fin 512) (n : Fin 16) (count : Fin 8) (s : State) : Out :=
  let u := 16 * c.val + n.val
  let want := count.val + 1
  let got := (unit s u).out.take want
  if channelReady s c && mayRead s c got then
    let padded := got ++ List.replicate (want - got.length) { tag := 0, sector := .poisoned }
    let s1 := onUnit u (fun v => { v with out := v.out.drop want }) s
    let s2 := onNear c (fun k => { k with outputSectors := k.outputSectors + BitVec.ofNat 64 got.length }) s1
    let s3 := takeBeats c (tagBeat (padded.map (·.tag)) :: padded.map (·.sector)) s2
    let s4 := onCollector (collectorOf c) (fun q => { q with inbox := q.inbox ++ got }) s3
    .next (if got.length < want then unitCode 0x8003 u s4 else s4)
  else .next s

/-- R143: STATUS as it stands. -/
def statusWord (v : Unit) : Quad :=
  let g := v.status
  let e := g.errAt.getD 0
  g.code ++ BitVec.ofNat 9 v.lastStart ++ BitVec.ofNat 1 (e / 2 ^ 21) ++ BitVec.ofNat 15 (e / 64) ++ BitVec.ofNat 6 e ++
    BitVec.ofNat 8 v.out.length ++ BitVec.ofBool (!v.relay.isEmpty) ++ BitVec.ofBool g.more ++
    BitVec.ofBool g.mailOverrun ++ BitVec.ofBool g.poisonSeen ++ BitVec.ofBool g.overrun ++
    BitVec.ofBool g.errAt.isSome ++ BitVec.ofBool (g.code != 0) ++ BitVec.ofBool v.run.isSome ++ BitVec.ofBool v.loaded

/-- The physical sector of an error of a unit: bank bit, row, column packed as in burst 13 (R140). -/
def errSector (u e : Nat) : Nat := sectorOf (u / 16) (2 * (u % 16) + e / 2 ^ 21 % 2) (e / 64 % 32768) (e % 64)

/-- R118: named sectors wait to be read again, found by a unit (FOUND_BY 01). -/
def queueRereads (u : Nat) (es : List Nat) (s : State) : State :=
  es.foldl (fun s e => queueReread { sector := errSector u e, foundBy := 1 } s) s

/-- R142: the command area. -/
def commandArea (v : Unit) : List Quad := BitVec.ofNat 64 v.lastStart :: v.args ++ [statusWord v]

def quadSector (qs : List Quad) (poison : Bool) : Sector :=
  { data := BitVec.ofNat 256 (leValue (qs.flatMap fun q => leBytes 8 q.toNat)), poison := poison }

/-- STATUS_READ (R140, R143): two beats of the command area; UNIT_STATUS takes STATUS and the gathered fields clear; the named sector
is treated (R118). -/
def execStatusRead (c : Fin 512) (n : Fin 16) (s : State) : Out :=
  if channelReady s c then
    let u := 16 * c.val + n.val
    let v := unit s u
    let ws := commandArea v
    let s1 := takeBeats c [quadSector (ws.take 4) false, quadSector (ws.drop 4) false] (queueRereads u v.status.errAt.toList s)
    .next (onUnit u (fun v => { v with unitStatus := statusWord v, status := {} }) s1)
  else .next s

/-! The saved state (R140). -/

def sectorsOfBits (f : Nat → BitVec 256 × Bool) : List Sector :=
  (List.range 8).map fun j => { data := (f j).1, poison := (f j).2 }

def actSector (v : Unit) (k : Nat) : Sector :=
  { data := sectorOfBytes (memReadN v.act (32 * k) 32), poison := v.actMarks.contains k }

/-- R140: burst 13: COUNT, LIST_OVERFLOW and the entries of the error list. -/
def errorListBits (v : Unit) : List Byte :=
  leBytes 4 (v.errors.length % 64 + 256 * bitNat v.listOverflow) ++
    v.errors.flatMap fun e => leBytes 4 (2 ^ 31 + e / 2 ^ 21 % 2 * 2 ^ 30 + e / 64 % 2 ^ 15 * 2 ^ 15 + e % 64 * 2 ^ 9)

/-- R34, R64, R140: the eight sectors of a burst of a unit's saved state. -/
def savedBurst (v : Unit) (burst : Nat) : List Sector :=
  if burst < 4 then sectorsOfBits fun j =>
    let a := tabGet ({} : Acc) v.accs (16 * burst + 2 * j)
    let b := tabGet ({} : Acc) v.accs (16 * burst + 2 * j + 1)
    (b.toBits ++ a.toBits, a.poison || b.poison)
  else if burst < 8 then sectorsOfBits fun j =>
    let k := 16 * (burst - 4) + 2 * j
    ((tabGet ({} : Stats) v.stats (k + 1)).toBits ++ (tabGet ({} : Stats) v.stats k).toBits, storeMarked v 7 (16 * k) 32)
  else if burst < 12 then sectorsOfBits fun j =>
    let m := tabGet ({} : MailSlot) v.mail (4 * (burst - 8) + j / 2)
    (m.data.extractLsb' (256 * (j % 2)) 256, m.poison)
  else if burst = 12 then sectorsOfBits fun j =>
    let f (p : MailSlot → Bool) : Nat := sumNat ((List.range 16).map fun i => bitNat (p (tabGet {} v.mail i)) * 2 ^ i)
    (if j = 0 then BitVec.ofNat 256 (f (·.valid) + 65536 * f (·.poison)) else 0, false)
  else if burst = 13 then sectorsOfBits fun j => (sectorOfBytes (((errorListBits v).drop (32 * j)).take 32), false)
  else if burst < 16 then List.replicate 8 .zero
  else (List.range 8).map fun j => actSector v (8 * (burst - 16) + j)

/-- OB_READ_SAVED_STATE (R140): burst 13 hands the error list over and clears it; an overflow asks the drone (R118). -/
def execObReadSavedState (c : Fin 512) (n : Fin 16) (burst : Fin 144) (s : State) : Out :=
  if channelReady s c then
    let u := 16 * c.val + n.val
    let v := unit s u
    let s0 := takeBeats c (savedBurst v burst) s
    if burst.val = 13 then
      let s1 := queueRereads u v.errors s0
      let s2 := onUnit u (fun v => { v with errors := [], listOverflow := false }) s1
      .next (if v.listOverflow then
        onChan c (fun h => { h with dronePairs := h.dronePairs ++ [40960 * n.val] }) s2 else s2)
    else .next s0
  else .next s

/-- OB_READ_RELAY (R140, R152): the oldest message of the relay queue, or zeros; the controller holds it for MAIL_WRITE. -/
def execObReadRelay (c : Fin 512) (n : Fin 16) (s : State) : Out :=
  if channelReady s c then
    let u := 16 * c.val + n.val
    match (unit s u).relay with
    | [] => .next (takeBeats c [.zero, .zero] s)
    | m :: t =>
      let d := messageBits m
      let s1 := takeBeats c [⟨d.extractLsb' 0 256, m.poison⟩, ⟨d.extractLsb' 256 256, m.poison⟩] s
      .next { onUnit u (fun v => { v with relay := t }) s1 with near.relayed := s.near.relayed ++ [(c.val / 64, m)] }
  else .next s

/-- PHRASE_COMMIT (R137, R145): the pending sectors commit in emission order, padded or cut to OUT_SECTORS. -/
def execPhraseCommit (u : Fin 8192) (s : State) : Out :=
  match (unit s u).run with
  | none => .next s
  | some r =>
    let n := r.pendingOut.length
    let pad : OutSector := { tag := 0, sector := .poisoned, reduction := r.reduction, plan := r.plan }
    let kept :=
      if n ≤ r.outSectors then r.pendingOut ++ List.replicate (r.outSectors - n) pad
      else (r.pendingOut.take (r.outSectors - 1)) ++
        ((r.pendingOut.take r.outSectors).drop (r.outSectors - 1)).map fun o => { o with sector := { o.sector with poison := true } }
    let s1 := onUnit u (fun v => { v with
      out := v.out ++ kept, run := none
      status.poisonSeen := v.status.poisonSeen || kept.any fun o => o.sector.poison }) s
    let s2 := if !r.ended then unitCode 0x8005 u s1 else s1
    .next (if n ≠ r.outSectors then unitCode 0x8004 u s2 else s2)

/-- PHRASE_HOLD_END (R82, R83): the hold of a pair ends and the debt of both its banks is repaid; what waited for it goes on. -/
def execPhraseHoldEnd (u : Fin 8192) (s : State) : Out :=
  let c := u.val / 16
  let b := 2 * (u.val % 16)
  if (tabFind? (chan s c).holds (u.val % 16)).isSome && (unit s u).run.isNone then
    .next (wakeDeferred (onChan c (fun h =>
      let h1 := { h with holds := tabDel h.holds (u.val % 16) }
      if h1.slicing then h1
      else
        let r0 := (bank h1 b)
        let r1 := (bank h1 (b + 1))
        let h2 := repay (b + 1) true false 4 (repay b true false 4 h1)
        onBank (b + 1) (fun k => { k with row0 := r1.row0, row1 := r1.row1 })
          (onBank b (fun k => { k with row0 := r0.row0, row1 := r0.row1 }) h2)) s))
  else .next s

/-! The exchange between units (R151-R154). -/

/-- R154: three uncorrectable words within 600,000 cycles (1,000 µs) mark a path faulted. -/
def recentBad (now : Nat) (l : List Nat) : List Nat := (l.filter fun t => decide (now < t + 1000)) ++ [now]

def badDieWord (d : Nat) (u : Nat) (s : State) : State :=
  let l := recentBad s.us (dieBus s d).badAt
  let was := (dieBus s d).faulted
  let s1 := onDie d (fun b => { b with
    badAt := l, uncorrectable := b.uncorrectable + 1, faulted := b.faulted || decide (3 ≤ l.length) }) s
  let s2 := unitCode 0x8011 u s1
  if !was && decide (3 ≤ l.length) then reportFree 0x8012 (subjDieBus (d / 16) (d % 16)) (subjDieBus (d / 16) (d % 16)) s2 else s2

def badChainWord (c link d u : Nat) (s : State) : State :=
  let l := recentBad s.us (tabGet [] (nearChan s c).chainBadAt link)
  let was := (nearChan s c).chainFaulted.contains link
  let s1 := onDie d (fun b => { b with uncorrectable := b.uncorrectable + 1 }) s
  let s2 := onNear c (fun k => { k with
    chainBadAt := tabPut k.chainBadAt link l
    chainFaulted := if 3 ≤ l.length then setInsert k.chainFaulted link else k.chainFaulted }) s1
  let s3 := unitCode 0x8017 u s2
  if !was && decide (3 ≤ l.length) then unitCode 0x8014 u s3 else s3

/-- R151: how long unit `u` of a die waits for its grant, after the one granted last. -/
def grantDistance (b : DieBus) (lu : Nat) : Nat := (lu % 64 + 63 - b.granted % 64) % 64

def sameDie (f g : Flight) : Bool := f.tile == g.tile && f.message.src / 64 == g.message.src / 64

/-- R151, R152: the `index`-th message is the next to land: on the die bus the one of the unit next in turn, and on every path the
first of its source. -/
def landsNext (s : State) (index : Nat) (f : Flight) : Bool :=
  let earlier := s.near.flights.take index
  !(earlier.any fun g => g.tile == f.tile && g.message.src == f.message.src && g.path == f.path) &&
    (f.path != .dieBus || s.near.flights.all fun g =>
      g.path != .dieBus || !sameDie f g ||
        let b := dieBus s (dieOf f.tile f.message.src)
        decide (grantDistance b f.message.src ≤ grantDistance b g.message.src))

/-- MESSAGE_ARRIVE (R151-R154): the `index`-th message on its way lands; words corrected, and for each uncorrectable word the chain
link it was on. -/
def execMessageArrive (index : Nat) (corrected : Nat) (badWords : List Nat) (s : State) : Out :=
  match s.near.flights[index]? with
  | none => .next s
  | some f =>
    if landsNext s index f then
      let u := 1024 * f.tile + f.message.dest
      let d := dieOf f.tile f.message.dest
      let s1 : State := { s with near.flights := s.near.flights.eraseIdx index }
      let s2 := onDie d (fun b => { b with
        corrected := b.corrected + BitVec.ofNat 32 corrected
        messages := b.messages + (if f.path = .dieBus then 1 else 0)
        granted := if f.path = .dieBus then f.message.src % 64 else b.granted }) s1
      let s3 := badWords.foldl (fun s k => if f.path = .dieBus then badDieWord d u s else badChainWord (u / 16) k d u s) s2
      let m := { f.message with poison := f.message.poison || !badWords.isEmpty }
      .next (landMail u m.slot (messageBits m) m.poison s3)
    else .next s

/-- R152: a message enters its source's relay queue, or is dropped with 0x8013 where that is full. -/
def relayMessage (u : Nat) (m : Message) (s : State) : State :=
  if (unit s u).relay.length < 8 then onUnit u (fun v => { v with relay := v.relay ++ [m] }) s else unitCode 0x8013 u s

/-- The path to a destination is fixed until the phrase ends (R152). -/
def fixPath (u dest : Nat) (p : Path) (s : State) : State :=
  onUnit u (fun v => { v with run := v.run.map fun r => { r with paths := tabPut r.paths dest p } }) s

/-- R152: the chain route between two units of one channel crosses a faulted link. -/
def chainCut (cut : List Nat) (src dest : Nat) : Bool :=
  cut.any fun n => decide (min (src % 16) (dest % 16) ≤ n) && decide (n < max (src % 16) (dest % 16))

/-- CHAIN_FALLBACK (R152): no grant within 64 cycles: a message of one channel takes the chain, or is relayed where its route
crosses a faulted link. -/
def execChainFallback (index : Nat) (s : State) : Out :=
  match s.near.flights[index]? with
  | some f =>
    let u := 1024 * f.tile + f.message.src
    if f.path = .dieBus ∧ f.message.dest / 16 = f.message.src / 16 then
      let cut := match (unit s u).run with
        | some r => r.cutLinks
        | none => (nearChan s (u / 16)).chainFaulted
      if chainCut cut f.message.src f.message.dest then
        .next (relayMessage u f.message (fixPath u f.message.dest .relay { s with near.flights := s.near.flights.eraseIdx index }))
      else .next (fixPath u f.message.dest .chain { s with near.flights := s.near.flights.set index { f with path := .chain } })
    else .next s
  | none => .next s

/-- DIE_BUS_GRANT_TIMEOUT (R154): a grant that does not complete within 256 cycles. -/
def execDieBusGrantTimeout (d : Fin 128) (s : State) : Out :=
  if (dieBus s d).faulted then .next s
  else .next (reportFree 0x8012 (subjDieBus (d.val / 16) (d.val % 16)) (subjDieBus (d.val / 16) (d.val % 16))
    (onDie d (fun b => { b with faulted := true }) s))

end Sys2Proof.Machine
end

