-- ==== Sys2Proof/Machine/Micro.lean ====
section
/-! DEFINITION. Near-bank micro-operations (R162-R174): one command a word; the word is fetched from the unit's store. -/
namespace Sys2Proof.Machine

/-! Registers (R162). -/

def xreg (s : State) (u r : Nat) : Nat :=
  let v := unit s u
  if r = 0 then 0
  else if r = 13 then unitLiveIndex s u
  else if r = 14 then s.spread.units
  else if r = 15 then (v.run.map (·.elapsed)).getD 0
  else (v.x.getD r 0).toNat

/-- A register written, with the mark of what its value came from (R119). -/
def setX (u r : Nat) (w : Nat) (marked : Bool) (s : State) : State :=
  if r = 0 ∨ 13 ≤ r then s
  else onUnit u (fun v => { v with
    x := v.x.set r (BitVec.ofNat 32 w)
    xMarks := if marked then setInsert v.xMarks r else setErase v.xMarks r }) s

/-- One of the registers holds a value that came from a poisoned sector (R119). -/
def regsMarked (v : Unit) (rs : List Nat) : Bool := rs.any v.xMarks.contains

def sawPoison (seen : Bool) (u : Nat) (s : State) : State :=
  if seen then onUnit u (fun v => { v with status.poisonSeen := true }) s else s

def onRun (u : Nat) (f : PhraseRun → PhraseRun) (s : State) : State :=
  onUnit u (fun v => { v with run := v.run.map f }) s

/-- R164: the next address after the word at `pc`, through the loops that end there. -/
def nextPc (pc : Nat) : List LoopFrame → Nat × List LoopFrame
  | [] => (pc + 1, [])
  | f :: t =>
    if f.last = pc then (if 1 < f.left then (f.first, { f with left := f.left - 1 } :: t) else nextPc pc t)
    else (pc + 1, f :: t)

def advancePc (cost : Nat) (r : PhraseRun) : PhraseRun :=
  let n := nextPc r.pc r.loops
  { r with pc := n.1, loops := n.2, elapsed := r.elapsed + cost }

/-- R165, R145: the word at the sequencer's address runs when its OP is `op`; an operation that does not fit the declared
count stops the phrase with 0x8005. A word of a poisoned sector of the store taints the phrase (R116, R119). -/
def runMicro (op : Nat) (u : Nat) (cost : Nat → Nat) (f : Nat → State → State) (s : State) : Out :=
  match (unit s u).run with
  | none => .next s
  | some r =>
    let w := microWord (unit s u) r.pc
    if r.ended || bits w 63 58 != op then .next s
    else if r.cycles < r.elapsed + cost w && op != 1 then
      .next (unitCode 0x8005 u (onRun u (fun r => { r with ended := true }) s))
    else
      let s1 := meetStore u 0 (8 * r.pc) 8 s
      let s2 := if storeMarked (unit s1 u) 0 (8 * r.pc) 8 then onRun u (fun r => { r with tainted := true }) s1 else s1
      .next (onRun u (advancePc (cost w)) (f w s2))

/-- The phrase of the unit ran a word from a poisoned sector. -/
def tainted (s : State) (u : Nat) : Bool := ((unit s u).run.map (·.tainted)).getD false

def Sector.mark (p : Bool) (x : Sector) : Sector := { x with poison := x.poison || p }

def OutSector.mark (p : Bool) (o : OutSector) : OutSector := { o with sector := Sector.mark p o.sector }

/-- Sectors queued by the phrase (R137), with the reduction and the plan of its phrase; `p` when something all of them came from was
poisoned. -/
def queueOut (u : Nat) (p : Bool) (os : List OutSector) (s : State) : State :=
  onRun u (fun r => { r with pendingOut := r.pendingOut ++ os.map fun o =>
    { OutSector.mark (p || r.tainted) o with reduction := r.reduction, plan := r.plan } }) s

def tagOf (kind index : Nat) : Word := BitVec.ofNat 32 (kind * 2 ^ 24 + index % 2 ^ 24)

def wideSector (qs : List Quad) (poison : Bool) : Sector :=
  { data := BitVec.ofNat 256 (leValue ((qs.map fun q => leBytes 8 q.toNat).flatten)), poison := poison }

/-- PHRASE (R165). -/
def execPhrase (u : Fin 8192) (s : State) : Out :=
  runMicro 1 u (fun _ => 0) (fun w => onRun u fun r => { r with
    cycles := bits w 57 47, outSectors := bits w 46 39, segMask := BitVec.ofNat 16 (bits w 38 23),
    writes := bit w 22, sends := bit w 21 }) s

/-- JUMP (R164). -/
def execJump (u : Fin 8192) (s : State) : Out :=
  match (unit s u).run with
  | none => .next s
  | some r =>
    let w := microWord (unit s u) r.pc
    if r.ended || bits w 63 58 != 2 then .next s else .next (onRun u (fun r => { r with pc := bits w 8 0 }) s)

/-- LOOP (R164): the body from the next word up to LAST, COUNT times. -/
def execMicroLoop (u : Fin 8192) (s : State) : Out :=
  match (unit s u).run with
  | none => .next s
  | some r =>
    let w := microWord (unit s u) r.pc
    if r.ended || bits w 63 58 != 3 then .next s
    else .next (onRun u (fun r => { r with
      pc := r.pc + 1, loops := { first := r.pc + 1, last := bits w 45 37, left := bits w 57 46 } :: r.loops }) s)

/-- END (R164). -/
def execMicroEnd (u : Fin 8192) (s : State) : Out :=
  runMicro 4 u (fun _ => 0) (fun _ => onRun u fun r => { r with ended := true }) s

/-- SETI (R165). -/
def execSeti (u : Fin 8192) (s : State) : Out :=
  runMicro 8 u (fun _ => 1) (fun w s => setX u (bits w 57 54) (bits w 31 0) (tainted s u) s) s

/-- The FN codes of R165; a division by zero gives 0 (R174, R206). -/
def aluFn (fn : Nat) (a b : Word) : Word :=
  match fn with
  | 0 => a + b
  | 1 => a - b
  | 2 => a * b
  | 3 => a &&& b
  | 4 => a ||| b
  | 5 => a ^^^ b
  | 6 => a <<< (b.toNat % 32)
  | 7 => a >>> (b.toNat % 32)
  | 8 => if a.toNat ≤ b.toNat then a else b
  | 9 => if a.toNat ≤ b.toNat then b else a
  | 10 => if b = 0 then 0 else a / b
  | 11 => if b = 0 then 0 else a % b
  | _ => 0

def divByZero (fn : Nat) (b : Word) : Bool := (fn == 10 || fn == 11) && b == 0

/-- ALU (R165): XD = X[XA] FN (X[XB] + IMM). -/
def execAlu (u : Fin 8192) (s : State) : Out :=
  runMicro 9 u (fun _ => 1) (fun w s =>
    let a : Word := BitVec.ofNat 32 (xreg s u (bits w 53 50))
    let b : Word := BitVec.ofNat 32 (xreg s u (bits w 49 46) + bits w 31 0)
    let m := regsMarked (unit s u) [bits w 53 50, bits w 49 46] || tainted s u
    let s1 := setX u (bits w 57 54) (aluFn (bits w 45 42) a b).toNat m s
    if divByZero (bits w 45 42) b then unitCode 0x8846 u s1 else s1) s

/-- Bytes `[a, a + n)` of the local buffer are in a poisoned sector. -/
def lbMarked (v : Unit) (a n : Nat) : Bool := (List.range n).any fun i => v.lbMarks.contains ((a + i) % 8192 / 32)

/-- R116, R119: a phrase reads bytes of the local buffer. -/
def readLb (u a n : Nat) (s : State) : State :=
  let s1 := meetStore u 5 (a % 8192) n s
  sawPoison (lbMarked (unit s1 u) a n) u s1

/-- LDL (R116, R165): `corrected` bytes of the unit's stores have been corrected since the last such command, and those of `wrong`
(65,536 × STORE + byte) have become uncorrectable. -/
def execLdl (u : Fin 8192) (corrected : Nat) (wrong : List Nat) (s : State) : Out :=
  runMicro 0xA u (fun _ => 1) (fun w s =>
    let a := 4 * ((xreg s u (bits w 53 50) + bits w 12 0) % 2048)
    let s1 := onUnit u (fun v => { v with bad := v.bad ++ wrong }) (sramCorrected (u.val / 1024) corrected s)
    let s2 := readLb u a 4 s1
    let v := unit s2 u
    setX u (bits w 57 54) (memWord v.lb a).toNat (lbMarked v a 4 || regsMarked v [bits w 53 50] || tainted s2 u) s2) s

/-! Reads and writes of the bank pair (R118, R148, R171). -/

/-- R118: an uncorrectable sector met by the unit is named. -/
def noteError (u e : Nat) (s : State) : State :=
  onUnit u (fun v =>
    match v.status.errAt with
    | none => { v with status.errAt := some e }
    | some _ =>
      if v.errors.length < 63 then { v with errors := v.errors ++ [e], status.more := true }
      else { v with listOverflow := true, status.more := true }) s

/-- One sector of the pair as the unit's decoder delivers it; `fs` are the bits its array read disturbed. -/
def unitRead (u bankBit row col : Nat) (fs : List BitFlip) (i : Nat) (s : State) : Sector × State :=
  let c := u / 16
  if (chan s c).failed then (.poisoned, sawPoison true u s)
  else
    let n := sectorOf c (2 * (u % 16) + bankBit) row col
    let d := flipBits fs i (storedData s n, storedChecks s n)
    let r := decodeSector d.1 d.2
    let s1 := disturb fs n i s
    let s2 := if r.corrected = 0 then s1 else
      onChan c (fun h => { h with outerCorrected := h.outerCorrected + BitVec.ofNat 64 r.corrected }) s1
    let s3 := if r.uncorrectable then noteError u (bankBit * 2 ^ 21 + row * 64 + col) s2 else s2
    (r.sector, sawPoison r.sector.poison u s3)

/-- The columns `col, col + 1, …` of one row. -/
def unitReads (u bankBit row : Nat) (fs : List BitFlip) : Nat → Nat → Nat → State → List Sector × State
  | 0, _, _, s => ([], s)
  | k + 1, col, i, s =>
    let (x, s1) := unitRead u bankBit row col fs i s
    let (xs, s2) := unitReads u bankBit row fs k (col + 1) (i + 1) s1
    (x :: xs, s2)

def rowOpen (s : State) (u bankBit row : Nat) : Bool :=
  let k := bank (chan s (u / 16)) (2 * (u % 16) + bankBit)
  if row % 2 = 0 then k.row0 == some row else k.row1 == some row

/-- Whether the path from an address meets a further carried operation (R171); the path is fixed (R164). -/
def carriedAhead (v : Unit) : Nat → Nat → List LoopFrame → Bool
  | 0, _, _ => false
  | f + 1, pc, loops =>
    let w := microWord v pc
    let op := bits w 63 58
    if op = 0x10 ∨ op = 0x15 then true
    else if op = 4 then false
    else if op = 2 then carriedAhead v f (bits w 8 0) loops
    else if op = 3 then carriedAhead v f (pc + 1) ({ first := pc + 1, last := bits w 45 37, left := bits w 57 46 } :: loops)
    else let n := nextPc pc loops
      carriedAhead v f n.1 n.2

/-- R171: the row that a carried operation on bank row `b` opens in the opposite half: the next one, or at the last carried
operation the entry row of the shadow. -/
def preopen (u b : Nat) (s : State) : State :=
  let v := unit s u
  match v.run with
  | none => s
  | some r =>
    let n := nextPc r.pc r.loops
    if carriedAhead v 2048 n.1 n.2 then (if b + 1 < 20480 then openPair u (b + 1) s else s)
    else
      let arg0 := v.shadow.getD 0 0
      if entryValid arg0 && entryRow arg0 % 2 != b % 2 && decide (entryRow arg0 < 20480) then openPair u (entryRow arg0) s else s

/-- R165: the row advance of a carried operation adds 1 to bits [14:0] of X1. -/
def advanceRow (u : Nat) (s : State) : State :=
  let x := xreg s u 1
  setX u 1 (x / 32768 * 32768 + (x % 32768 + 1) % 32768) (regsMarked (unit s u) [1]) s

/-! Matrix streaming (R135, R166, R167). -/

def actElem (v : Unit) (e : Nat) : Val := ofBf16 (memHalf v.act (2 * e))
def actMark (v : Unit) (e : Nat) : Bool := v.actMarks.contains (2 * e / 32)

/-- R165: reads per tile of a weight format. -/
def readsPerTile (wfmt : Nat) : Nat := if wfmt = 0 then 1 else if wfmt = 1 then 2 else 4

/-- Weight (row i, column j) of tile `t` of a granule, with its sector's poison. -/
def weightAt (v : Unit) (wfmt cb : Nat) (g : List Sector) (t i j : Nat) : Val × Bool :=
  let rd := readsPerTile wfmt
  let sect (byte : Nat) : Sector := g.getD (t * rd + byte / 32) .zero
  if wfmt = 0 then
    let b := 4 * i + j / 2
    let x := sect b
    let code := (x.data.extractLsb' (8 * (b % 32) + 4 * (j % 2)) 4).toNat
    (slotValue v.codebooks cb code, x.poison)
  else if wfmt = 1 then
    let b := 8 * i + j
    let x := sect b
    (slotValue v.codebooks cb (x.data.extractLsb' (8 * (b % 32)) 8).toNat, x.poison)
  else
    let b := 16 * i + 2 * j
    let x := sect b
    let h : Half := x.data.extractLsb' (8 * (b % 32)) 16
    (if wfmt = 2 then ofF16 h else ofBf16 h, x.poison)

/-- The dot product of row `i` of the granule's tiles with the input elements from `base` (R135, R35). -/
def rowDot (v : Unit) (wfmt cb : Nat) (g : List Sector) (base i : Nat) : Acc :=
  (List.range (64 / readsPerTile wfmt)).foldl (fun acc t =>
    (List.range 8).foldl (fun acc j =>
      let w := weightAt v wfmt cb g t i j
      acc.applyMarked (w.1.mul (actElem v (base + 8 * t + j))) (w.2 || actMark v (base + 8 * t + j))) acc) {}

/-- Four wide partials in a sector (R138). -/
def wideFour (qs : List (Quad × Bool)) : Sector := wideSector (qs.map (·.1)) (qs.any (·.2))

/-- R39: an accumulator delivered, multiplied exactly where the operation says so and then narrowed once. -/
def deliverWide (factor : Option Val) (a : Acc) : Quad × Bool :=
  (encodeWide (match factor with | some f => a.value.mul f | none => a.value), a.poison)

/-- The record of R166 at local-buffer byte 32 × REC. -/
def mvsField (v : Unit) (rec k : Nat) : Nat := (memWord v.lb (32 * rec + 4 * k)).toNat

/-- One granule of an MVS at unit row `r` (R167). -/
structure Granule where
  out : List OutSector
  codes : List Half
  accs : List Acc
  deriving DecidableEq, Repr

/-- The place of the granule of unit row `r` in the matrix: its number, or none outside the matrix. -/
def granuleNumber (s : State) (u rec r : Nat) : Option Nat :=
  let v := unit s u
  let L := s.spread.units
  let m := (xreg s u 13 + L - rotation r % max 1 L) % max 1 L
  let g := (r - mvsField v rec 0) * L + m
  if r < mvsField v rec 0 ∨ mvsField v rec 1 ≤ g then none else some g

/-- The input segments that `width` elements from `base` touch are all declared. -/
def segmentsDeclared (mask : Half) (base width : Nat) : Bool :=
  (List.range (2 * width / 2048 + 1)).all fun j => mask.getLsbD (2 * min (base + 1024 * j) (base + width - 1) / 2048)

/-- The granule in `g`; `dirty` when its rows were not open or something all of it depends on was poisoned. A position whose router
outputs were poisoned delivers poison (R189). -/
def mvsGranule (s : State) (u w r : Nat) (g : List Sector) (dirty : Bool) : Granule :=
  let v := unit s u
  let rec' := bits w 53 46
  let wfmt := bits w 45 44
  let t := bits w 43 41 + 1
  let k := 2 ^ v.log2k
  let tooMany := decide (k < t)
  let kCode := if tooMany then [0x8845#16] else []
  match granuleNumber s u rec' r with
  | none => ⟨List.replicate (2 * t) { tag := 0, sector := { data := 0, poison := tooMany || dirty } }, kCode, []⟩
  | some gn =>
    let groups := max 1 (mvsField v rec' 2)
    let width := 512 / readsPerTile wfmt
    let sect := gn / groups
    let slot := 16384 / k
    let base (p : Nat) : Nat := p * slot + sect * width % slot
    let mask := (v.run.map PhraseRun.segMask).getD 0
    let outWindow := !(decide (xreg s u 3 ≤ sect) && decide (sect < xreg s u 4))
    let outSeg := (List.range t).any fun p => !segmentsDeclared mask (base p) width
    let bad := outWindow || outSeg || tooMany || dirty || storeMarked v 1 (520 * bits w 37 34) 520 && decide (wfmt < 2)
    let late (p : Nat) : Bool := ((v.run.map (·.badPositions)).getD []).contains p || bit w 38 && regsMarked v [5 + p]
    let rows (p : Nat) : List Acc := (List.range 8).map fun i =>
      let a := rowDot v wfmt (bits w 37 34) g (base p) i
      { a with poison := a.poison || bad || late p }
    let factor (p : Nat) : Option Val := if bit w 38 then some (ofFp32 (BitVec.ofNat 32 (xreg s u (5 + p)))) else none
    let index (p q : Nat) : Nat := mvsField v rec' 4 + p * mvsField v rec' 3 + 8 * (gn % groups) + 4 * q
    let accs := (List.range t).map rows
    ⟨((List.range t).zip accs).flatMap fun x => [0, 1].map fun q =>
        { tag := tagOf 1 (index x.1 q), sector := wideFour (((x.2.drop (4 * q)).take 4).map (deliverWide (factor x.1))) },
      (if outWindow then [0x8844#16] else []) ++ (if outSeg then [0x8843#16] else []) ++ kCode, accs.flatten⟩

def storeAccs (u base : Nat) (as : List Acc) (s : State) : State :=
  onUnit u (fun v => { v with accs :=
    (((List.range as.length).zip as).foldl (fun t p => tabPut t ((base + p.1) % 64) p.2) v.accs) }) s

def raiseAll (codes : List Half) (u : Nat) (s : State) : State := codes.foldl (fun s c => unitCode c u s) s

/-- What an MVS reads of the unit's own stores (R116): its record, its codebook and the activation buffer. -/
def mvsStores (u w : Nat) (s : State) : State :=
  meetStore u 6 0 32768 (meetStore u 1 (520 * bits w 37 34) 520 (readLb u (32 * bits w 53 46) 32 s))

/-- Everything that an MVS does depends on its record and on X1, X3 and X4 (R119). -/
def mvsDirty (s : State) (u w : Nat) : Bool :=
  let v := unit s u
  regsMarked v [1, 3, 4] || lbMarked v (32 * bits w 53 46) 32

/-- One granule read and applied. -/
def mvsOne (u w b bankBit accBase : Nat) (fs : List BitFlip) (s : State) : State :=
  let isOpen := rowOpen s u bankBit b
  let (g, s1) := unitReads u bankBit b fs 64 0 (64 * bankBit) s
  let q := mvsGranule s1 u w (2 * b + bankBit) g (!isOpen || mvsDirty s u w)
  let s2 := raiseAll q.codes u (storeAccs u accBase q.accs (queueOut u false q.out s1))
  if isOpen then s2 else unitCode 0x8841 u s2

/-- R174: X1 names no bank row: no bank access, the granule's own sectors poisoned. -/
def mvsNoRow (u w b bankBit : Nat) (s : State) : State :=
  let q := mvsGranule s u w (2 * b + bankBit) [] true
  raiseAll q.codes u (queueOut u true q.out s)

def mvsCost (w : Nat) : Nat :=
  let rd := readsPerTile (bits w 45 44)
  let one := 64 / rd * max rd (bits w 43 41 + 1)
  if bit w 39 then max 128 one else 2 * one

/-- The banks that an MVS reads, in order, with the first accumulator of each. -/
def mvsBanks (w : Nat) : List (Nat × Nat) :=
  let t := bits w 43 41 + 1
  if bit w 39 then [(bitNat (bit w 33), 0)] else [(0, 0), (1, if t ≤ 4 then 8 * t else 0)]

/-- MVS (R165-R167, R174): `inner` corrections of the die come with the command (R114). -/
def execMvs (u : Fin 8192) (inner : Nat) (flips : List BitFlip) (s : State) : Out :=
  runMicro 0x10 u mvsCost (fun w s =>
    let b := xreg s u 1 % 32768
    let s0 := mvsStores u w s
    if 20480 ≤ b then
      advanceRow u (unitCode 0x8842 u ((mvsBanks w).foldl (fun s k => mvsNoRow u w b k.1 s) s0))
    else
      advanceRow u (preopen u b ((mvsBanks w).foldl (fun s k => mvsOne u w b k.1 k.2 flips s) (countInner (u.val / 16) inner s0)))) s

/-! Attention (R168, R270, R271). -/

/-- A self-opening operation's row register in range (R174). -/
def rowInRange (x : Nat) : Bool := decide (x % 65536 < 40960)

/-- One code or element of a page granule: its byte and whether it is the high nibble. -/
def pageValue (v : Unit) (cb : Nat) (g : List Sector) (byte : Nat) (nib : Option Bool) : Val :=
  let b : Byte := (g.getD (byte / 32) .zero).data.extractLsb' (8 * (byte % 32)) 8
  slotValue v.codebooks cb (match nib with
    | none => b.toNat
    | some hi => if hi then b.toNat / 16 else b.toNat % 16)

/-- R270: byte and nibble of key element d of position p. -/
def keyAt (four : Bool) (half p d : Nat) : Nat × Option Bool :=
  if four then (1024 * half + p * 64 + d / 2, some (d % 2 == 1)) else (p * 128 + d, none)

def valueAt (four : Bool) (half p d : Nat) : Nat × Option Bool :=
  if four then (p * 32 + 16 * half + d / 2, some (d % 2 == 1)) else (p * 32 + d, none)

def storeScale (v : Unit) (i : Nat) : Val := ofFp32 (memWord v.scales (4 * i))

def roundFp32Mode (rnd : Nat) (v : Val) : Word :=
  BitVec.ofNat 32 (roundTo .fp32 (if rnd = 1 then .towardZero else .nearest) v)

def sectorPoison (g : List Sector) (byte : Nat) : Bool := (g.getD (byte / 32) .zero).poison

/-- The score of head `i` and position `p`, with its poison (R168). -/
def scoreOf (v : Unit) (w x : Nat) (g : List Sector) (i p : Nat) : Word × Bool :=
  let cb := bits w 53 50
  let four := slotLog2 v.codebooks cb == 4
  let half := bits x 23 23
  if bits x 22 16 ≤ p then (0xFF800000, false)
  else
    let a := (List.range 128).foldl (fun acc d =>
      let k := keyAt four half p d
      let q := bits w 45 42 * 1024 + 128 * i + d
      acc.applyMarked (((pageValue v cb g k.1 k.2).mul (actElem v q)).mul (storeScale v (bits w 37 28 + d)))
        (sectorPoison g k.1 || actMark v q)) ({} : Acc)
    (roundFp32Mode (bits w 1 0) a.value, a.poison)

def wordSector (ws : List (Word × Bool)) : Sector :=
  { data := BitVec.ofNat 256 (leValue ((ws.map fun x => leBytes 4 x.1.toNat).flatten)), poison := ws.any (·.2) }

/-- A self-opening operation closes the bank's rows (R171). -/
def closeBank (u bankBit : Nat) (s : State) : State :=
  onChan (u / 16) (onBank (2 * (u % 16) + bankBit) fun k => { k with row0 := none, row1 := none }) s

/-- The sectors that a SCORE queues. -/
def scoreSectors (v : Unit) (w x : Nat) (g : List Sector) : List OutSector :=
  (List.range (bits w 49 46 + 1)).flatMap fun i => [0, 1].map fun q =>
    { tag := tagOf 5 (16 * i + 8 * q),
      sector := wordSector ((List.range 8).map fun p => scoreOf v w x g i (8 * q + p)) }

/-- What a SCORE or VALUE reads of the unit's own stores (R116). -/
def attnStores (u w n : Nat) (s : State) : State :=
  meetStore u 6 0 32768 (meetStore u 2 (4 * bits w 37 28) (4 * n) (meetStore u 1 (520 * bits w 53 50) 520 s))

/-- Its row register, codebook or scales came from poisoned sectors (R119). -/
def attnDirty (s : State) (u w n : Nat) : Bool :=
  let v := unit s u
  regsMarked v [bits w 57 54] || storeMarked v 1 (520 * bits w 53 50) 520 || storeMarked v 2 (4 * bits w 37 28) (4 * n)

/-- A self-opening read of a granule, and what it queues of it; without a bank access where the row register is out of range (R174). -/
def attnMicro (u w n inner : Nat) (flips : List BitFlip) (sectors : Unit → Nat → List Sector → List OutSector) (s : State) : State :=
  let x := xreg s u (bits w 57 54)
  let r := x % 65536
  let s0 := attnStores u w n s
  let dirty := attnDirty s0 u w n
  if rowInRange x then
    let (g, s1) := unitReads u (r % 2) (r / 2) flips 64 0 0 (countInner (u / 16) inner s0)
    closeBank u (r % 2) (queueOut u dirty (sectors (unit s1 u) x g) s1)
  else unitCode 0x8842 u (queueOut u true (sectors (unit s0 u) x []) s0)

/-- SCORE (R168). -/
def execScore (u : Fin 8192) (inner : Nat) (flips : List BitFlip) (s : State) : Out :=
  runMicro 0x11 u (fun w => max 128 (64 * (bits w 49 46 + 1)))
    (fun w => attnMicro u w 128 inner flips (fun v x g => scoreSectors v w x g)) s

/-- What VALUE forms for one head (R168): m, ℓ and the 32 outputs. -/
structure HeadPart where
  m : Word
  l : Acc
  o : List (Quad × Bool)
  poison : Bool
  deriving DecidableEq, Repr

def headPart (v : Unit) (w x : Nat) (g : List Sector) (i : Nat) : HeadPart :=
  let cb := bits w 53 50
  let four := slotLog2 v.codebooks cb == 4
  let at' (p : Nat) : Nat := bits w 45 42 * 2048 + 256 * i + 4 * p
  let score (p : Nat) : Val := ofFp32 (memWord v.act (at' p))
  let bad := (List.range 64).any fun p => v.actMarks.contains (at' p / 32)
  let m := (List.range 64).foldl (fun a p => a.max (score p)) (Val.inf true)
  let empty := m == .inf true
  let pr (p : Nat) : Val :=
    if empty then .zero else ofBf16 (toBf16 (mergeExp (roundFp32 ((score p).sub m))))
  let l := (List.range 64).foldl (fun a p => a.applyMarked (pr p) bad) ({} : Acc)
  let o := (List.range 32).map fun d =>
    let a := (List.range 64).foldl (fun acc p =>
      if bits x 22 16 ≤ p then acc.applyMarked ((pr p).mul .zero) bad
      else
        let k := valueAt four (bits x 23 23) p d
        acc.applyMarked ((pr p).mul (pageValue v cb g k.1 k.2)) (bad || sectorPoison g k.1)) ({} : Acc)
    deliverWide (some (storeScale v (bits w 37 28 + d))) a
  { m := toFp32 m, l := l, o := o, poison := bad }

def headerBits (h : HeadPart) : BitVec 128 := h.l.narrow ++ (0 : Word) ++ h.m

def outSectors (head : Nat) (h : HeadPart) : List OutSector :=
  (List.range 8).map fun k =>
    { tag := tagOf 2 (16 * head + 2 * k), sector := wideFour ((h.o.drop (4 * k)).take 4) }

/-- The sectors of one pair of heads (R289). -/
def pairSectors (head : Nat) (a b : HeadPart) : List OutSector :=
  { tag := tagOf 2 (2 ^ 23 + 16 * head),
    sector := { data := headerBits b ++ headerBits a, poison := a.poison || b.poison } } ::
      (outSectors head a ++ outSectors (head + 1) b)

/-- The sectors that a VALUE queues. -/
def valueSectors (v : Unit) (w x : Nat) (g : List Sector) : List OutSector :=
  (List.range ((bits w 49 46 + 1) / 2)).flatMap fun k =>
    pairSectors (bits w 41 38 + 2 * k) (headPart v w x g (2 * k)) (headPart v w x g (2 * k + 1))

/-- VALUE (R168, R289). -/
def execValue (u : Fin 8192) (inner : Nat) (flips : List BitFlip) (s : State) : Out :=
  runMicro 0x12 u (fun w => 64 * (bits w 49 46 + 1) + 16)
    (fun w => attnMicro u w 32 inner flips (fun v x g => valueSectors v w x g)) s

/-! In-bank operations (R169, R180). -/

def lbSector (v : Unit) (k : Nat) : Sector :=
  { data := sectorOfBytes (memReadN v.lb (32 * k) 32), poison := v.lbMarks.contains k }

/-- Sectors into the local buffer from sector `k`, modulo its 256 sectors. -/
def putLb (u : Nat) : Nat → List Sector → State → State
  | _, [], s => s
  | k, x :: xs, s =>
    putLb u (k + 1) xs (onUnit u (fun v =>
      let r := putSectors v.lb v.lbMarks (32 * (k % 256)) [x]
      { clearBad 5 (32 * (k % 256)) 32 v with lb := r.1, lbMarks := r.2 }) s)

def gatherTags (index : Nat) : Nat → List Sector → List OutSector
  | _, [] => []
  | j, x :: xs => { tag := tagOf 6 (index + j), sector := x } :: gatherTags index (j + 1) xs

/-- PICK (R169, R180). -/
def execPick (u : Fin 8192) (inner : Nat) (flips : List BitFlip) (s : State) : Out :=
  runMicro 0x13 u (fun _ => 128) (fun w s =>
    let x := xreg s u (bits w 57 54)
    let xc := xreg s u (bits w 53 50)
    let n := bits w 45 43 + 1
    let index := xreg s u (bits w 49 46) % 2 ^ 24
    let ok := rowInRange x && decide (xc ≤ 63)
    let r := x % 65536
    let dirty := regsMarked (unit s u) [bits w 57 54, bits w 53 50, bits w 49 46]
    let (xs, s1) :=
      if ok then
        let (ys, s') := unitReads u (r % 2) (r / 2) flips (min n (64 - xc)) xc 0 (countInner (u.val / 16) inner s)
        (ys ++ List.replicate (n - ys.length) Sector.poisoned, closeBank u (r % 2) s')
      else (List.replicate n Sector.poisoned, s)
    let s2 :=
      if bit w 42 then (if ok then putLb u (bits w 41 34) (xs.map (Sector.mark (dirty || tainted s1 u))) s1 else s1)
      else queueOut u dirty (gatherTags index 0 xs) s1
    if ok then s2 else unitCode 0x8842 u s2) s

/-- R169: two sectors added element by element and rounded. -/
def addSectors (fmt rnd : Nat) (a b : BitVec 256) : BitVec 256 :=
  let mode : Rounding := if rnd = 1 then .towardZero else .nearest
  if fmt = 0 then
    BitVec.ofNat 256 (leValue (((List.range 8).map fun i =>
      leBytes 4 (roundTo .fp32 mode ((ofFp32 (a.extractLsb' (32 * i) 32)).add (ofFp32 (b.extractLsb' (32 * i) 32))))).flatten))
  else
    BitVec.ofNat 256 (leValue (((List.range 16).map fun i =>
      leBytes 2 (roundTo .bf16 mode ((ofBf16 (a.extractLsb' (16 * i) 16)).add (ofBf16 (b.extractLsb' (16 * i) 16))))).flatten))

/-- ADDBACK (R169, R184). -/
def execAddback (u : Fin 8192) (inner : Nat) (flips : List BitFlip) (s : State) : Out :=
  runMicro 0x14 u (fun _ => 128) (fun w s =>
    let x := xreg s u (bits w 57 54)
    let xc := xreg s u (bits w 53 50)
    if rowInRange x && decide (xc ≤ 63) then
      let r := x % 65536
      let s0 := readLb u (32 * bits w 49 42) 32 s
      let (y, s1) := unitRead u (r % 2) (r / 2) xc flips 0 (countInner (u.val / 16) inner s0)
      let v := unit s1 u
      let l := lbSector v (bits w 49 42)
      let dirty := regsMarked v [bits w 57 54, bits w 53 50] || tainted s1 u
      let z : Sector := { data := addSectors (bits w 41 40) (bits w 1 0) y.data l.data, poison := y.poison || l.poison || dirty }
      closeBank u (r % 2) (writeSectorAt (sectorOf (u.val / 16) (2 * (u.val % 16) + r % 2) (r / 2) xc) z s1)
    else unitCode 0x8842 u s) s

def streamRow (u bankBit row : Nat) (src : Nat → Sector) : Nat → State → State
  | 0, s => s
  | k + 1, s => streamRow u bankBit row src k (writeSectorAt (sectorOf (u / 16) (2 * (u % 16) + bankBit) row k) (src k) s)

/-- WSTREAM (R169): both rows of the pair, zeros or the local buffer from LSEC onwards, bank 2n first. -/
def execWstream (u : Fin 8192) (s : State) : Out :=
  runMicro 0x15 u (fun _ => 128) (fun w s =>
    let b := xreg s u 1 % 32768
    if 20480 ≤ b then advanceRow u (unitCode 0x8842 u s)
    else
      let s0 := if bit w 53 then readLb u (32 * bits w 52 45) 4096 s else s
      let v := unit s0 u
      let dirty := regsMarked v [1] || tainted s0 u
      let src (k : Nat) : Sector := Sector.mark dirty (if bit w 53 then lbSector v ((bits w 52 45 + k) % 256) else .zero)
      let ok0 := rowOpen s0 u 0 b
      let ok1 := rowOpen s0 u 1 b
      let s1 := if ok0 then streamRow u 0 b src 64 s0 else s0
      let s2 := if ok1 then streamRow u 1 b (fun k => src (64 + k)) 64 s1 else s1
      let s3 := if ok0 && ok1 then s2 else unitCode 0x8841 u s2
      advanceRow u (preopen u b s3)) s

/-- R27, R170: the squares of the unit's share of slot `p`, as far as X[XW]. -/
def squareSum (v : Unit) (L i k p bound : Nat) : Acc :=
  let slot := 16384 / k
  (List.range (slot / max 1 L + 1)).foldl (fun acc t =>
    let e := i + t * L
    if e < slot ∧ e < bound then
      let a := actElem v (p * slot + e)
      acc.applyMarked (a.mul a) (actMark v (p * slot + e))
    else acc) {}

/-- SQSUM (R27, R170, R174). -/
def execSqsum (u : Fin 8192) (s : State) : Out :=
  runMicro 0x20 u (fun _ => 8) (fun w s =>
    let s0 := meetStore u 6 0 32768 s
    let v := unit s0 u
    let k := 2 ^ bits w 53 52
    let bad := bits w 53 52 != v.log2k
    let os := (List.range k).map fun p =>
      let a := squareSum v s0.spread.units (xreg s0 u 13) k p (xreg s0 u (bits w 57 54))
      ({ tag := tagOf 4 p, sector := wideSector [a.narrow] (a.poison || bad) } : OutSector)
    let s1 := queueOut u (regsMarked v [bits w 57 54]) os s0
    if bad then unitCode 0x8845 u s1 else s1) s

/-- R152: the path of a message: the one that the first message of the phrase to its destination fixed, or by the faults as they stood
when the phrase started (R154). -/
def choosePath (r : PhraseRun) (src dest : Nat) : Path :=
  match tabFind? r.paths dest with
  | some p => p
  | none =>
    if src / 16 = dest / 16 then
      (if !r.dieFaulted then .dieBus else if chainCut r.cutLinks src dest then .relay else .chain)
    else if src / 64 = dest / 64 then (if r.dieFaulted then .relay else .dieBus)
    else .relay

def launch (f : Flight) (s : State) : State := { s with near.flights := s.near.flights ++ [f] }

/-- SEND (R152, R170). -/
def execSend (u : Fin 8192) (s : State) : Out :=
  runMicro 0x21 u (fun w => bits w 43 41 + 1) (fun w s =>
    let dest := 16 * bits w 57 52 + bits w 51 48
    let k := bits w 40 33
    let len := bits w 43 41
    let s0 := readLb u (32 * k) (8 * len) s
    let v := unit s0 u
    let words := (List.range len).map fun i => memQuad v.lb ((32 * k + 8 * i) % 8192)
    let m := Message.mk dest (u.val % 1024) (bits w 47 44) (lbMarked v (32 * k) (8 * len) || tainted s0 u) words
    let p := (v.run.map fun r => choosePath r (u.val % 1024) dest).getD .relay
    let s1 := fixPath u dest p s0
    if p = Path.relay then relayMessage u m s1 else launch (Flight.mk (u.val / 1024) m p) s1) s

/-- RECV (R153, R170): the slot's 64 bytes move to LSEC; an empty slot gives poisoned zeros. -/
def execRecv (u : Fin 8192) (s : State) : Out :=
  runMicro 0x22 u (fun _ => 2) (fun w s =>
    let slot := bits w 57 54
    let s0 := meetStore u 8 (64 * slot) 64 s
    let m := tabGet {} (unit s0 u).mail slot
    let lsec := bits w 53 46
    let dirty := m.poison || tainted s0 u
    if m.valid then
      putLb u lsec [{ data := m.data.extractLsb' 0 256, poison := dirty }, { data := m.data.extractLsb' 256 256, poison := dirty }]
        (sawPoison m.poison u (onUnit u (fun v => { v with mail := tabPut v.mail slot { m with valid := false } }) s0))
    else unitCode 0x8016 u (putLb u lsec [.poisoned, .poisoned] (sawPoison true u s0))) s

end Sys2Proof.Machine
end

