-- ==== Sys2Proof/Machine/Operands.lean ====
section
/-! DEFINITION. Tensor descriptors: fields, strides, windows, footprint, element addresses, and the copy between two of
them (R233-R245). -/
namespace Sys2Proof.Machine

/-- A window of a descriptor (R239, R240). -/
structure Window where
  dim : Nat
  step : Nat
  dil : Nat
  pad : Nat
  deriving DecidableEq, Repr

/-- The fields of a descriptor (R233). -/
structure Desc where
  base : Nat
  scratch : Bool
  fmt : Nat
  rank : Nat
  inner : Bool
  swizzle : Nat
  view : Nat
  read : Bool
  write : Bool
  layout : Nat
  alloc : Nat
  cbId : Nat
  tableId : Nat
  win0 : Window
  win1 : Window
  sizes : List Nat
  strides : List Int
  reservedOk : Bool
  deriving DecidableEq, Repr

def descWord (d : BitVec 512) (k : Nat) : Nat := (d.extractLsb' (64 * k) 64).toNat

def signed32 (n : Nat) : Int := (BitVec.ofNat 32 n).toInt

/-- R233: the fields of the eight words. -/
def decodeDesc (d : BitVec 512) : Desc :=
  let w := descWord d
  let w0 := w 0
  { base := bits w0 63 24, scratch := bit w0 23, fmt := bits w0 22 20, rank := bits w0 19 17, inner := bit w0 16,
    swizzle := bits w0 15 13, view := bits w0 12 11, read := bit w0 9, write := bit w0 10, layout := bits w0 8 7,
    alloc := bits (w 1) 63 44, cbId := bits (w 1) 43 32, tableId := bits (w 1) 31 16,
    win0 := { dim := bits (w 2) 63 61, step := bits (w 2) 60 56, dil := bits (w 2) 55 51, pad := bits (w 4) 55 48 },
    win1 := { dim := bits (w 3) 63 61, step := bits (w 3) 60 56, dil := bits (w 3) 55 51, pad := bits (w 4) 63 56 },
    sizes := [bits (w 2) 23 0, bits (w 2) 47 24, bits (w 3) 23 0, bits (w 3) 47 24, bits (w 4) 23 0, bits (w 4) 47 24],
    strides := [signed32 (bits (w 5) 31 0), signed32 (bits (w 5) 63 32), signed32 (bits (w 6) 31 0),
      signed32 (bits (w 6) 63 32), signed32 (bits (w 7) 31 0), signed32 (bits (w 7) 63 32)],
    reservedOk := bits w0 6 0 == 0 && bits (w 1) 15 0 == 0 && bits (w 2) 50 48 == 0 && bits (w 3) 50 48 == 0 &&
      (!bit w0 23 || bits w0 63 56 == 0) }

/-- Element width in half-bytes (R235): FP32 8, 16-bit formats 4, 8-bit codes and BYTE 2, 4-bit codes 1. -/
def nibbles (fmt : Nat) : Nat :=
  if fmt = 0 then 8 else if fmt = 1 ∨ fmt = 2 then 4 else if fmt = 3 then 1 else 2

def isCoded (fmt : Nat) : Bool := fmt == 3 || fmt == 4

/-- Dimensions below RANK. -/
def Desc.dims (d : Desc) : List Nat := List.range d.rank
def Desc.size (d : Desc) (j : Nat) : Nat := d.sizes.getD j 0

/-- R234: PACKED strides: 1, then the product of the sizes below. -/
def packedStride (sizes : List Nat) (j : Nat) : Int := ((sizes.take j).foldl (· * ·) 1 : Nat)

/-- R234: the effective strides. -/
def Desc.stride (d : Desc) (j : Nat) : Int :=
  if d.layout = 1 then packedStride d.sizes j else d.strides.getD j 0

/-- The windows in use (R239: DIM 0 is none). -/
def Desc.windows (d : Desc) : List Window := [d.win0, d.win1].filter fun w => w.dim != 0

/-- R240: the underlying extent U of a window. -/
def Desc.extent (d : Desc) (w : Window) : Int :=
  ((d.size w.dim : Int) - 1) * w.step + ((d.size (w.dim - 1) : Int) - 1) * w.dil + 1 - 2 * w.pad

/-- The access width W in bytes (R236). -/
def Desc.accessWidth (d : Desc) : Nat := if d.scratch then 64 else 32

/-- The dimension of smallest key, the first on a tie. -/
def argMin (key : Nat → Nat) : List Nat → Option Nat
  | [] => none
  | j :: t => match argMin key t with
    | none => some j
    | some i => if key i < key j then some i else some j

/-- The innermost dimension I (R236): smallest nonzero |stride| among the dimensions of size above 1, window outputs
excluded. -/
def Desc.innermost (d : Desc) : Option Nat :=
  argMin (fun j => (d.stride j).natAbs) (d.dims.filter fun j =>
    decide (1 < d.size j) && decide (d.stride j ≠ 0) && !d.windows.any fun w => w.dim == j)

def Desc.runLength (d : Desc) : Nat := match d.innermost with | some i => d.size i | none => 1

/-- R236, INNER. -/
def Desc.innerOk (d : Desc) : Bool :=
  d.base % d.accessWidth == 0 && (match d.innermost with | some i => d.stride i == 1 | none => true)

/-- Dimensions other than the innermost. -/
def Desc.others (d : Desc) : List Nat := d.dims.filter fun j => some j != d.innermost

/-- R236, STRICT. -/
def Desc.strictOk (d : Desc) : Bool :=
  let w := nibbles d.fmt
  d.innerOk && d.runLength * w % (2 * d.accessWidth) == 0 &&
    d.others.all fun j => (d.stride j * w) % (2 * d.accessWidth) == 0

/-- R237: 4-bit layouts start and end runs on byte boundaries. -/
def Desc.nibbleOk (d : Desc) : Bool :=
  d.fmt != 3 || (d.others.all (fun j => d.stride j % 2 == 0) && (!d.write || d.runLength % 2 == 0))

def orderedFrom (d : Desc) : Nat → List Nat → Bool
  | _, [] => true
  | reach, j :: t => decide (reach < (d.stride j).natAbs) &&
      orderedFrom d (reach + (d.stride j).natAbs * (d.size j - 1)) t

def insertBy (key : Nat → Nat) (j : Nat) : List Nat → List Nat
  | [] => [j]
  | i :: t => if key j < key i then j :: i :: t else i :: insertBy key j t

def sortBy (key : Nat → Nat) (l : List Nat) : List Nat := l.foldl (fun acc j => insertBy key j acc) []

/-- R239: the ordered-stride test. -/
def Desc.orderedOk (d : Desc) : Bool :=
  orderedFrom d 0 (sortBy (fun j => (d.stride j).natAbs) (d.dims.filter fun j => decide (1 < d.size j)))

/-- R241: the lowest and highest element offsets. -/
def Desc.offsets (d : Desc) : Int × Int :=
  let contrib (n : Int) (acc : Int × Int) : Int × Int := (acc.1 + min 0 n, acc.2 + max 0 n)
  let plain := d.dims.filter fun j => !d.windows.any fun w => w.dim == j || w.dim - 1 == j
  let a := plain.foldl (fun acc j => contrib (((d.size j : Int) - 1) * d.stride j) acc) (0, 0)
  d.windows.foldl (fun acc w => contrib ((d.extent w - 1) * d.stride w.dim) acc) a

/-- R241: the footprint, from its first byte up to, not including, its end. -/
def Desc.footprint (d : Desc) : Int × Int :=
  let (lo, hi) := d.offsets
  let w : Int := nibbles d.fmt
  let a := d.base + lo * w / 2
  let b := if d.fmt = 3 then d.base + hi / 2 + 1 else d.base + hi * w / 2 + w / 2
  if d.swizzle = 0 then (a, b) else (a / 2048 * 2048, (b + 2047) / 2048 * 2048)

/-- R240, row 8 of R242: the windows are well formed. -/
def Desc.windowsOk (d : Desc) : Bool :=
  let ok (w : Window) : Bool :=
    decide (w.dim < d.rank) && d.stride (w.dim - 1) == 0 && w.step != 0 && w.dil != 0 && decide (1 ≤ d.extent w)
  d.windows.all ok && (d.windows.isEmpty || (!d.write && d.layout == 0)) &&
    (match d.windows with
    | [u, v] => u.dim != v.dim && u.dim != v.dim - 1 && u.dim - 1 != v.dim
    | _ => true)

/-- Row 4 of R242. -/
def Desc.shapeOk (d : Desc) : Bool :=
  d.rank != 0 && decide (d.rank ≤ 6) && d.dims.all (fun j => d.size j != 0) &&
    ((List.range 6).all fun j => decide (j < d.rank) || (d.size j == 0 && d.strides.getD j 0 == 0)) &&
    (d.layout != 1 || d.strides.all (· == 0))

/-- Row 3 of R242. -/
def Desc.encodingOk (d : Desc) : Bool :=
  d.reservedOk && decide (d.fmt < 6) && d.view != 3 && (d.read || d.write) && decide (d.layout < 2) &&
    decide (d.win0.dim < 6) && decide (d.win1.dim < 6)

/-! Elements and copies. -/

/-- Index tuples in index order, dimension 0 fastest (R235). -/
def indexTuples : List Nat → List (List Nat)
  | [] => [[]]
  | n :: t => ((indexTuples t).map fun rest => (List.range n).map fun i => i :: rest).flatten

/-- The element offset of an index tuple; none where a window's padding is (R235, R240). -/
def Desc.elementOffset (d : Desc) (ix : List Nat) : Option Int :=
  let us := d.windows.map fun w =>
    (w, (ix.getD w.dim 0 : Int) * w.step + (ix.getD (w.dim - 1) 0 : Int) * w.dil - w.pad)
  if us.any fun u => decide (u.2 < 0) || decide (d.extent u.1 ≤ u.2) then none
  else
    let plain := d.dims.filter fun j => !d.windows.any fun w => w.dim == j || w.dim - 1 == j
    let e := plain.foldl (fun (acc : Int) j => acc + (ix.getD j 0 : Int) * d.stride j) 0
    some (us.foldl (fun acc u => acc + u.2 * d.stride u.1.dim) e)

/-- The byte address of an element offset, swizzled in scratchpad (R222, R235); aliases are applied by the writer. -/
def Desc.byteAddress (d : Desc) (e : Int) : Nat :=
  let a := (d.base + e * nibbles d.fmt / 2).toNat
  if d.scratch then Machine.swizzle d.swizzle a else a

def Desc.tuples (d : Desc) : List (List Nat) := indexTuples (d.sizes.take d.rank)

/-- The byte addresses of an element at address `a`. -/
def elementBytes (fmt a : Nat) : List Nat := (List.range ((nibbles fmt + 1) / 2)).map (a + ·)

/-- The 32-byte sectors that a list of byte addresses touches, rising. -/
def sectorsOf (addrs : List Nat) : List Nat := addrs.foldl (fun acc a => setInsert acc (a / 32)) []

/-- Every sector of a descriptor's elements that lies in memory. -/
def Desc.sectors (d : Desc) : List Nat :=
  sectorsOf (((d.tuples.filterMap d.elementOffset).map fun e => elementBytes d.fmt (d.byteAddress e)).flatten)

/-- Sectors read once each, keyed by address divided by 32; `last` the sector read before (R88 counts bursts). -/
def fetchFrom (scratch : Bool) : Nat → List Nat → State → Tab Sector × State
  | _, [], s => ([], s)
  | last, k :: ks, s =>
    let (x, s1) :=
      if scratch then
        let (bs, p, s') := scratchRead (32 * k) 32 s
        (({ data := sectorOfBytes bs, poison := p } : Sector), s')
      else
        let (x, s') := readAddrIn (last + 1 != k) (32 * k) s
        (x.getD .zero, s')
    let (t, s2) := fetchFrom scratch k ks s1
    (tabPut t k x, s2)

def fetchSectors (scratch : Bool) (ks : List Nat) (s : State) : Tab Sector × State :=
  match ks with
  | [] => ([], s)
  | k :: _ => fetchFrom scratch (k + 1) ks s

def fetchedByte (t : Tab Sector) (a : Nat) : Byte := (tabGet .zero t (a / 32)).data.extractLsb' (8 * (a % 32)) 8

/-- An element as it moves: its bits, and the poison of the sectors that hold it. -/
structure Elem where
  value : Nat
  poison : Bool
  deriving DecidableEq, Repr

/-- One element of a source descriptor (R235, R240); `pad` is what a window supplies outside the data. -/
def readElem (d : Desc) (t : Tab Sector) (pad : Nat) (ix : List Nat) : Elem :=
  match d.elementOffset ix with
  | none => ⟨pad, false⟩
  | some e =>
    let a := d.byteAddress e
    let as := elementBytes d.fmt a
    let v := leValue (as.map (fetchedByte t))
    let v' := if d.fmt = 3 then (if e % 2 = 0 then v % 16 else v / 16) else v
    ⟨v', as.any fun b => (tabGet .zero t (b / 32)).poison⟩

/-- The bytes a copy will write: address, value, poison of the element. -/
structure ByteWrite where
  value : Byte
  poison : Bool
  deriving DecidableEq, Repr

/-- One element added to the bytes to write; two 4-bit codes share a byte (R52). -/
def putElem (d : Desc) (ix : List Nat) (x : Elem) (w : Tab ByteWrite) : Tab ByteWrite :=
  match d.elementOffset ix with
  | none => w
  | some e =>
    let a := d.byteAddress e
    if d.fmt = 3 then
      let old := tabGet ⟨0, false⟩ w a
      let v : Byte := if e % 2 = 0 then (old.value &&& 0xF0#8) ||| BitVec.ofNat 8 (x.value % 16)
        else (old.value &&& 0x0F#8) ||| BitVec.ofNat 8 (x.value % 16 * 16)
      tabPut w a ⟨v, old.poison || x.poison⟩
    else
      ((elementBytes d.fmt a).zip (leBytes (nibbles d.fmt / 2) x.value)).foldl
        (fun w p => tabPut w p.1 ⟨p.2, x.poison⟩) w

/-- The bytes of one 32-byte sector of the writes. -/
def sectorWrites (w : Tab ByteWrite) (k : Nat) : Tab ByteWrite := w.filter fun e => e.1 / 32 == k

/-- The sector that the writes make; a poisoned element poisons it (R244). -/
def writtenSector (w : Tab ByteWrite) (k : Nat) : Sector :=
  let mine := sectorWrites w k
  { data := sectorOfBytes ((List.range 32).map fun i => (tabGet ⟨0, false⟩ mine (32 * k + i)).value)
    poison := mine.any fun e => e.2.poison }

/-- Whole sectors written to stacked memory (R238); `last` the sector written before. -/
def flushFrom (w : Tab ByteWrite) : Nat → List Nat → State → State
  | _, [], s => s
  | last, k :: ks, s => flushFrom w k ks (writeAddrIn (last + 1 != k) (32 * k) (writtenSector w k) s)

def flushStacked (w : Tab ByteWrite) (ks : List Nat) (s : State) : State :=
  match ks with
  | [] => s
  | k :: _ => flushFrom w (k + 1) ks s

/-- Runs of consecutive addresses within one 64-byte line. -/
def runsOf : Tab ByteWrite → List (Nat × List ByteWrite)
  | [] => []
  | (a, b) :: t => match runsOf t with
    | (a', bs) :: rest => if a + 1 = a' ∧ a / 64 = a' / 64 then (a, b :: bs) :: rest else (a, [b]) :: (a', bs) :: rest
    | [] => [(a, [b])]

def aliasOf (n : Nat) : Alias := if n = 1 then .set else if n = 2 then .clear else .normal

/-- Bytes written to scratchpad through an alias, line by line; poisoned elements mark their sectors (R224). -/
def flushScratch (m : Alias) : List (Nat × List ByteWrite) → State → State
  | [], s => s
  | (a, bs) :: rest, s =>
    let s1 := scratchPut m false a (bs.map (·.value)) s
    let s2 := ((List.range bs.length).zip bs).foldl (fun s p => if p.2.poison then setMark (a + p.1) s else s) s1
    flushScratch m rest s2

/-- R243, R244: the elements of a source moved to the same index tuples of a destination; every source element is read
before any destination element is written. -/
def moveElements (dst : Desc) (ixs : List (List Nat)) (xs : List Elem) (s : State) : State :=
  let w := (ixs.zip xs).foldl (fun w p => putElem dst p.1 p.2 w) []
  if dst.scratch then flushScratch (aliasOf dst.view) (runsOf w) s
  else flushStacked w (sectorsOf (w.map (·.1))) s

/-- The contiguous ranges of scratchpad that the elements at some tuples of a descriptor take. -/
def elementRanges (d : Desc) (ixs : List (List Nat)) : List (Nat × Nat) :=
  sectorRanges (sectorsOf ((ixs.filterMap d.elementOffset).flatMap fun e => elementBytes d.fmt (d.byteAddress e)))

/-- All elements of a descriptor, in index order. -/
def readElements (src : Desc) (pad : Nat) (s : State) : List Elem × State :=
  let (t, s1) := fetchSectors src.scratch src.sectors s
  (src.tuples.map (readElem src t pad), s1)

/-- R243, R244: one copy. -/
def copyElements (src dst : Desc) (pad : Nat) (s : State) : State :=
  let (xs, s1) := readElements src pad s
  moveElements dst src.tuples xs s1

/-- R374: the packed size of a descriptor's elements in bytes, 4-bit codes two to a byte. -/
def Desc.packedBytes (d : Desc) : Nat :=
  (((d.sizes.take d.rank).foldl (· * ·) 1) * nibbles d.fmt + 1) / 2

/-- R243 row 5: footprints of the same space and tile intersect. -/
def footprintsMeet (a b : Desc) : Bool :=
  a.scratch == b.scratch && (!a.scratch || tileOf a.base == tileOf b.base) &&
    decide (a.footprint.1 < b.footprint.2) && decide (b.footprint.1 < a.footprint.2)

/-- R243 row 5: a shift. -/
def isShift (a b : Desc) : Bool :=
  a.dims.all (fun j => a.stride j == b.stride j) && a.swizzle == b.swizzle && a.view == 0 && b.view == 0 &&
    a.windows.isEmpty && b.windows.isEmpty

/-- R243: the first failing row for a pair whose descriptors are in use. -/
def copyCheck (a b : Desc) : Option Half :=
  if !a.read || !b.write then some 0x2043
  else if a.rank ≠ b.rank ∨ a.sizes ≠ b.sizes then some 0x2040
  else if a.fmt ≠ b.fmt ∨ a.cbId ≠ b.cbId ∨ a.tableId ≠ b.tableId then some 0x2041
  else if footprintsMeet a b && !isShift a b then some 0x2042
  else none

end Sys2Proof.Machine
end

