-- ==== Sys2Proof/Machine/Collectors.lean ====
section
/-! DEFINITION. Collectors: sectors by kind, gathers, probes, merges, embedding lookup, expert selection, narrowing
(R155-R158, R177-R192, R287-R289). Collector 4t + k is collector k of tile t. -/
namespace Sys2Proof.Machine

/-- R156, R157: every accumulator of the collector's current reduction is poisoned. -/
def poisonReduction (kk : Nat) (s : State) : State :=
  onCollector kk (fun q => { q with
    allPoisoned := true
    accs := q.accs.map fun e => (e.1, { e.2 with poison := true })
    maxes := q.maxes.map fun e => (e.1, { e.2 with poison := true }) }) s

def collectorCode (code : Half) (kk : Nat) (s : State) : State :=
  reportFree code (subjCollector (kk / 4) (kk % 4)) (subjCollector (kk / 4) (kk % 4)) s

/-- The sector is discarded, the reduction poisoned, the code recorded. -/
def rejectSector (code : Half) (kk : Nat) (s : State) : State := collectorCode code kk (poisonReduction kk s)

/-- R183: order of two values in which +0 is above -0; a zero carries no sign here, so equal zeros stay. -/
def maxSlot (a : MaxSlot) (v : Val) (poison : Bool) : MaxSlot := { value := a.value.max v, poison := a.poison || poison }

def emptyMax : MaxSlot := { value := .inf true }

/-- One input applied to element `e` of the current reduction (R35, R183). -/
def applyElem (e : Nat) (v : Val) (poison : Bool) (q : Collector) : Collector :=
  let p := poison || q.allPoisoned
  if q.current.isMax then { q with maxes := tabPut q.maxes e (maxSlot (tabGet emptyMax q.maxes e) v p) }
  else { q with accs := tabPut q.accs e ((tabGet ({} : Acc) q.accs e).applyMarked v p) }

/-- KIND 0x01 and 0x04: `n` wide partials from element INDEX. -/
def applyPartials (kk index n : Nat) (x : Sector) (s : State) : State :=
  if (collector s kk).current.width < index + n then rejectSector 0x8051 kk s
  else onCollector kk (fun q =>
    (List.range n).foldl (fun q i => applyElem (index + i) (decodeWide (sectorQuad x i)) x.poison q) q) s

/-- KIND 0x03: two statistics entries; entries of a poisoned sector are not observed (R65, R119). -/
def combineStats (kk index : Nat) (x : Sector) (s : State) : State :=
  if x.poison then s
  else onCollector kk (fun q => { q with
    stats := [0, 1].foldl (fun t i =>
      tabPut t (index + i) ((tabGet ({} : Stats) t (index + i)).combine (Stats.ofBits (x.data.extractLsb' (128 * i) 128)))) q.stats }) s

/-! Score blocks (R287, R288). -/

def routeOf (s : State) (tile g : Nat) : Option (BitVec 128) := tabFind? (owner s tile).routing g
def routeHome (r : BitVec 128) : Nat := 4 * (r.extractLsb' 21 3).toNat + (r.extractLsb' 19 2).toNat

/-- KIND 0x05: the part goes to its group's home; an unknown group or a part already there is 0x4C21. -/
def scorePart (kk index : Nat) (p : TagPlan) (x : Sector) (s : State) : State :=
  match routeOf s (kk / 4) p.a with
  | none => rejectSector 0x4C21 kk s
  | some r =>
    let home := routeHome r
    let key := 16 * p.a + bits index 7 4
    let part := 2 * p.b + bits index 3 3
    let b := tabGet [] (collector s home).bursts key
    if (tabFind? b part).isSome then rejectSector 0x4C21 home s
    else onCollector home (fun q => { q with bursts := tabPut q.bursts key (tabPut b part x) }) s

/-! Attention packets (R289). -/

/-- R20: the slice size of a vector of `n` elements. -/
def sliceSize (n : Nat) : Nat := 64 * ceilDiv n 512

/-- R20: the tiles that own an element of global query heads `h` and `h + 1`. -/
def headTiles (s : State) (h : Nat) : List Nat :=
  match cacheDecl s with
  | none => []
  | some d =>
    let sz := max 1 (sliceSize (d.heads * d.qheads * 128))
    (List.range 8).filter fun t =>
      decide (128 * h < (t + 1) * sz) && decide (t * sz < 128 * (h + 2))

/-- R289: the INDEX that the next sector of a packet carries. -/
def expectedIndex (header : Nat) (n : Nat) : Nat := 16 * (bits header 7 4 + n / 8) + 2 * (n % 8)

/-- KIND 0x02: the sector joins the packet in its order, or 0x4C20. -/
def partialPart (kk : Nat) (p : TagPlan) (o : OutSector) (s : State) : State :=
  let index := o.tag.toNat % 2 ^ 24
  match (collector s kk).packet with
  | [] =>
    if bit index 23 then onCollector kk (fun q => { q with packet := [o] }) s else rejectSector 0x4C20 kk s
  | h :: t =>
    let header := h.tag.toNat % 2 ^ 24
    if index ≠ expectedIndex header t.length then
      rejectSector 0x4C20 kk (onCollector kk (fun q => { q with packet := [] }) s)
    else if t.length = 15 then
      let head := p.a + bits header 7 4
      let s1 := onCollector kk (fun q => { q with packet := [] }) s
      { s1 with near.packets := s1.near.packets ++
        [{ sectors := (h :: t) ++ [o], head := head, group := p.b, tiles := headTiles s head }] }
    else onCollector kk (fun q => { q with packet := q.packet ++ [o] }) s

/-! Destination entries (R178-R187). -/

def destEntry (s : State) (tile e : Nat) : List Quad := tabGet [0, 0, 0, 0] (owner s tile).dest e
def destWord (ws : List Quad) (k : Nat) : Nat := (ws.getD k 0).toNat

/-- R9, R178: the reserved bits of words 0, 1 and 3 ignore writes. -/
def destStored (k : Nat) (q : Quad) : Quad :=
  q &&& [0xFFEFFFFFC0000000#64, 0x800000FFFFFFFFE0#64, 0xFFFFFFFFFFFFFFFF#64, 0xFFF000FFFFFFFFF8#64].getD k 0

def destWords (ws : List Quad) : List Quad := ((List.range 4).zip ws).map fun p => destStored p.1 p.2

/-- Word `k` as it reads: in word 2, bits [31:24] are reserved unless the word is a KEY, and a MAX entry has no SCALE. -/
def destRead (ws : List Quad) (k : Nat) : Quad :=
  let q := ws.getD k 0
  let mode := bits (destWord ws 0) 63 60
  if k ≠ 2 ∨ mode = 5 then q else if mode = 3 then q &&& 0xFFFFFF else q &&& 0xFFFFFFFF00FFFFFF

def destMode (ws : List Quad) : Nat := bits (destWord ws 0) 63 60
def destFmt (ws : List Quad) : Nat := bits (destWord ws 0) 59 58
def destHome (ws : List Quad) : Nat := 4 * bits (destWord ws 0) 57 55 + bits (destWord ws 0) 54 53
def destSectors (ws : List Quad) : Nat := bits (destWord ws 0) 51 46
def destLink (ws : List Quad) : Nat := bits (destWord ws 3) 63 52

/-- R218: a scratchpad field that names a location of a stated tile; none where the bits above the offset are set. -/
def homeScratch (tile a : Nat) : Option Nat := if a < 0x20000000 then some (tile * 0x20000000 + a) else none

/-- R230: a miss of a collector, recorded with the tile as subject. -/
def missCode (kk : Nat) (s : State) : State := reportFree 0x9C02 (subjTile (kk / 4)) (subjCollector (kk / 4) (kk % 4)) s

/-- R181, R227: one sector written to SPACE 0 or 1; at or above C it is discarded and counted, a miss is 0x9C02. -/
def writeTarget (kk : Nat) (ws : List Quad) (a : Nat) (x : Sector) (s : State) : State :=
  if bit (destWord ws 1) 63 then
    match homeScratch (destHome ws / 4) a with
    | some b =>
      let r := scratchStore none x.poison b (sectorBytes x.data) s
      if r.2 then missCode kk r.1 else r.1
    | none => missCode kk s
  else if capacity s ≤ a then onOwner (kk / 4) (fun o => { o with discarded := o.discarded + 1 }) s
  else writeAddr a x s

def writeCopies (kk : Nat) (ws : List Quad) (x : Sector) : Nat → Nat → State → State
  | 0, _, s => s
  | n + 1, a, s => writeCopies kk ws x n (a + 2048) (writeTarget kk ws a x s)

def targetAddress (ws : List Quad) : Nat := destWord ws 1 % 2 ^ 40 / 32 * 32

/-- The elements of a gathered sector in its format. -/
def sectorElems (fmt : Nat) (x : Sector) : List Val :=
  if fmt = 0 then (List.range 8).map fun i => ofFp32 (sectorWord x i)
  else (List.range 16).map fun i => if fmt = 1 then ofBf16 (sectorHalf x i) else ofF16 (sectorHalf x i)

def applyElems (base : Nat) (vs : List Val) (poison : Bool) (q : Collector) : Collector :=
  ((List.range vs.length).zip vs).foldl (fun q p => applyElem (base + p.1) p.2 poison q) q

/-- R182, R183: SUM and MAX. -/
def gatherReduce (kk : Nat) (ws : List Quad) (j : Nat) (x : Sector) (s : State) : State :=
  let vs := sectorElems (destFmt ws) x
  let base := bits (destWord ws 2) 23 0 + vs.length * j
  let scale := ofFp32 (BitVec.ofNat 32 (bits (destWord ws 2) 63 32))
  let vs' := if destMode ws = 2 then vs.map fun v => v.mul scale else vs
  if destFmt ws = 3 ∨ (collector s kk).current.width < base + vs.length then rejectSector 0x8051 kk s
  else onCollector kk (applyElems base vs' x.poison) s

/-- R187: DECODE: eight codes of row ROW of weight tile `j`. -/
def gatherDecode (kk : Nat) (ws : List Quad) (j : Nat) (x : Sector) (s : State) : State :=
  let o := owner s (kk / 4)
  let row := bits (destWord ws 0) 45 43
  let slot := bits (destWord ws 0) 42 39
  let scale := ofFp32 (BitVec.ofNat 32 (bits (destWord ws 2) 63 32))
  let vs := (List.range 8).map fun c => (slotValue o.codebooks slot (x.data.extractLsb' (32 * row + 4 * c) 4).toNat).mul scale
  onOwner (kk / 4) (fun o => { o with decoded := o.decoded + 1 })
    (onCollector kk (applyElems (bits (destWord ws 2) 23 0 + 8 * j) vs x.poison) s)

/-- R185, R186: the sector goes to the home collector, which places it by j. -/
def forwardSector (kk e j : Nat) (ws : List Quad) (x : Sector) (s : State) : State :=
  let s1 := onOwner (kk / 4) (fun o => { o with forwarded := o.forwarded + 1 }) s
  onCollector (destHome ws) (fun q => { q with blocks := tabPut q.blocks e (tabPut (tabGet [] q.blocks e) j x) }) s1

/-- R186: LINK values that name each other. -/
def linksAgree (s : State) (tile e : Nat) (ws : List Quad) : Bool :=
  let p := destEntry s tile (destLink ws)
  destLink p == e && ((destMode ws == 6 && destMode p == 7) || (destMode ws == 7 && destMode p == 6))

/-- KIND 0x06 (R179). -/
def gatherSector (kk index : Nat) (x : Sector) (s : State) : State :=
  let e := index / 64
  let j := index % 64
  let s1 := onOwner (kk / 4) (fun o => { o with gathered := o.gathered + 1 }) s
  let ws := destEntry s (kk / 4) e
  let mode := destMode ws
  if 4096 ≤ e ∨ 8 ≤ mode ∨ destSectors ws < j ∧ mode ≠ 0 then rejectSector 0x8051 kk s1
  else match mode with
  | 0 => onOwner (kk / 4) (fun o => { o with discarded := o.discarded + 1 }) s1
  | 1 => writeCopies kk ws x (bits (destWord ws 0) 38 30 + 1) (targetAddress ws + 32 * j) s1
  | 2 => gatherReduce kk ws j x s1
  | 3 => gatherReduce kk ws j x s1
  | 4 => gatherDecode kk ws j x s1
  | 5 => forwardSector kk e j ws x s1
  | _ => if linksAgree s (kk / 4) e ws then forwardSector kk e j ws x s1 else rejectSector 0x8051 kk s1

/-- R175: a WRITE entry's target, or one of its copies, has to wait. -/
def gatherWaits (s : State) (kk : Nat) (o : OutSector) : Bool :=
  let index := o.tag.toNat % 2 ^ 24
  let ws := destEntry s (kk / 4) (index / 64)
  o.tag.toNat / 2 ^ 24 == 6 && destMode ws == 1 && !bit (destWord ws 1) 63 &&
    (List.range (bits (destWord ws 0) 38 30 + 1)).any fun k => addressWaits s (targetAddress ws + 32 * (index % 64) + 2048 * k)

/-- The next sector that the collector applies: the oldest one of its current reduction (R192). -/
def ofCurrent (q : Collector) (o : OutSector) : Bool := q.reductions.isEmpty || o.reduction == q.current.number

/-- R156: the action on a sector, by its tag. -/
def applySector (kk : Nat) (o : OutSector) (s : State) : State :=
  let index := o.tag.toNat % 2 ^ 24
  match o.tag.toNat / 2 ^ 24 with
  | 0 => s
  | 1 => applyPartials kk index 4 o.sector s
  | 2 => partialPart kk o.plan o s
  | 3 => combineStats kk index o.sector s
  | 4 => applyPartials kk index 1 o.sector s
  | 5 => scorePart kk index o.plan o.sector s
  | 6 => gatherSector kk index o.sector s
  | _ => rejectSector 0x8052 kk s

/-- R158: the next sector leaves the queue and is no longer owed. -/
def takeSector (kk : Nat) (o : OutSector) (s : State) : State :=
  onCollector kk (fun q => writeOffSectors o.reduction 1 [] { q with inbox := removeFirst (ofCurrent q) q.inbox }) s

/-- COLLECTOR_SECTOR (R156-R158): the next sector that has reached the collector; after a poisoned tag beat it cannot be placed. -/
def execCollectorSector (kk : Fin 32) (tagPoisoned : Bool) (s : State) : Out :=
  let q := collector s kk
  match q.inbox.find? (ofCurrent q) with
  | none => .next s
  | some o =>
    if gatherWaits s kk o && !tagPoisoned then .next (deferCommand (.collectorSector kk tagPoisoned) s)
    else .next (if tagPoisoned then rejectSector 0x8050 kk (takeSector kk o s) else applySector kk o (takeSector kk o s))

/-! Probes and intersections (R185, R186). -/

def sectorsOfBlock (b : Tab Sector) : List Sector := b.map (·.2)

/-- The first slot of a block that holds a key: 4 × j + slot. -/
def findKey (key : Quad) : Tab Sector → Option Nat
  | [] => none
  | (j, x) :: t => match (List.range 4).find? fun i => sectorQuad x i == key with
    | some i => some (4 * j + i)
    | none => findKey key t

def probeResult (key : Quad) (b : Tab Sector) : Quad :=
  let out : Nat × Nat :=
    if b.any fun e => e.2.poison then (3, 0)
    else match findKey key b with
      | some k => (1, k)
      | none => if (findKey 0 b).isSome then (0, 0) else (2, 0)
  BitVec.ofNat 64 (2 ^ 63 + out.1 * 2 ^ 61 + out.2)

/-- R185, R227: the 8-byte result word in HOME_TILE's scratchpad. -/
def writeResult (kk : Nat) (ws : List Quad) (q : Quad) (s : State) : State :=
  match homeScratch (kk / 4) (destWord ws 3 % 2 ^ 40 / 8 * 8) with
  | some a =>
    let r := scratchStore none false a (leBytes 8 q.toNat) s
    if r.2 then missCode kk r.1 else r.1
  | none => missCode kk s

/-- PROBE_COMPLETE (R185): the home has every sector of the entry. -/
def execProbeComplete (kk : Fin 32) (e : Fin 4096) (s : State) : Out :=
  let ws := destEntry s (kk.val / 4) e
  let b := tabGet [] (collector s kk).blocks e
  if destMode ws = 5 ∧ b.length = destSectors ws + 1 then
    let q := probeResult (BitVec.ofNat 64 (destWord ws 2)) b
    let s1 := onCollector kk (fun c => { c with blocks := tabDel c.blocks e }) s
    let s2 := onOwner (kk.val / 4) (fun o => { o with
      probes := o.probes + 1
      probeHits := o.probeHits + (if bits q.toNat 62 61 = 1 then 1 else 0) }) s1
    .next (writeResult kk ws q s2)
  else .next s

def blockKeys (b : Tab Sector) : List Quad :=
  ((sectorsOfBlock b).map fun x => (List.range 4).map (sectorQuad x)).flatten.filter (· != BitVec.allOnes 64)

/-- Keys four to a sector, the last sector padded with ones. -/
def keySectors (l : List Quad) : List Sector :=
  (List.range (ceilDiv l.length 4)).map fun i =>
    wideSector ((List.range 4).map fun j => l.getD (4 * i + j) (BitVec.allOnes 64)) false

def writeKeys (kk : Nat) (ws : List Quad) : Nat → List Sector → State → State
  | _, [], s => s
  | a, x :: xs, s => writeKeys kk ws (a + 32) xs (writeTarget kk ws a x s)

/-- MERGE_COMPLETE (R186): both blocks are complete at the home of the MERGE_A entry. -/
def execMergeComplete (kk : Fin 32) (e : Fin 4096) (s : State) : Out :=
  let ws := destEntry s (kk.val / 4) e
  let wb := destEntry s (kk.val / 4) (destLink ws)
  let a := tabGet [] (collector s kk).blocks e
  let b := tabGet [] (collector s kk).blocks (destLink ws)
  let n := 32 * (destSectors ws + 1)
  if destMode ws = 6 ∧ !bit (destWord ws 1) 63 ∧ rangeWaits s (targetAddress ws) n then
    .next (deferCommand (.mergeComplete kk e) s)
  else if destMode ws = 6 ∧ linksAgree s (kk.val / 4) e ws = true ∧ a.length = destSectors ws + 1 ∧ b.length = destSectors wb + 1 then
    let bad := a.any (fun x => x.2.poison) || b.any fun x => x.2.poison
    let keys := if bad then [] else (blockKeys a).filter fun k => (blockKeys b).contains k
    let s1 := onCollector kk (fun c => { c with blocks := tabDel (tabDel c.blocks e) (destLink ws) }) s
    let s2 := onOwner (kk.val / 4) (fun o => { o with merges := o.merges + 1 }) s1
    let s3 := if bad then s2 else writeKeys kk ws (targetAddress ws) (keySectors keys) s2
    .next (writeResult kk ws (BitVec.ofNat 64 (2 ^ 63 + (if bad then 3 else 0) * 2 ^ 61 + keys.length)) s3)
  else .next s

/-! Narrowing (R39, R158). -/

/-- The elements that a narrowing sends: those with an input; in MAX mode, or where all are poisoned, the whole width (R183). -/
def narrowElems (q : Collector) : List Nat :=
  if q.allPoisoned || q.current.isMax then List.range q.current.width else q.accs.map (·.1)

/-- R36, R39, R183: the wide partials that an element delivers, and their poison. -/
def narrowOf (q : Collector) (e : Nat) : List Val × Bool :=
  if q.current.isMax then
    let m := tabGet emptyMax q.maxes e
    ([decodeWide (encodeWide m.value)], m.poison || q.allPoisoned)
  else
    let a := tabGet ({} : Acc) q.accs e
    (a.deliver.map decodeWide, a.poison || q.allPoisoned)

/-- R158, R183: an input to a tile partial; in MAX mode the larger of two values is kept. -/
def mergePartial (isMax : Bool) (p : Option Partial) (v : Val) (poison : Bool) : Partial :=
  match isMax, p with
  | true, some b => ⟨{ ({} : Acc).apply (b.acc.value.max v) with poison := b.acc.poison || poison }, true⟩
  | true, none => ⟨{ ({} : Acc).apply v with poison := poison }, true⟩
  | false, b => ⟨((b.map Partial.acc).getD {}).applyMarked v poison, false⟩

def sendPartial (tile e : Nat) (isMax : Bool) (v : Val) (poison : Bool) (s : State) : State :=
  onCollector (4 * tile + e / 64 % 4) (fun c => { c with
    partials := tabPut c.partials e (mergePartial isMax (tabFind? c.partials e) v poison) }) s

/-- R104, R150, R400: the elements supplied as poisoned zeros. -/
def supplyElems (q : Collector) : Collector := q.current.poisoned.foldl (fun q e => applyElem e .zero true q) q

/-- R158: every accumulator narrowed and sent to collector (e div 64) mod 4 of the tile. -/
def narrowAll (kk : Nat) (q : Collector) (s : State) : State :=
  (narrowElems q).foldl (fun s e =>
    let n := narrowOf q e
    n.1.foldl (fun s v => sendPartial (kk / 4) e q.current.isMax v n.2 s) s) s

/-- Every declared sector of the current reduction has been read and applied (R158). -/
def reductionComplete (q : Collector) : Bool :=
  !q.reductions.isEmpty && q.current.owed == 0 && !q.inbox.any fun o => o.reduction == q.current.number

/-- COLLECTOR_NARROW (R158): once complete, the current reduction is narrowed, and the next one becomes the current (R192). -/
def execCollectorNarrow (kk : Fin 32) (s : State) : Out :=
  let q := collector s kk
  if reductionComplete q then
    .next (onCollector kk (fun c => { c with accs := [], maxes := [], allPoisoned := false, reductions := c.reductions.drop 1 })
      (narrowAll kk (supplyElems q) s))
  else .next s

/-- R288: the buffer burst that score burst `i` of a home goes to. -/
def burstDest (s : State) (i : Nat) : Nat :=
  match cacheDecl s with
  | some d => 8 * (d.ssegBase + i / (d.qheads / 2)) + i % (d.qheads / 2)
  | none => 0

/-- R270, R288: the value granules of page (l, 1) of the routed block for its head. -/
def valueGranules (s : State) (r : BitVec 128) (layer : Nat) : List Nat :=
  match cacheDecl s with
  | none => []
  | some d =>
    let base := (r.extractLsb' 35 29).toNat * 2048 + (2 * layer + 1) * d.pageBytes
    let h := (r.extractLsb' 31 4).toNat
    let four := (d.pages.getD (2 * layer + 1) ⟨0, 0, 0, 0⟩).fmt == 1
    let n := if four then 2 else 4
    (List.range n).map fun k => base + (n * h + k) * 2048

/-- R288: the units that a burst goes to, those fenced left out (R150). -/
def burstUnits (s : State) (r : BitVec 128) (layer : Nat) : List Nat :=
  ((valueGranules s r layer).filterMap fun a => (place s a).map globalUnit).filter fun u =>
    !unitFenced s u && !(unit s u).isolated

/-- SCORE_BURST_SEND (R25, R288): a complete burst leaves its home; the units it goes to are those of the value granules, and each
controller writes it by BCAST in COPY mode, once no running phrase declares the segment. -/
def execScoreBurstSend (kk : Fin 32) (g : Fin 4096) (j : Fin 16) (layer : Nat) (p : BcastPlan) (s : State) : Out :=
  let key := 16 * g.val + j.val
  let b := tabGet [] (collector s kk).bursts key
  match routeOf s (kk.val / 4) g with
  | none => .next s
  | some r =>
    let us := burstUnits s r layer
    let dest := burstDest s j
    if b.length = 8 ∧ us.all fun u => channelReady s (u / 16) && !segmentBusy s 0 dest u then
      let s1 := onCollector kk (fun c => { c with bursts := tabDel c.bursts key }) s
      .next (us.foldl (fun s u => sendBeats (u / 16) 8 (bcastOne 0 0 dest (b.map (·.2)) p u s)) s1)
    else .next s

/-! Embedding lookup and expert routing (R188-R191). -/

/-- A scale table of the serving image, by identifier (R54, R56). -/
def servingTable (s : State) (id : Nat) : Nat := ((servingImage s).bind fun i => tabFind? i.2.scaleTables id).getD 0

/-- R188: the DECODE entry of one token's row in one section. -/
def lookupEntry (s : State) (token section_ slot table : Nat) : List Quad :=
  [BitVec.ofNat 64 (4 * 2 ^ 60 + 3 * 2 ^ 58 + 63 * 2 ^ 46 + token % 8 * 2 ^ 43 + slot % 16 * 2 ^ 39), 0,
    BitVec.ofNat 64 ((memScale s (servingTable s table) token).1.toNat * 2 ^ 32 + 512 * section_ % 2 ^ 24), 0]

/-- The scale's sector is poisoned (R119). -/
def scalePoison (s : State) (table token : Nat) : Bool := peekPoison s (servingTable s table + 32 + 4 * token) 4

/-- R188: a granule as it reaches its collector for one entry: 64 sectors of KIND 0x06. -/
def lookupSectors (entry number : Nat) (dirty : Bool) (xs : List Sector) : List OutSector :=
  ((List.range xs.length).zip xs).map fun q =>
    { tag := tagOf 6 (64 * entry + q.1), sector := Sector.mark dirty q.2, reduction := number }

/-- One granule of the lookup, read once, handed over once for each entry it carries: `es` are entries with their tokens. -/
def lookupGranule (es : List (Nat × Nat)) (a section_ slot table : Nat) (r : Reduction) (s : State) : State :=
  match place s a with
  | none => s
  | some p =>
    let kk := 4 * p.tile + p.channel / 16
    let s1 := es.foldl (fun s e => onOwner p.tile (fun o => { o with
      dest := tabPut o.dest e.1 (lookupEntry s e.2 section_ slot table) }) s) s
    let (xs, s2) := readSectors 64 a s1
    onCollector kk (fun q => { q with
      reductions := joinReduction { r with owed := 64 * es.length } q.reductions
      inbox := q.inbox ++ es.flatMap fun e => lookupSectors e.1 r.number (scalePoison s table e.2) xs }) s2

/-- EMBEDDING_LOOKUP (R188): one section for up to eight positions, entries from `entry` on. `base` is the head's first granule
address, `groups` its ROW_GROUPS, `table` its scale table. -/
def execEmbeddingLookup (entry : Nat) (tokens : List Nat) (section_ base groups slot table reduction width : Nat) (s : State) : Out :=
  if entry < 3840 ∨ 4096 < entry + tokens.length then .fault (.illFormed "EMBEDDING_LOOKUP")
  else
    let granule (g : Nat) : Nat := (base + (section_ * groups + g) * 2048) / 2048 * 2048
    let gs := (tokens.map (· / 8)).eraseDups
    if gs.any fun g => addressWaits s (granule g) then
      .next (deferCommand (.embeddingLookup entry tokens section_ base groups slot table reduction width) s)
    else
      let es := (List.range tokens.length).zip tokens
      .next (gs.foldl (fun s g =>
        lookupGranule ((es.filter fun e => e.2 / 8 == g).map fun e => (entry + e.1, e.2)) (granule g) section_ slot table
          { number := reduction, width := width } s) s)

/-- R189: a NaN ranks below -infinity. -/
def logitLess (a b : Val) : Bool := if a.isNan then !b.isNan else if b.isNan then false else a.lt b

/-- The largest logit not yet chosen, the lower expert on a tie. -/
def bestLogit (taken : List Nat) : List (Nat × Val) → Option (Nat × Val)
  | [] => none
  | x :: t => match bestLogit taken t with
    | none => if taken.contains x.1 then none else some x
    | some y => if taken.contains x.1 then some y else if logitLess x.2 y.2 then some y else some x

def pickExperts (ls : List (Nat × Val)) : Nat → List (Nat × Val) → List (Nat × Val)
  | 0, acc => acc
  | k + 1, acc => match bestLogit (acc.map (·.1)) ls with
    | some x => pickExperts ls k (acc ++ [x])
    | none => acc

/-- R189: the weights of the chosen experts. -/
def expertWeights (chosen : List (Nat × Val)) : List (Nat × Word) :=
  match chosen with
  | [] => []
  | (_, z) :: _ =>
    if z.isNan || z == .inf true then chosen.map fun x => (x.1, 0)
    else
      let w (x : Nat × Val) : Val := mergeExp (roundFp32 (x.2.sub z))
      let total := chosen.foldl (fun a x => a.add (w x)) Val.zero
      chosen.map fun x => (x.1, toFp32 (divVal (w x) total))

/-- EXPERT_SELECT (R189): K experts of a position, from the router outputs that every tile received; a poisoned logit poisons the
position's expert phrases. -/
def execExpertSelect (t : Fin 8) (k position vector first count : Nat) (s : State) : Out :=
  if k = 0 ∨ 8 < k ∨ 256 < count then .fault (.illFormed "EXPERT_SELECT")
  else
    let v := (owner s t).vector vector
    if v.present first count then
      let ls := (List.range count).map fun i => (i, ofFp32 (tabGet 0 v.words (first + i)))
      let bad := (List.range count).any fun i => v.marks.contains (first + i)
      .next (onOwner t (fun o => { o with
        selected := tabPut o.selected position (expertWeights (pickExperts ls k []))
        badRoutes := if bad then setInsert o.badRoutes position else setErase o.badRoutes position
        routes := o.routes + 1 }) s)
    else .next s

end Sys2Proof.Machine
end

