-- ==== Sys2Proof/Machine/Collective.lean ====
section
/-! DEFINITION. Collectives over several modules (R352, R353). -/
namespace Sys2Proof.Machine

/-! Slices of a vector at their owners (R20, R21, R41). -/

/-- R41, step 2: the exact product, realigned into the accumulator as one rise event. The spec does not say which block exponent that
event leaves, nor what happens beyond the field's -512 to 511: the model takes the exponent of the product and keeps it whatever it is
(DESIGN CHOICE, log entry 76). -/
def scaleAcc (a : Acc) (f : Val) : Acc :=
  let b := ({} : Acc).apply (a.value.mul f)
  { b with count := a.count, poison := a.poison }

/-- R20: tile `t` owns element `e` of a vector of `n` elements. -/
def ownsOf (n t e : Nat) : Bool := decide (e < n) && e / max 1 (sliceSize n) == t

/-- R20: the FP32 word of element `e` in a slice that the image placed at slot offset `at_` of tile `t`, and the mark of its sector. -/
def sliceAddress (n t at_ e : Nat) : Nat := t * 0x20000000 + at_ + 4 * (e - t * sliceSize n)

def sliceWord (s : State) (n t at_ e : Nat) : Word × Bool :=
  let a := sliceAddress n t at_ e
  (memWord s.scratch.bytes a, marked s a)

/-- R41, steps 2 and 3: the rescale factor and the residual of an element. -/
def finishAcc (s : State) (t : Nat) (d : Delivery) (e : Nat) (a : Acc) : Acc :=
  let b := match d.rescaleAt with
    | some o =>
      let w := sliceWord s d.width t o e
      let b := scaleAcc a (ofFp32 w.1)
      { b with poison := b.poison || w.2 }
    | none => a
  match d.residualAt with
  | some o =>
    let w := sliceWord s d.width t o e
    b.applyMarked (ofFp32 w.1) w.2
  | none => b

/-- R21: elements of a finished vector reach a tile. -/
def putFinished (vector width first : Nat) (xs : List (Word × Bool)) (t : Nat) (s : State) : State :=
  onOwner t (fun o =>
    let v := o.vector vector
    { o with finished := tabPut o.finished vector {
        width := width
        words := ((List.range xs.length).zip xs).foldl (fun m p => tabPut m (first + p.1) p.2.1) v.words
        marks := ((List.range xs.length).zip xs).foldl (fun m p =>
            if p.2.2 then setInsert m (first + p.1) else setErase m (first + p.1)) v.marks } }) s

/-- R21: the all-gather. -/
def gatherAll (vector width first : Nat) (xs : List (Word × Bool)) (s : State) : State :=
  (List.range 8).foldl (fun s t => putFinished vector width first xs t s) s

/-! Collectives. -/

def coll? (s : State) (id : Nat) : Option Coll := tabFind? s.fabric.colls id
def onColl (id : Nat) (f : Coll → Coll) (s : State) : State :=
  match coll? s id with
  | some c => { s with fabric.colls := tabPut s.fabric.colls id (f c) }
  | none => s

/-- The first element after a slice. -/
def sliceEnd (d : CollDecl) (sl : SliceDecl) : Nat :=
  (d.slices.filter fun x => decide (sl.first < x.first)).foldl (fun m x => min m x.first) d.width

def sliceOf (d : CollDecl) (e : Nat) : Option SliceDecl :=
  d.slices.find? fun sl => decide (sl.first ≤ e) && decide (e < sliceEnd d sl)

/-- Nodes whose contribution a slice awaits here: its children and, for a member, the module's own owners. -/
def awaited (s : State) (d : CollDecl) (sl : SliceDecl) : List Nat :=
  if d.members.contains (nodeOf s) then setInsert sl.children (nodeOf s) else sl.children

/-- One contribution to an element (R35, R183). -/
def contribute (isMax : Bool) (child e : Nat) (v : Val) (poison : Bool) (r : Round) : Round :=
  let cs := tabGet [] r.children e
  let r1 := { r with children := tabPut r.children e (cs ++ [child]) }
  if isMax then { r1 with maxes := tabPut r.maxes e (maxSlot (tabGet emptyMax r.maxes e) v poison) }
  else { r1 with accs := tabPut r.accs e ((tabGet ({} : Acc) r.accs e).applyMarked v poison) }

/-- The two accumulator sets: ROUND and ROUND + 1. -/
def pickRound (c : Coll) (n : Nat) : Option Bool :=
  if n = c.current.number then some true else if n = c.next.number then some false else none

def roundOf (c : Coll) (now : Bool) : Round := if now then c.current else c.next
def onRound (now : Bool) (f : Round → Round) (c : Coll) : Coll :=
  if now then { c with current := f c.current } else { c with next := f c.next }

/-- The accumulator of an element: the one of R34, or the running maximum of R183 as one. -/
def roundAcc (isMax : Bool) (r : Round) (e : Nat) : Acc :=
  if isMax then
    let m := tabGet emptyMax r.maxes e
    { ({} : Acc).apply m.value with poison := m.poison }
  else tabGet ({} : Acc) r.accs e

/-- R41 at the home: rescale, residual, one rounding to the output format; as the format's bits. -/
def homeElem (s : State) (c : Coll) (r : Round) (e : Nat) : Nat × Bool :=
  let d := c.decl
  let t := e / max 1 (sliceSize d.width)
  let a := roundAcc d.isMax r e
  let rec' := tabFind? c.records t
  let b := match rec' with | some x => finishAcc s t x e a | none => a
  let mode : Rounding := if (rec'.map (·.towardZero)).getD false then .towardZero else .nearest
  (roundTo (if d.format = 1 then .bf16 else .fp32) mode b.value, b.poison)

def chunksOf {α : Type} (n : Nat) : Nat → List α → List (List α)
  | 0, _ => []
  | f + 1, l => if l.isEmpty then [] else l.take n :: chunksOf n f (l.drop n)

/-- Values of `bytes` bytes each packed into a sector. -/
def packSector (bytes : Nat) (xs : List (Nat × Bool)) : Sector :=
  { data := BitVec.ofNat 256 (leValue ((xs.map fun x => leBytes bytes x.1).flatten)), poison := xs.any (·.2) }

def collWord2 (id stage element round : Nat) : Quad :=
  BitVec.ofNat 64 (id * 2 ^ 48 + stage % 256 * 2 ^ 40 + element % 2 ^ 24 * 2 ^ 16 + round % 65536)

def sectorPoisons (xs : List Sector) : BitVec 7 :=
  BitVec.ofNat 7 (((List.range xs.length).zip xs).foldl (fun n p => n + bitNat p.2.poison * 2 ^ p.1) 0)

/-- COLLECTIVE flits of seven sectors each to one node; `per` elements a sector of `bytes` bytes. -/
def sendElems (s : State) (dest op bytes per id stage first round : Nat) (xs : List (Nat × Bool)) : State :=
  let groups := chunksOf (7 * per) xs.length xs
  ((List.range groups.length).zip groups).foldl (fun s g =>
    let secs := (chunksOf per g.2.length g.2).map (packSector bytes)
    sendColl
      { type := 6, op := op, dest := dest, src := nodeOf s, sectors := secs.length, poison := sectorPoisons secs,
        word2 := collWord2 id stage (first + 7 * per * g.1) round, data := secs.map (·.data) } s) s

/-- The bits of a result in FP32. -/
def resultWord (format n : Nat) : Word := if format = 1 then toFp32 (ofBf16 (BitVec.ofNat 16 n)) else BitVec.ofNat 32 n

/-- Results of a slice at a member: kept, and broadcast to every tile as the owners of R21 would. -/
def keepResult (id first : Nat) (xs : List (Nat × Bool)) (s : State) : State :=
  match coll? s id with
  | none => s
  | some c =>
    let vector := match c.records with | (_, d) :: _ => d.vector | [] => id
    gatherAll vector c.decl.width first (xs.map fun x => (resultWord c.decl.format x.1, x.2)) (onColl id (fun c => { c with
      result := ((List.range xs.length).zip xs).foldl (fun t p => tabPut t (first + p.1) (BitVec.ofNat 32 p.2.1)) c.result
      resultMarks := ((List.range xs.length).zip xs).foldl (fun m p =>
        if p.2.2 then setInsert m (first + p.1) else setErase m (first + p.1)) c.resultMarks }) s)

/-- The home sends RESULT to every member; poison of `dead` elements shows in it (R353). -/
def sendResult (id : Nat) (c : Coll) (sl : SliceDecl) (r : Round) (s : State) : State :=
  let d := c.decl
  let n := sliceEnd d sl - sl.first
  let xs := (List.range n).map fun i => homeElem s c r (sl.first + i)
  let bytes := if d.format = 1 then 2 else 4
  let s1 := (d.members.filter (· != nodeOf s)).foldl (fun s m =>
    sendElems s m 2 bytes (32 / bytes) id sl.stage sl.first r.number xs) s
  if d.members.contains (nodeOf s) then keepResult id sl.first xs s1 else s1

/-- An intermediate node narrows the slice and sends it to its parent at STAGE + 1. -/
def sendParent (id : Nat) (d : CollDecl) (sl : SliceDecl) (r : Round) (s : State) : State :=
  let n := sliceEnd d sl - sl.first
  let xs := (List.range n).map fun i =>
    let a := roundAcc d.isMax r (sl.first + i)
    (a.narrow.toNat, a.poison)
  sendElems s sl.parent (if d.isMax then 1 else 0) 8 4 id (sl.stage + 1) sl.first r.number xs

/-- When every slice of a round has been handled the next round's set becomes the current one. -/
def advanceRound (c : Coll) : Coll :=
  if c.decl.slices.all fun sl => c.current.done.contains sl.first then
    { c with current := c.next, next := { number := (c.next.number + 1) % 65536 } }
  else c

def finishSlice (id : Nat) (now : Bool) (sl : SliceDecl) (s : State) : State :=
  match coll? s id with
  | none => s
  | some c =>
    let r := roundOf c now
    let s1 := if sl.home = nodeOf s then sendResult id c sl r s else sendParent id c.decl sl r s
    onColl id (fun c => advanceRound (onRound now (fun r => { r with done := r.done ++ [sl.first] }) c)) s1

def sliceComplete (s : State) (d : CollDecl) (sl : SliceDecl) (r : Round) : Bool :=
  let ns := awaited s d sl
  !r.done.contains sl.first &&
    (List.range (sliceEnd d sl - sl.first)).all fun i => ns.all fun n => (tabGet [] r.children (sl.first + i)).contains n

/-- Contributions of one child to consecutive elements, and what a slice that is complete does. -/
def addContributions (id : Nat) (now : Bool) (child first : Nat) (xs : List (Val × Bool)) (s : State) : State :=
  let s1 := onColl id (fun c => onRound now (fun r =>
    ((List.range xs.length).zip xs).foldl (fun r p => contribute c.decl.isMax child (first + p.1) p.2.1 p.2.2 r) r) c) s
  match coll? s1 id with
  | none => s1
  | some c => match sliceOf c.decl first with
    | none => s1
    | some sl => if sliceComplete s1 c.decl sl (roundOf c now) then finishSlice id now sl s1 else s1

/-- The wide partials of a flit. -/
def flitPartials (f : Flit) : List (Val × Bool) :=
  ((List.range f.sectors).map fun k =>
    let x := flitSector f k
    (List.range 4).map fun i => (decodeWide (sectorQuad x i), x.poison)).flatten

/-- The elements of a flit that lie in a slice ending before element `e`, `per` of them in a sector; none where a whole sector
lies beyond it. What the last sector holds beyond the slice fills it up (DESIGN CHOICE, log entry 104). -/
def elementsTo (e per : Nat) (f : Flit) : Option Nat :=
  if e ≤ f.element + per * (f.sectors - 1) then none else some (min (per * f.sectors) (e - f.element))

/-- COLLECTIVE SUM and MAX (R353, R356). -/
def collPartial (l : Nat) (f : Flit) (s : State) : State :=
  match coll? s f.collId with
  | none => violate l 0x5017 true f s
  | some c => match sliceOf c.decl f.element with
    | none => violate l 0x5017 true f s
    | some sl =>
      match elementsTo (sliceEnd c.decl sl) 4 f, (awaited s c.decl sl).contains f.src with
      | some n, true => match pickRound c f.round with
        | none => violate l 0x5018 true f s
        | some now =>
          if (List.range n).any fun i => (tabGet [] (roundOf c now).children (f.element + i)).contains f.src then
            violate l 0x5018 true f s
          else addContributions f.collId now f.src f.element ((flitPartials f).take n) s
      | _, _ => violate l 0x5017 true f s

/-- COLLECTIVE_SUM (R353). -/
def execCollectiveSum (l : Fin 36) (f : Flit) (at_ : Nat) (s : State) : Out :=
  receiveAs l at_ { f with type := 6, op := 0 } (collPartial l { f with type := 6, op := 0 }) s

/-- COLLECTIVE_MAX (R353). -/
def execCollectiveMax (l : Fin 36) (f : Flit) (at_ : Nat) (s : State) : Out :=
  receiveAs l at_ { f with type := 6, op := 1 } (collPartial l { f with type := 6, op := 1 }) s

/-- COLLECTIVE_RESULT (R353): a member keeps the finished values for its broadcast. -/
def execCollectiveResult (l : Fin 36) (f : Flit) (at_ : Nat) (s : State) : Out :=
  let f1 := { f with type := 6, op := 2 }
  receiveAs l at_ f1 (fun s =>
    match coll? s f1.collId with
    | none => violate l 0x5017 true f1 s
    | some c =>
      let bytes := if c.decl.format = 1 then 2 else 4
      let per := 32 / bytes
      let xs := ((List.range f1.sectors).map fun k =>
        let x := flitSector f1 k
        (List.range per).map fun i => (x.data.toNat / 2 ^ (8 * bytes * i) % 2 ^ (8 * bytes), x.poison)).flatten
      match (sliceOf c.decl f1.element).bind fun sl => elementsTo (sliceEnd c.decl sl) per f1 with
      | none => violate l 0x5017 true f1 s
      | some n => keepResult f1.collId f1.element (xs.take n) s) s

/-- Every element of a slice that still awaits a contribution is poisoned. -/
def poisonUnfinished (isMax : Bool) (ns : List Nat) (first n : Nat) (r : Round) : Round :=
  ((List.range n).map (first + ·)).foldl (fun r e =>
    if ns.all fun c => (tabGet [] r.children e).contains c then r
    else if isMax then { r with maxes := tabPut r.maxes e { tabGet emptyMax r.maxes e with poison := true } }
    else { r with accs := tabPut r.accs e { tabGet ({} : Acc) r.accs e with poison := true } }) r

/-- COLL_TIMEOUT (R353): the unfinished elements of the current round are poisoned, and the homes send RESULT. -/
def collTimeout (id : Nat) (s : State) : State :=
  match coll? s id with
  | none => s
  | some c =>
    if c.current.children.isEmpty then s
    else
      let open_ := c.decl.slices.filter fun sl => !c.current.done.contains sl.first
      let s1 := onColl id (fun c => { c with current := open_.foldl (fun r sl =>
        poisonUnfinished c.decl.isMax (awaited s c.decl sl) sl.first (sliceEnd c.decl sl - sl.first) r) c.current }) s
      let s2 := open_.foldl (fun s sl => match coll? s id with
        | some c =>
          let s' := if sl.home = nodeOf s then sendResult id c sl c.current s else s
          onColl id (onRound true fun r => { r with done := r.done ++ [sl.first] }) s'
        | none => s) s1
      reportFree 0x5040 subjModule subjModule (onColl id advanceRound s2)

/-- COLL_TIMEOUT (R353). -/
def execCollTimeout (id : Nat) (s : State) : Out := .next (collTimeout id s)

end Sys2Proof.Machine
end

