-- ==== Sys2Proof/Machine/Owners.lean ====
section
/-! DEFINITION. Slice owners: the completed reduction, the output path, key-value appends, the attention merge
(R20, R41, R159, R270-R273, R278, R290, R291). -/
namespace Sys2Proof.Machine

/-! Completed elements (R21, R41, R158). -/

/-- R21, R183: the mode of the tile partials of an element. -/
def elemIsMax (s : State) (e : Nat) : Bool :=
  (List.range 8).any fun j => ((tabFind? (collector s (4 * j + e / 64 % 4)).partials e).map (·.isMax)).getD false

/-- R41, step 1: one element at owner tile `t`: its own tile partial, and those of the others, narrowed as they left their tiles; in
MAX mode the largest. -/
def ownerAcc (s : State) (t e : Nat) : Acc :=
  let part (j : Nat) : Option Partial := tabFind? (collector s (4 * j + e / 64 % 4)).partials e
  if elemIsMax s e then
    let ps := (List.range 8).filterMap part
    let m := ps.foldl (fun v p => v.max p.acc.value) (Val.inf true)
    { ({} : Acc).apply m with poison := ps.any (·.acc.poison) }
  else
    let own := ((part t).map (·.acc)).getD {}
    ((List.range 8).filter (· != t)).foldl (fun acc j =>
      match part j with
      | none => acc
      | some p => p.acc.deliver.foldl (fun a q => a.applyMarked (decodeWide q) p.acc.poison) acc) own

/-- R41: the element before its rounding. -/
def completeElem (s : State) (t : Nat) (d : Delivery) (e : Nat) : Acc := finishAcc s t d (e % max 1 d.width) (ownerAcc s t e)

def deliveryMode (d : Delivery) : Rounding := if d.towardZero then .towardZero else .nearest

/-- R42: one rounding to the output format. -/
def roundOut (d : Delivery) (v : Val) : Val :=
  if d.format = 1 then ofBf16 (BitVec.ofNat 16 (roundTo .bf16 (deliveryMode d) v))
  else ofFp32 (BitVec.ofNat 32 (roundTo .fp32 (deliveryMode d) v))

/-- A result as it travels: its value and its poison. -/
structure Elm where
  value : Val
  poison : Bool
  deriving DecidableEq, Repr

def elmAt (l : List Elm) (i : Nat) : Elm := l.getD i ⟨.zero, false⟩

/-- R147, R159: rotation of the elements; the first has dimension `d0`. -/
def rotateAll (o : Owner) (pos d0 : Nat) (l : List Elm) : List Elm :=
  (List.range l.length).map fun i =>
    let a := elmAt l (i / 2 * 2)
    let b := elmAt l (i / 2 * 2 + 1)
    let r := rotatePair o.tables pos (frequency o.freqs ((d0 + i) % 128 / 2)) (a.value, b.value)
    ⟨if i % 2 = 0 then r.1 else r.2, a.poison || b.poison⟩

def tableAll (o : Owner) (k : Nat) (l : List Elm) : List Elm :=
  l.map fun x => { x with value := (storeTable o.tables k).eval x.value }

/-! Statistics at the owners (R64, R65, R68). -/

/-- The collector of tile `t` that holds element `e`. -/
def elemCollector (t e : Nat) : Nat := 4 * t + e / 64 % 4

def onEntry (kk k : Nat) (f : Stats → Stats) (s : State) : State :=
  onCollector kk (fun q => { q with stats := tabPut q.stats k (f (tabGet {} q.stats k)) }) s

/-- R64, R119: the values of elements from `first` observed into the entries from `base`; poisoned ones are not. -/
def observeAll (t first base : Nat) (l : List Elm) (s : State) : State :=
  ((List.range l.length).zip l).foldl (fun s p =>
    if p.2.poison then s else onEntry (elemCollector t (first + p.1)) (base + p.1) (·.observe p.2.value) s) s

/-- R62: what the encoder met. -/
def countEncoded (t first base : Nat) (l : List Encoded) (s : State) : State :=
  ((List.range l.length).zip l).foldl (fun s p =>
    if p.2.saturated || p.2.sawNan then onEntry (elemCollector t (first + p.1)) (base + p.1) (·.count p.2) s else s) s

/-- R65: a channel's entry combined over the collectors and the mesh; the order does not matter. -/
def combinedEntry (s : State) (k : Nat) : Stats :=
  (List.range 32).foldl (fun p kk => p.combine (tabGet {} (collector s kk).stats k)) {}

/-- R68: the entries of a window that closes are cleared for the next. -/
def clearEntries (base n : Nat) (s : State) : State :=
  (List.range 32).foldl (fun s kk =>
    onCollector kk (fun q => { q with stats := q.stats.filter fun e => !inRange base n e.1 }) s) s

/-- Bytes as whole sectors, the last filled up with zeros (R115). -/
def bytesSectors (bs : List Byte) : List Sector :=
  (chunksOf 32 bs.length bs).map fun c => { data := sectorOfBytes c, poison := false }

/-! Opening a page (R272, R273). -/

/-- An object of the serving image, by identifier (R54). -/
def servingCodebook (s : State) (id : Nat) : Nat := ((servingImage s).bind fun i => tabFind? i.2.codebooks id).getD 0

/-- R273: the scales and flags of a page's channels, SOURCE and WINDOW; `base` is the entry of channel 0. -/
def openingScales (s : State) (d : CacheDecl) (q p l kv w base : Nat) : List (Word × Bool) × Nat × Nat :=
  let f := pageFmt d l kv
  let channels := List.range (128 * d.heads)
  let cb := memCodebook s (servingCodebook s f.cb)
  let fromTable := channels.map fun c => memScale s (servingTable s f.table) c
  if !bit f.scaleCtl 3 then (fromTable, 0, 0)
  else if d.minWindow ≤ w then
    (channels.map fun c => autoScale (bits f.scaleCtl 2 1) (cb.value cb.anchorIndex) (combinedEntry s (base + c)), 1, w)
  else match p with
    | 0 => (fromTable, 0, 0)
    | p' + 1 => match residentBlock s q p' with
      | some b => (channels.map fun c => headerScale s d.heads (blockAddress s d b + headerOffset d l kv) c, 2, 0)
      | none => (fromTable, 0, 0)

def flagBytes (fs : List Bool) : List Byte :=
  leBytes 16 (((List.range fs.length).zip fs).foldl (fun n p => if p.2 then n + 2 ^ p.1 else n) 0)

/-- R329: a window closes: the tenant's counters. -/
def closeWindow (tenant : Nat) (sat nan : Bool) (s : State) : State :=
  let t := tabGet ({} : Tenant) s.tenancy.tenants tenant
  { s with tenancy.tenants := tabPut s.tenancy.tenants tenant { t with
      windowsClosed := t.windowsClosed + 1
      satWindows := if sat then satAdd t.satWindows 1 else t.satWindows
      nanWindows := if nan then satAdd t.nanWindows 1 else t.nanWindows } }

/-- R272: the bytes of a page header. -/
def headerBytesOf (d : CacheDecl) (l kv : Nat) (o : List (Word × Bool) × Nat × Nat) : List Byte :=
  let f := pageFmt d l kv
  if f.fmt = 2 then leBytes 64 (headerWord 2 kv 0 f.table f.scaleCtl 0 0 d.heads l).toNat
  else leBytes 64 (headerWord f.fmt kv f.cb f.table f.scaleCtl o.2.1 o.2.2 d.heads l).toNat ++
    (o.1.flatMap fun x => leBytes 4 x.1.toNat) ++ flagBytes (o.1.map (·.2))

/-- R68, R273, R329: with AUTO set, the window of the opening append closes: reported and cleared. -/
def closePage (d : CacheDecl) (q l kv base : Nat) (s : State) : State :=
  let f := pageFmt d l kv
  if f.fmt != 2 && bit f.scaleCtl 3 then
    let es := (List.range (128 * d.heads)).map fun c => combinedEntry s (base + c)
    clearEntries base (128 * d.heads)
      (closeWindow (seqEntry s q).tenant (es.any fun x => x.satCount != 0) (es.any fun x => x.nanCount != 0) s)
  else s

def pageKey (b l kv : Nat) : Nat := 4096 * b + 2 * l + kv

/-- R115, R272, R273: the opening append of a page writes its header, in whole sectors, before the first data sector. -/
def openPage (d : CacheDecl) (b q p l kv w base : Nat) (s : State) : State :=
  if s.kv.pageOpen.contains (pageKey b l kv) then s
  else
    let hdr := blockAddress s d b + headerOffset d l kv
    let s1 := writeSectors hdr (bytesSectors (headerBytesOf d l kv (openingScales s d q p l kv w base))) s
    closePage d q l kv base { s1 with kv.pageOpen := setInsert s1.kv.pageOpen (pageKey b l kv) }

/-- The bytes of one position's channels from `c0` in their page's format (R270). -/
def appendBytes (fmt kv c0 sp page : Nat) (codes : List Nat) : Tab ByteWrite :=
  ((List.range codes.length).zip codes).foldl (fun w p =>
    let c := c0 + p.1
    let b := pageByte fmt kv (c / 128) sp (c % 128)
    if fmt = 1 then
      let old := tabGet ⟨0, false⟩ w (page + b.1)
      tabPut w (page + b.1) ⟨old.value ||| BitVec.ofNat 8 (if b.2 then p.2 % 16 * 16 else p.2 % 16), false⟩
    else if fmt = 0 then tabPut w (page + b.1) ⟨BitVec.ofNat 8 p.2, false⟩
    else tabPut (tabPut w (page + b.1) ⟨BitVec.ofNat 8 p.2, false⟩) (page + b.1 + 1) ⟨BitVec.ofNat 8 (p.2 / 256), false⟩) []

/-- The slot whose request steps on a sequence. -/
def steppingSlot (s : State) (q : Nat) : Option Nat :=
  (s.serve.requests.find? fun e => e.2.state == .stepping && (e.2.words.getD 0 0).toNat / 2 ^ 48 == q).map (·.1)

def onRequest (i : Nat) (f : Request → Request) (s : State) : State :=
  { s with serve.requests := tabPut s.serve.requests i (f (tabGet {} s.serve.requests i)) }

/-- R309: a consumption of poison that names one request's positions fails that request. -/
def failRequest (i : Nat) (code : Half) (s : State) : State :=
  onRequest i (fun r => { r with failCode := some (r.failCode.getD code) }) s

/-- An append as its record gives it: sequence, position, layer, kind, first channel and how many, positions of the opening append. -/
structure AppendPlan where
  seq : Nat
  position : Nat
  layer : Nat
  kind : Nat
  c0 : Nat
  count : Nat
  opening : Option Nat
  deriving DecidableEq, Repr

/-- The member of a step in flight that steps on a sequence: its slot and its positions. -/
def stepMember (s : State) (q : Nat) : Option (Nat × Nat) :=
  ([s.serve.lcStep, s.serve.beStep, s.serve.chunk].filterMap id |>.flatMap (·.members)).find? fun m =>
    ((tabGet ({} : Request) s.serve.requests m.1).words.getD 0 0).toNat / 2 ^ 48 == q

/-- R28, R278: the step in flight on a sequence appends its own positions, and no other step appends to it. -/
def mayAppend (s : State) (a : AppendPlan) : Bool :=
  let e := seqEntry s a.seq
  e.state == .stepping && decide (e.length ≤ a.position) &&
    match stepMember s a.seq with
    | some m => decide (a.position < e.length + m.2)
    | none => false

/-- The format that the page has or is opened in. -/
def appendFmt (s : State) (d : CacheDecl) (b : Nat) (a : AppendPlan) : Nat :=
  if a.opening.isSome && !s.kv.pageOpen.contains (pageKey b a.layer a.kind) then (pageFmt d a.layer a.kind).fmt
  else bits (leValue (peekBytes s (blockAddress s d b + headerOffset d a.layer a.kind) 8)) 63 62

/-- R175: a sector of the append, or the header of a page that it opens, has to wait. -/
def appendWaits (s : State) (d : CacheDecl) (b : Nat) (a : AppendPlan) : Bool :=
  let page := blockAddress s d b + pageOffset d a.layer a.kind
  let w := appendBytes (appendFmt s d b a) a.kind a.c0 (a.position % 64) page (List.replicate a.count 0)
  (w.any fun e => addressWaits s e.1) ||
    a.opening.isSome && rangeWaits s (blockAddress s d b + headerOffset d a.layer a.kind) d.headerBytes

/-- R120: the append consumes poison: nothing is written, and the request fails. -/
def refuseAppend (t first q : Nat) (s : State) : State :=
  let kk := elemCollector t first
  let s1 := reportFree 0x3003 (subjCollector t (kk % 4)) (subjCollector t (kk % 4)) s
  match steppingSlot s q with
  | some i => failRequest i 0x3003 s1
  | none => s1

def noteAppend (a : AppendPlan) (s : State) : State :=
  (List.range ((a.count + 63) / 64)).foldl (fun s k =>
    { s with kv.appends := s.kv.appends ++ [⟨a.seq, a.layer, a.kind, a.c0 / 64 + k, a.position⟩] }) s

/-- R42, R60-R62, R159: the channels of one position written into the page; `base` is the entry of the first channel. -/
def writeAppend (t : Nat) (dv : Delivery) (d : CacheDecl) (b : Nat) (a : AppendPlan) (xs : List Elm) (s : State) : State :=
  let hdr := blockAddress s d b + headerOffset d a.layer a.kind
  let page := blockAddress s d b + pageOffset d a.layer a.kind
  let hw := leValue (peekBytes s hdr 8)
  if bits hw 63 62 = 2 then
    let w := appendBytes 2 a.kind a.c0 (a.position % 64) page (xs.map fun x => roundTo .bf16 (deliveryMode dv) x.value)
    noteAppend a (flushStacked w (sectorsOf (w.map (·.1))) s)
  else
    let at_ := servingCodebook s (bits hw 59 48)
    if peekPoison s hdr (64 + 528 * d.heads) || peekPoison s at_ 544 then refuseAppend t dv.first a.seq s
    else
      let cb := memCodebook s at_
      let enc := ((List.range xs.length).zip xs).map fun e =>
        let sc := headerScale s d.heads hdr (a.c0 + e.1)
        encodeCode cb sc.1 sc.2 (deliveryMode dv) e.2.value
      let w := appendBytes (bits hw 63 62) a.kind a.c0 (a.position % 64) page (enc.map (·.code))
      noteAppend a (countEncoded t dv.first dv.statsBase enc (flushStacked w (sectorsOf (w.map (·.1))) s))

/-- KV_APPEND (R120, R273, R278): channels of one position; poison writes nothing and is 0x3003. -/
def appendElems (t : Nat) (dv : Delivery) (a : AppendPlan) (xs : List Elm) (s : State) : State :=
  match cacheDecl s, residentBlock s a.seq (a.position / 64) with
  | some d, some b =>
    if xs.any (·.poison) then refuseAppend t dv.first a.seq s
    else writeAppend t dv d b a xs (match a.opening with
      | some w => openPage d b a.seq (a.position / 64) a.layer a.kind w (dv.statsBase - a.c0) s
      | none => s)
  | _, _ => s

/-! OWNER_DELIVER. -/

def clearPartials (first count : Nat) (s : State) : State :=
  (List.range 32).foldl (fun s kk =>
    onCollector kk (fun q => { q with partials := q.partials.filter fun e => !inRange first count e.1 }) s) s

/-- The elements of a delivery before their rounding. -/
def rawElems (s : State) (t : Nat) (d : Delivery) : List Elm :=
  (List.range d.count).map fun i =>
    let a := completeElem s t d (d.first + i)
    ⟨a.value, a.poison⟩

def roundElm (d : Delivery) (x : Elm) : Elm := { x with value := roundOut d x.value }

/-- R147, R159: the rounded results through the output path's rotation and table, before the output rounding that follows them. -/
def pathElems (o : Owner) (d : Delivery) (raw : List Elm) : List Elm :=
  let r := raw.map (roundElm d)
  let r1 := match d.rotate with | some pos => rotateAll o pos (d.first % max 1 d.width) r | none => r
  match d.table with | some k => tableAll o k r1 | none => r1

def usesPath (d : Delivery) : Bool := d.rotate.isSome || d.table.isSome

/-- R46, R159: the results in the destination format. -/
def deliverElems (s : State) (t : Nat) (d : Delivery) : List Elm :=
  let p := pathElems (owner s t) d (rawElems s t d)
  if usesPath d then p.map (roundElm d) else p

/-- R64: what a statistics unit observes: the values before the output rounding. -/
def observedElems (s : State) (t : Nat) (d : Delivery) : List Elm :=
  if usesPath d then pathElems (owner s t) d (rawElems s t d) else rawElems s t d

/-- R23, R41: the owners keep results in FP32. -/
def storeResults (t : Nat) (d : Delivery) (l : List Elm) (s : State) : State :=
  onOwner t (fun o => { o with
      results := ((List.range l.length).zip l).foldl (fun m p => tabPut m (d.first + p.1) (toFp32 p.2.value)) o.results
      resultMarks := ((List.range l.length).zip l).foldl (fun m p =>
        if p.2.poison then setInsert m (d.first + p.1) else setErase m (d.first + p.1)) o.resultMarks }) s

/-- R20, R23: where the record says so, the results become the residual in the tile's collectors' staging bank, poison marking
their sectors. -/
def storeResidual (t : Nat) (d : Delivery) (l : List Elm) (s : State) : State :=
  match d.setsResidual, d.residualAt with
  | true, some o =>
    let w := ((List.range l.length).zip l).foldl (fun (w : Tab ByteWrite) p =>
      ((List.range 4).zip (leBytes 4 (toFp32 p.2.value).toNat)).foldl (fun w q =>
        tabPut w (sliceAddress d.width t o ((d.first + p.1) % max 1 d.width) + q.1) ⟨q.2, p.2.poison⟩) w) []
    flushScratch .normal (runsOf w) s
  | _, _ => s

/-- A result in FP32 with its mark. -/
def elmWord (x : Elm) : Word × Bool := (toFp32 x.value, x.poison)

/-- An index tuple of element `n` in index order (R235). -/
def tupleOf : List Nat → Nat → List Nat
  | [], _ => []
  | k :: t, n => n % max 1 k :: tupleOf t (n / max 1 k)

/-- One value in a format that is not coded: 0 FP32, 1 bfloat16, 2 binary16. -/
def plainBits (fmt : Nat) (r : Rounding) (v : Val) : Nat :=
  roundTo (if fmt = 0 then .fp32 else if fmt = 1 then .bf16 else .f16) r v

/-- R31, R222: the results into every tile's scratchpad, as the output descriptor lays the tensor out. -/
def storeBanks (desc first : Nat) (l : List Elm) (s : State) : State :=
  match tabFind? s.tables.descs desc with
  | none => s
  | some x =>
    let d := decodeDesc x.words
    if d.scratch && decide (d.fmt ≤ 2) then
      let ixs := (List.range l.length).map fun i => tupleOf (d.sizes.take d.rank) (first + i)
      let es := l.map fun e => (⟨plainBits d.fmt .nearest e.value, e.poison⟩ : Elem)
      (List.range 8).foldl (fun s t =>
        let dt : Desc := { d with base := t * 0x20000000 + slotOffset d.base }
        moveElements dt ixs es (portRanges 17 (elementRanges dt ixs) s)) s
    else s

/-- Logits delivered to the sampling unit (R303). -/
def storeLogits (position first : Nat) (l : List Elm) (s : State) : State :=
  let old := tabGet [] s.serve.logits position
  let new := ((List.range l.length).zip l).foldl (fun m p => tabPut m (first + p.1) (toFp32 p.2.value)) old
  { s with
    serve.logits := tabPut s.serve.logits position new
    serve.poisonedLogits := if l.any (·.poison) then setInsert s.serve.poisonedLogits position else s.serve.poisonedLogits }

/-- R353: the module partials of elements of a slice, narrowed, as this module's own contribution to the current round. -/
def deliverPartials (t : Nat) (d : Delivery) (id : Nat) (s : State) : State :=
  match coll? s id with
  | none => s
  | some c =>
    let xs := (List.range d.count).map fun i =>
      let a := ownerAcc s t (d.first + i)
      (decodeWide a.narrow, a.poison)
    if (tabGet [] c.current.children d.first).contains (nodeOf s) then s
    else addContributions id true (nodeOf s) d.first xs
      (onColl id (fun c => { c with records := tabPut c.records t d }) (clearPartials d.first d.count s))

def appendPlan (d : Delivery) (q position l kv base : Nat) (opening : Option Nat) : AppendPlan :=
  { seq := q, position := position, layer := l, kind := kv, c0 := d.first % max 1 d.width - base, count := d.count, opening := opening }

/-- The results go where the record says (R21, R31, R159, R184). -/
def sendElms (t : Nat) (d : Delivery) (xs : List Elm) (s : State) : State :=
  let first := d.first % max 1 d.width
  match d.goesTo with
  | .broadcast => gatherAll d.vector d.width first (xs.map elmWord) s
  | .tile t' => putFinished d.vector d.width first (xs.map elmWord) t' s
  | .banks desc => storeBanks desc d.first xs s
  | .hub position => storeLogits position first xs s
  | .append q position l kv base opening => appendElems t d (appendPlan d q position l kv base opening) xs s
  | _ => s

/-- Uncorrectable bytes of the slices' words are met (R116). -/
def meetSlices (t : Nat) (d : Delivery) (s : State) : State :=
  [d.rescaleAt, d.residualAt].foldl (fun s o => match o with
    | some at_ => meetBad (sliceAddress d.width t at_ (d.first % max 1 d.width)) (4 * d.count) s
    | none => s) s

/-- OWNER_DELIVER to an agent of the module (R41, R159); a window that is only observed leaves its partials for the delivery that
follows. -/
def deliverLocal (t : Fin 8) (d : Delivery) (s0 : State) : State :=
  let s := meetSlices t d s0
  let xs := deliverElems s t d
  let s1 := storeResidual t d xs (storeResults t d xs s)
  let s2 := if d.observe then observeAll t d.first d.statsBase (observedElems s t d) s1 else s1
  let s3 := if d.goesTo = .keep then s2 else clearPartials d.first d.count s2
  sendElms t d xs s3

/-- R20, R158: the tile owns the elements, and every collector has narrowed the reduction. -/
def mayDeliver (s : State) (t : Nat) (d : Delivery) : Bool :=
  ((List.range d.count).all fun i => ownsOf d.width t ((d.first + i) % max 1 d.width)) &&
    (List.range 32).all fun kk => !(collector s kk).reductions.any fun r => r.number == d.reduction

/-- What an append must have to be written now: a step on the sequence (R28), and pairs that are free (R175). -/
inductive AppendNow | no | wait | yes
  deriving DecidableEq, Repr

def appendNow (s : State) (a : AppendPlan) : AppendNow :=
  match cacheDecl s, residentBlock s a.seq (a.position / 64) with
  | some d, some b => if !mayAppend s a then .no else if appendWaits s d b a then .wait else .yes
  | _, _ => .no

/-- OWNER_DELIVER (R20, R28, R41, R159, R175, R353). -/
def execOwnerDeliver (t : Fin 8) (d : Delivery) (s : State) : Out :=
  if !mayDeliver s t d then .next s
  else match d.goesTo with
  | .collective id => .next (deliverPartials t d id s)
  | .append q position l kv base opening =>
    match appendNow s (appendPlan d q position l kv base opening) with
    | .no => .next s
    | .wait => .next (deferCommand (.ownerDeliver t d) s)
    | .yes => .next (deliverLocal t d s)
  | _ => .next (deliverLocal t d s)

/-! The attention merge (R290, R291). -/

/-- An accumulator narrowed once after an exact product (R50). -/
def mulNarrow (w : Val) (q : Quad) : Val := narrowVal (w.mul (decodeWide q))

def nanAcc (a : Acc) : Acc := { a with cls := .nan }

/-- R290: one head of a packet. The spec does not say how M - m and m - M are rounded before they enter R48, which takes an FP32
argument: the model rounds each once to the nearest FP32 (DESIGN CHOICE, log entry 79). -/
def mergeHead (mw : Word) (l : Quad) (os : List (Nat × Quad × Bool)) (group : Nat) (headBad : Bool) (r : Running) : Running :=
  let m := ofFp32 mw
  let big := ofFp32 r.m
  let r0 := { r with packets := r.packets + 1, headPoison := r.headPoison || headBad }
  if m.isNan then
    let o1 := r0.o.map fun e => (e.1, nanAcc e.2)
    let o2 := os.foldl (fun t x => tabPut t x.1 (nanAcc (tabGet {} t x.1))) o1
    { r0 with l := nanAcc r0.l, o := o2 }
  else
    let r1 := if big.lt m then
        let y := if r.m = 0xFF800000 then Val.zero else mergeExp (roundFp32 (big.sub m))
        { r0 with m := mw, l := scaleAcc r0.l y, o := r0.o.map fun e => (e.1, scaleAcc e.2 y) }
      else r0
    let w := if m.eqv (ofFp32 r1.m) then Val.one else mergeExp (roundFp32 (m.sub (ofFp32 r1.m)))
    { r1 with
      l := if group = 0 then r1.l.apply (mulNarrow w l) else r1.l
      o := os.foldl (fun t x => tabPut t x.1 ((tabGet {} t x.1).applyMarked (mulNarrow w x.2.1) x.2.2)) r1.o }

/-- The outputs of head `a` (0 or 1) of a packet: dimension, wide partial, poison. -/
def packetOutputs (p : Packet) (a : Nat) : List (Nat × Quad × Bool) :=
  ((List.range 8).map fun k =>
    let x := (p.sectors.getD (1 + 8 * a + k) { tag := 0, sector := .zero }).sector
    (List.range 4).map fun i => (32 * p.group + 4 * k + i, sectorQuad x i, x.poison)).flatten

def ownsElem (s : State) (t h d : Nat) : Bool :=
  match cacheDecl s with
  | some c => (128 * h + d) / max 1 (sliceSize (c.heads * c.qheads * 128)) == t
  | none => false

/-- R291: the elements of a finished head at its owner, rounded to bfloat16. -/
def headResults (h : Nat) (r : Running) : List (Nat × Word × Bool) :=
  r.o.map fun e => (128 * h + e.1, toFp32 (ofBf16 (toBf16 (divVal e.2.value r.l.value))), e.2.poison || r.headPoison || r.l.poison)

/-- R291: the results of a head whose packets have all been applied, broadcast as the input of stage 8 (R21, R23). -/
def finishHead (t h total vector : Nat) (s : State) : State :=
  let r := tabGet ({} : Running) (owner s t).running h
  if r.packets < total then s
  else
    let xs := headResults h r
    let s1 := onOwner t (fun o => { o with
      running := tabDel o.running h
      results := xs.foldl (fun m e => tabPut m e.1 e.2.1) o.results
      resultMarks := xs.foldl (fun m e => if e.2.2 then setInsert m e.1 else setErase m e.1) o.resultMarks }) s
    let width := match cacheDecl s with | some d => d.heads * d.qheads * 128 | none => 0
    xs.foldl (fun s e => gatherAll vector width e.1 [e.2] s) s1

def mergeOne (t : Nat) (p : Packet) (a : Nat) (s : State) : State :=
  let hdr := (p.sectors.getD 0 { tag := 0, sector := .zero }).sector
  let mw := hdr.data.extractLsb' (128 * a) 32
  let l : Quad := hdr.data.extractLsb' (128 * a + 64) 64
  let os := (packetOutputs p a).filter fun x => ownsElem s t (p.head + a) x.1
  if os.isEmpty && !(List.range 128).any (ownsElem s t (p.head + a)) then s
  else onOwner t (fun o => { o with
    running := tabPut o.running (p.head + a) (mergeHead mw l os p.group hdr.poison (tabGet {} o.running (p.head + a))) }) s

/-- PACKET_MERGE (R290, R291): the `index`-th packet is applied at one of its owners; `total` packets complete a head, whose results
form part of the vector named. -/
def execPacketMerge (index : Nat) (t : Fin 8) (total vector : Nat) (s : State) : Out :=
  match s.near.packets[index]? with
  | none => .next s
  | some p =>
    if p.tiles.contains t.val then
      let left := { p with tiles := setErase p.tiles t }
      let s1 : State := { s with near.packets :=
        if left.tiles.isEmpty then s.near.packets.eraseIdx index else s.near.packets.set index left }
      .next (finishHead t (p.head + 1) total vector (finishHead t p.head total vector (mergeOne t p 1 (mergeOne t p 0 s1))))
    else .next s

end Sys2Proof.Machine
end

