-- ==== Sys2Proof/Machine/CoreBase.lean ====
section
/-! DEFINITION. Dense cores: registers, core bank, faults and ABORT, the tile read cache (R195, R203-R206, R209-R212). -/
namespace Sys2Proof.Machine

def core (s : State) (g : Nat) : Core := tabGet {} s.dense.cores g
def setCore (g : Nat) (c : Core) (s : State) : State := { s with dense.cores := tabPut s.dense.cores g c }
def onCore (g : Nat) (f : Core → Core) (s : State) : State := setCore g (f (core s g)) s

def coreTile (s : State) (t : Nat) : CoreTile := tabGet {} s.dense.tiles t
def onCoreTile (t : Nat) (f : CoreTile → CoreTile) (s : State) : State :=
  { s with dense.tiles := tabPut s.dense.tiles t (f (coreTile s t)) }

def sreg (c : Core) (r : Nat) : Word := if r = 0 then 0 else c.regs.getD r 0

/-- S0 reads as zero (R195): a write to it is lost. -/
def setSreg (g r : Nat) (w : Word) (s : State) : State :=
  if r = 0 then s else onCore g (fun c => { c with regs := (c.regs ++ List.replicate (32 - c.regs.length) 0).set r w }) s

/-- The scratchpad address of byte `a` of the core's own bank (R217). -/
def bankAddress (g a : Nat) : Nat := g / 16 * 0x20000000 + g % 16 * 0x400000 + a
def bankFits (a n : Nat) : Bool := decide (a + n ≤ 4194304)

/-! Check bits of the core's own stores (R116, R195). -/

/-- A poisoned sector of a store. -/
def markCoreStore (store byte : Nat) (c : Core) : Core :=
  let k := byte / 32
  if store = 4 then
    { c with accs := [2 * k, 2 * k + 1].foldl (fun t i => tabPut t i { tabGet ({} : Acc) t i with poison := true }) c.accs }
  else if store = 6 then { c with buf0 := { c.buf0 with marks := (List.range 16).foldl (fun m i => setInsert m (16 * k + i)) c.buf0.marks } }
  else if store = 7 then { c with buf1 := { c.buf1 with marks := (List.range 16).foldl (fun m i => setInsert m (16 * k + i)) c.buf1.marks } }
  else { c with storeMarks := setInsert c.storeMarks (32768 * store + k) }

/-- Bytes `[a, a + n)` of a store are written: good again. -/
def clearCoreBad (store a n : Nat) (c : Core) : Core :=
  { c with bad := c.bad.filter fun b => !inRange (1048576 * store + a) n b }

/-- Uncorrectable bytes met by a read of the bytes that `p` names, once each. -/
def coreMeetIf (g : Nat) (p : Nat → Bool) (s : State) : State :=
  ((core s g).bad.filter p).foldl
    (fun s b => sramLost (g / 16) (onCore g (markCoreStore (b / 1048576) (b % 1048576)) s))
    (onCore g (fun c => { c with bad := c.bad.filter fun b => !p b }) s)

/-- A read of bytes `[a, a + n)` of a store. -/
def coreMeet (g store a n : Nat) (s : State) : State := coreMeetIf g (inRange (1048576 * store + a) n) s

/-- A read of bytes `[a, a + n)` of the core bank. -/
def meetBank (g a n : Nat) (s : State) : State := meetBad (bankAddress g a) n s

/-- A sector of `[a, a + n)` of a store is poisoned. -/
def coreMarked (c : Core) (store a n : Nat) : Bool :=
  c.storeMarks.any fun k => decide (32768 * store + a / 32 ≤ k) && decide (k < 32768 * store + (a + n + 31) / 32)

/-- R205: ABORT to one collector for which the entry still owes `n` sectors: its reduction is poisoned, they count as delivered. -/
def abortCollector (reduction kk n : Nat) (s : State) : State :=
  let q := collector s kk
  let s1 := if q.current.number = reduction then onCollector kk (writeOffSectors reduction n []) (poisonReduction kk s)
    else onCollector kk (fun q => { q with reductions := q.reductions.map fun r =>
      if r.number = reduction then { r with owed := r.owed - n, poisoned := List.range r.width } else r }) s
  collectorCode 0x9050 kk s1

/-- R206: the code is recorded, enters CODE and is returned to the step. -/
def coreCode (code : Half) (g : Nat) (s : State) : State :=
  let first := (core s g).code == 0
  let s1 := onCore g (fun c => { c with
    code := if first then code else c.code
    stepCode := if c.stepCode = 0 then code else c.stepCode }) s
  let s2 := if first then raiseCoreEvent (g / 16) s1 else s1
  reportFree code (subjCore g) (subjCore g) s2

/-- R205: the core stops, sets ERROR and sends ABORT; the code is returned to the step. -/
def coreStop (code : Half) (g : Nat) (s : State) : State :=
  let owed := (core s g).owed.filter fun e => e.2 != 0
  let r := (core s g).reduction
  let s1 := onCore g (fun c => { c with
    busy := false, waiting := .none, error := true, owed := [], idleSince := some s.us,
    stepCode := if c.stepCode = 0 ∨ c.stepCode = 0x9045 then code else c.stepCode }) s
  owed.foldl (fun s e => abortCollector r e.1 e.2 s) s1

/-- R206. -/
def coreFault (code : Half) (g : Nat) (s : State) : State := coreStop code g (coreCode code g s)

/-- R227, R230: a miss is recorded with the tile as subject and stops the core. -/
def coreMiss (g : Nat) (s : State) : State := coreStop 0x9C02 g (reportFree 0x9C02 (subjTile (g / 16)) (subjCore g) s)

/-- R120, R243, R351: a code of another chapter stops the core, recorded with the core as subject. -/
def coreRefuse (code : Half) (g : Nat) (s : State) : State := coreStop code g (reportFree code (subjCore g) (subjCore g) s)

/-! The tile read cache (R209, R210). -/

/-- R210: one whole-cache invalidation. -/
def invalidateTile (t : Nat) (s : State) : State :=
  onCoreTile t (fun k => { k with lines := [], invalidations := k.invalidations + 1 }) s

/-- R263: every tile read cache, once per completion in compatibility mode. -/
def invalidateAll (s : State) : State :=
  let s1 := (List.range 8).foldl (fun s t => invalidateTile t s) s
  { s1 with order.compatInvalidations := s1.order.compatInvalidations + 1 }

/-- R388: the issue fraction of a tile, in sixteenths. -/
def issueFraction (s : State) (t : Nat) : Nat := min (tabGet ({} : TileHeat) s.lut.heat t).fraction s.lut.powerFraction

/-- R211: the idle gap after an operation of `cost` cycles. -/
def gapCycles (f cost : Nat) : Nat := if f = 0 ∨ 16 ≤ f then 0 else ceilDiv (cost * (16 - f)) f

def addGap (g cost : Nat) (s : State) : State :=
  onCore g (fun c => { c with
    throttleCycles := c.throttleCycles + BitVec.ofNat 64 (gapCycles (issueFraction s (g / 16)) cost) }) s

end Sys2Proof.Machine
end

