-- ==== Sys2Proof/Machine/Retune.lean ====
section
/-! DEFINITION. The persistent channel map, retuning slices and training, channel failure (R94-R105). -/
namespace Sys2Proof.Machine

/-! The persistent map in the NVM (R95, R96). -/

/-- R95: bytes 0-247 of a copy. -/
def mapBytes (m : MapCopy) : List Byte :=
  leBytes 8 (m.sequence % 2 ^ 32 * 2 ^ 32 + m.format.toNat * 2 ^ 16 + m.count) ++
    leBytes 64 (sumNat ((m.mask.filter fun c => decide (c < 512)).map fun c => 2 ^ c)) ++ List.replicate 176 0

/-- R95: the CRC, FORMAT and COUNT of a valid copy. -/
def mapValid (m : MapCopy) : Bool := m.crc == crc32 (mapBytes m) && m.format == 1 && m.count == m.mask.length

/-- R95: the copy in force in a region: its valid page with the highest SEQUENCE. -/
def inForce (pages : List MapCopy) : Option MapCopy :=
  (pages.filter mapValid).foldl (fun b m => match b with
    | none => some m
    | some x => if x.sequence < m.sequence then some m else b) none

def mapRegion (n : Nvm) (k : Nat) : List MapCopy := if k = 0 then n.map0 else n.map1

/-- R95: the region that a write replaces. -/
def replacedCopy (n : Nvm) : Nat :=
  match inForce n.map0, inForce n.map1 with
  | some a, some b => if a.sequence < b.sequence then 0 else 1
  | some _, none => 1
  | none, some _ => 0
  | none, none => 1

def setRegion (k : Nat) (pages : List MapCopy) (s : State) : State :=
  if k = 0 then { s with nvm.map0 := pages } else { s with nvm.map1 := pages }

/-- R95: the new copy: SEQUENCE one above that of the copy kept, 1 when there is none. -/
def newCopy (n : Nvm) (persistent : List Nat) : MapCopy :=
  let m : MapCopy :=
    { sequence := match inForce (mapRegion n (1 - replacedCopy n)) with
        | some x => (x.sequence + 1) % 2 ^ 32
        | none => 1
      format := 1, count := persistent.length, mask := persistent, crc := 0 }
  { m with crc := crc32 (mapBytes m) }

/-- R95: the write of the persistent map programs an erased page of its region; where the background erase has left none, the
region is erased first (log entry 33). -/
def programMap (s : State) : State :=
  let k := replacedCopy s.nvm
  let old := mapRegion s.nvm k
  setRegion k ((if old.length < 16 then old else []) ++ [newCopy s.nvm s.spread.persistent])
    { s with lut.held := s.lut.held.filter (· != .map), lut.eraseMap := true }

/-- R96: a map write that falls due: made, or held and recorded once with 0x3C03; merged into one already held. -/
def mapWrite (s : State) : State :=
  if s.lut.held.contains .map then s
  else if flashOk (replacedCopy s.nvm) s then programMap s
  else
    holdWrite .map (reportFree 0x3C03 subjModule subjLuthier s)

/-- R96: the retry of a held map write. -/
def retryMapWrite (s : State) : State :=
  if s.lut.held.contains .map && flashOk (replacedCopy s.nvm) s then programMap s else s

/-- MAP_REGION_ERASE (R95): once a map write has completed, Luthier erases the region of the other copy, under R96. -/
def execMapRegionErase (s : State) : Out :=
  let k := replacedCopy s.nvm
  if luthierRuns s && s.lut.eraseMap && flashOk k s then .next (setRegion k [] { s with lut.eraseMap := false }) else .next s

/-! A channel that fails while running (R104, R105). -/

def causeCode : FailCause → Nat
  | .slice => 1
  | .clock => 2
  | .uncorrectable => 3

/-- R104: no phrase, no slice, no read goes on; what every unit of the channel owes is supplied as poison, and what waited for the
channel goes on. -/
def stopChannel (c : Nat) (s : State) : State :=
  let s1 := eachUnit ((List.range 16).map (16 * c + ·)) writeOffUnit s
  wakeDeferred (onChan c (fun h => { h with
    failed := true, live := false, slicing := false, inTrain := false, holds := [] }) s1)

/-- R105: a live channel fails: degraded state, persistent map, 0x3C11. -/
def failChannel (c : Nat) (cause : FailCause) (s : State) : State :=
  if (chan s c).live && !(chan s c).failed then
    let s1 := stopChannel c s
    let first := s.spread.failedCount == 0
    let s2 : State := { s1 with
      spread.failedCount := s.spread.failedCount + 1
      spread.firstFailed := if first then c else s.spread.firstFailed
      spread.degraded := true
      spread.toSlice := setErase s.spread.toSlice c
      spread.persistent := setInsert s.spread.persistent c }
    let s3 := if first then raiseDegradedEvent s2 else s2
    report 0x3C11 (subjChannel c) (subjChannel c) (BitVec.ofNat 32 (causeCode cause * 2 ^ 24 + c)) (mapWrite s3)
  else s

/-- CHANNEL_FAIL (R104). -/
def execChannelFail (c : Fin 512) (cause : FailCause) (s : State) : Out := .next (failChannel c cause s)

/-! Retuning slices (R99-R102). -/

/-- R100, first instant: every bank pair is held, each hold with `enough` left. -/
def underPhrases (s : State) (c : Nat) (enough : Bool) : Bool :=
  enough && (List.range 16).all fun n => (tabFind? (chan s c).holds n).isSome

/-- R100, second instant: no command pending, no phrase held. -/
def channelIdle (s : State) (c : Nat) : Bool :=
  (chan s c).holds.isEmpty && s.deferred.isEmpty && !s.dram.rereads.any fun x => chanOfSector x.sector == c

/-- SLICE_START (R100): a channel of the current wave starts its slice; forced where neither of the first two instants has come. -/
def execSliceStart (c : Fin 512) (enough : Bool) (s : State) : Out :=
  if s.spread.toSlice.contains c.val && channelReady s c then
    let forced := !underPhrases s c enough && !channelIdle s c
    .next (onChan c (fun h => { h with
      slicing := true
      slices := h.slices + 1
      forcedSlices := h.forcedSlices + BitVec.ofNat 64 (bitNat forced) })
      { s with spread.toSlice := setErase s.spread.toSlice c })
  else .next s

/-- R84: at the end of a slice the debt of every bank that no phrase holds is repaid. -/
def repayAll (h : Channel) : Channel :=
  (List.range 32).foldl (fun h b => if (tabFind? h.holds (b / 2)).isSome then h else repay b false true 4 h) h

/-- SLICE_END (R101): the channel is released and its debt repaid, or, with more than 8 wires unusable or the verification failed, it
fails. -/
def execSliceEnd (c : Fin 512) (unusable : List Nat) (verified : Bool) (s : State) : Out :=
  if (chan s c).slicing then
    let ws := unusable.foldl setInsert []
    if 8 < ws.length || !verified then .next (failChannel c .slice s)
    else .next (wakeDeferred (onChan c (fun h => repayAll { h with slicing := false, inTrain := false, wires := ws }) s))
  else .next s

/-- R102: training runs inside slices, and at start on every channel that is not mapped out. -/
def mayTrain (s : State) (c : Nat) : Bool := (chan s c).slicing || (s.start.starting && !(chan s c).mappedOut)

def whileTraining (c : Nat) (f : State → State) (s : State) : Out :=
  if (chan s c).inTrain then .next (f s) else .next s

/-- ENTER_TRAIN (R102); the die's inner counter, with the corrections of the reads that no command of this model names, is read and
cleared into INNER_CORRECTED (R114). -/
def execEnterTrain (c : Fin 512) (inner : Nat) (s : State) : Out :=
  if mayTrain s c then
    .next (onChan c (fun h => { h with
      inTrain := true
      innerCorrected := h.innerCorrected + (satAdd h.dieInner inner).zeroExtend 64
      dieInner := 0 }) s)
  else .next s

/-- PATTERN_WRITE (R102): wire 0-327, seed. -/
def execPatternWrite (c : Fin 512) (wire : Fin 328) (seed : BitVec 9) (s : State) : Out :=
  whileTraining c (onChan c fun h => { h with patternWritten := some (wire.val, seed.toNat) }) s

/-- PATTERN_READ (R102). -/
def execPatternRead (c : Fin 512) (wire : Fin 328) (seed : BitVec 9) (s : State) : Out :=
  whileTraining c (onChan c fun h => { h with patternRead := some (wire.val, seed.toNat) }) s

/-- SET_DELAY (R102): 0-255 steps of 1/128 unit interval. -/
def execSetDelay (c : Fin 512) (wire : Fin 328) (delay : Byte) (s : State) : Out :=
  whileTraining c (onChan c fun h => { h with delays := tabSet 0 h.delays wire delay.toNat }) s

/-- R74: spare `k` takes the place of wire `w`. SPARES_USED counts the spares assigned (DESIGN CHOICE, log entry 91). -/
def assignSpare (w k : Nat) (h : Channel) : Channel :=
  let spent := setInsert h.spent k
  { h with spares := tabPut (h.spares.filter fun e => e.2 != k) w k, spent := spent, sparesUsed := spent.length }

/-- SPARE_MAP (R101, R102): a spare takes a wire's place; one assigned anew in a slice is reported with 0x3C12. -/
def execSpareMap (c : Fin 512) (wire : Fin 320) (spare : Fin 8) (s : State) : Out :=
  if (chan s c).inTrain then
    let fresh := tabFind? (chan s c).spares wire != some spare.val
    let s1 := onChan c (assignSpare wire spare) s
    .next (if (chan s c).slicing && fresh then reportFree 0x3C12 (subjChannel c) (subjChannel c) s1 else s1)
  else .next s

/-- EXIT_TRAIN (R102). -/
def execExitTrain (c : Fin 512) (s : State) : Out :=
  whileTraining c (onChan c fun h => { h with inTrain := false }) s

end Sys2Proof.Machine
end

