-- ==== Sys2Proof/Machine/Sha.lean ====
section
/-! DEFINITION. SHA-384, the digest of the measurements that the model holds in bytes (R127, R406). -/
namespace Sys2Proof.Machine

/-- The largest `r` below 2^`n` with r^`e` ≤ `v`. -/
def rootBelow (e v : Nat) : Nat → Nat → Nat
  | 0, r => r
  | n + 1, r => rootBelow e v n (if (r + 2 ^ n) ^ e ≤ v then r + 2 ^ n else r)

def isPrime (n : Nat) : Bool := decide (2 ≤ n) && (List.range n).all fun d => decide (d < 2) || n % d != 0

/-- The first eighty primes. -/
def shaPrimes : List Nat := (List.range 410).filter isPrime

/-- The first 64 bits of the fraction of a cube root: the constants of the rounds. -/
def shaRound : List Quad := shaPrimes.map fun p => BitVec.ofNat 64 (rootBelow 3 (p * 2 ^ 192) 68 0)

/-- The first 64 bits of the fraction of a square root, of the ninth to the sixteenth prime: where SHA-384 begins. -/
def shaStart : List Quad := ((shaPrimes.drop 8).take 8).map fun p => BitVec.ofNat 64 (rootBelow 2 (p * 2 ^ 128) 68 0)

def turn (x : Quad) (a b c : Nat) : Quad := x.rotateRight a ^^^ x.rotateRight b ^^^ x.rotateRight c
def turnShift (x : Quad) (a b c : Nat) : Quad := x.rotateRight a ^^^ x.rotateRight b ^^^ (x >>> c)

/-- The schedule grows by one word; `w` lists the last sixteen. -/
def shaNext (w : List Quad) : Quad :=
  turnShift (w.getD 14 0) 19 61 6 + w.getD 9 0 + turnShift (w.getD 1 0) 1 8 7 + w.getD 0 0

/-- One round on the eight working words. -/
def shaStep (k x : Quad) (h : List Quad) : List Quad :=
  let at_ (i : Nat) : Quad := h.getD i 0
  let t1 := at_ 7 + turn (at_ 4) 14 18 41 + ((at_ 4 &&& at_ 5) ^^^ (~~~(at_ 4) &&& at_ 6)) + k + x
  let t2 := turn (at_ 0) 28 34 39 + ((at_ 0 &&& at_ 1) ^^^ (at_ 0 &&& at_ 2) ^^^ (at_ 1 &&& at_ 2))
  [t1 + t2, at_ 0, at_ 1, at_ 2, at_ 3 + t1, at_ 4, at_ 5, at_ 6]

def shaRounds : List Quad → List Quad → List Quad → List Quad
  | [], _, h => h
  | k :: ks, w, h => shaRounds ks (w.drop 1 ++ [shaNext w]) (shaStep k (w.getD 0 0) h)

/-- One block of sixteen words. -/
def shaBlock (h w : List Quad) : List Quad := (h.zip (shaRounds shaRound w h)).map fun p => p.1 + p.2

/-- Eight bytes, the first the most significant. -/
def bigQuad (bs : List Byte) : Quad := BitVec.ofNat 64 (leValue bs.reverse)

def shaBlocks : Nat → List Byte → List Quad → List Quad
  | 0, _, h => h
  | n + 1, bs, h =>
    shaBlocks n (bs.drop 128) (shaBlock h ((List.range 16).map fun i => bigQuad ((bs.drop (8 * i)).take 8)))

/-- SHA-384 of a string of bytes: 48 bytes. -/
def sha384 (bs : List Byte) : List Byte :=
  let blocks := (bs.length + 17 + 127) / 128
  let padded := bs ++ 0x80 :: List.replicate (128 * blocks - bs.length - 17) 0 ++ (leBytes 16 (8 * bs.length)).reverse
  ((shaBlocks blocks padded shaStart).take 6).flatMap fun q => (leBytes 8 q.toNat).reverse

/-- A digest as the 384 bits of its 48 bytes, the first byte in the lowest bits (R8). -/
def digestOf (bs : List Byte) : BitVec 384 := BitVec.ofNat 384 (leValue (sha384 bs))

end Sys2Proof.Machine
end

