-- ==== Sys2Proof/Machine/Protect.lean ====
section
/-! DEFINITION. Sector repair, the drone, free fills (R124-R129). -/
namespace Sys2Proof.Machine

/-! Operation fields (R453). -/

/-- An operation starts: busy, its outcome written to the result field when it ends. -/
def OpField.begin (f : OpField) (outcome : Half) : OpField := { f with busy := true, outcome := outcome, taken := none }

/-- The field is written for an operation whose object is still to be read from host memory: it is busy, its arguments are taken. -/
def OpField.await (f : OpField) (args : List Nat) : OpField := { f with busy := true, taken := some args }

/-- A write while busy: the refusal code goes to the result field at once, the running operation is unchanged. -/
def OpField.refuse (f : OpField) (code : Half) : OpField := { f with result := code }

/-- The operation ends. -/
def OpField.finish (f : OpField) : OpField := if f.busy && f.taken.isNone then { f with busy := false, result := f.outcome } else f

/-! Repair (R127). -/

/-- R127: the repair record over the 8-byte address and the 32 data bytes. -/
def repairRecord (a : Nat) (data : BitVec 256) : List Byte := sha384 (leBytes 8 a ++ leBytes 32 data.toNat)

def repairEntry (type : Byte) (image tenant : Nat) (digest : BitVec 384) : Measurement :=
  { type := type, tenant := BitVec.ofNat 8 tenant, index := BitVec.ofNat 16 image, version := 0, digest := digest }

def isEntry (type : Byte) (image : Nat) (m : Measurement) : Bool := m.type == type && m.index == BitVec.ofNat 16 image

/-- R406: a repair record enters the measurements of the image that owns the region: 256 entries, then one chain entry. The digest
before the first of the chain is free (log entry 92). -/
def addRepairRecord (image tenant : Nat) (record : List Byte) (s : State) : State :=
  if (s.lut.measurements.filter (isEntry 0x13 image)).length < 256 then
    { s with lut.measurements := s.lut.measurements ++
        [repairEntry 0x13 image tenant (BitVec.ofNat 384 (leValue record))] }
  else
    let (previous, s1) := match s.lut.measurements.find? (isEntry 0x14 image) with
      | some m => (m.digest, s)
      | none => let (n, s') := takeFree s; (Config.freeDigest n, s')
    { s1 with lut.measurements := (s1.lut.measurements.filter fun m => !isEntry 0x14 image m) ++
        [repairEntry 0x14 image tenant (digestOf (leBytes 48 previous.toNat ++ record))] }

/-- R127: the first failing row of the repair's checks, 0 when all pass. -/
def repairCheck (s : State) : Half :=
  let a := s.protect.repairAddr.toNat
  match place s a with
  | none => 0x3020
  | some p =>
    if (chan s (globalChannel p)).failed then 0x3C21
    else match poisonEntry? a s with
      | none => 0x3021
      | some (_, e) => if e.getLsbD 62 then 0x0000 else 0x3022

/-- REPAIR_GO (R127, R453). -/
def repairGo (s : State) : State :=
  if s.protect.repair.busy then { s with protect.repair := s.protect.repair.refuse 0x3023 }
  else
    let code := repairCheck s
    let s1 : State := { s with protect.repair := s.protect.repair.begin code }
    if code = 0 then
      let a := s.protect.repairAddr.toNat
      let data := joinWords s.protect.repairData0 s.protect.repairData1 s.protect.repairData2 s.protect.repairData3
      let s2 := writeAddr a { data := data, poison := false } s1
      match allocAt false a s with
      | some (_, { image := some i, tenant := t, .. }) => addRepairRecord i t (repairRecord (a / 32 * 32) data) s2
      | _ => s2
    else s1

/-! The drone (R124, R125). -/

def granuleCount : Nat := 655360

/-- R125: one sector of the drone's granule: rewritten when corrected, queued for a second read when uncorrectable. A sector rewritten
in the patrol of a pair counts in the current patrol of its channel (DESIGN CHOICE, log entry 85). -/
def droneSector (arrayFlips wireFlips : List BitFlip) (c n i : Nat) (s : State) : State :=
  let r := sectorOnWires arrayFlips wireFlips n i s
  let s1 := onChan c (fun h => { h with outerCorrected := h.outerCorrected + BitVec.ofNat 64 r.corrected })
    (passBeat n (disturb arrayFlips n i s))
  if r.uncorrectable then
    queueReread { sector := n, foundBy := 2 } { s1 with protect.droneUncorrectable := s1.protect.droneUncorrectable + 1 }
  else if r.corrected = 0 then s1
  else
    onChan c (fun h => { h with droneRewritten := h.droneRewritten + 1 })
      (ctlPut n r.sector { s1 with protect.droneCorrected := s1.protect.droneCorrected + 1 })

/-- A burst of the granule; its corrected sectors go back in one burst (R75, R88). -/
def droneBurst (arrayFlips wireFlips : List BitFlip) (c first b : Nat) (s : State) : State :=
  let s1 := (List.range 8).foldl (fun s i =>
    droneSector arrayFlips wireFlips c (first + 8 * b + i) (8 * b + i) s) (onChan c (fun h => { h with readBeats := h.readBeats + 8 }) s)
  if (chan s1 c).droneRewritten = (chan s c).droneRewritten then s1
  else onChan c (fun h => { h with writeBeats := h.writeBeats + 8 }) s1

def droneGranule (arrayFlips wireFlips : List BitFlip) (c first : Nat) (s : State) : State :=
  (List.range 8).foldl (fun s b => droneBurst arrayFlips wireFlips c first b s) s

/-- R118: granule `k` of the patrol of a pair: both its banks in turn. -/
def pairGranule (pair k : Nat) : Nat × Nat := (2 * pair + k / 20480 % 2, k % 20480)

/-- R124: the bank and row the drone reads next: a pair named after an overflow first, then its patrol. -/
def droneNext (h : Channel) : Nat × Nat :=
  match h.dronePairs with
  | p :: _ => pairGranule (p / 40960) (p % 40960)
  | [] => (h.droneAt / 20480, h.droneAt % 20480)

/-- R124, R125: the drone moves on; a patrol that ends is counted, and recorded when it rewrote more than 1,024. -/
def droneAdvance (c : Nat) (s : State) : State :=
  let h := chan s c
  match h.dronePairs with
  | p :: t =>
    onChan c (fun h => { h with dronePairs := if p % 40960 + 1 < 40960 then (p + 1) :: t else t, droneFirst := false }) s
  | [] =>
    if h.droneAt + 1 < granuleCount then onChan c (fun h => { h with droneAt := h.droneAt + 1, droneFirst := false }) s
    else
      let s1 := onChan c (fun h => { h with
        droneAt := 0, droneRewritten := 0, droneFirst := false, patrolLate := false, patrolStart := s.lut.opHours })
        { s with protect.patrolsDone := s.protect.patrolsDone + 1 }
      if 1024 < h.droneRewritten then reportFree 0x3018 (subjChannel c) (subjChannel c) s1 else s1

/-- DRONE_READ (R124, R125): the next granule of a live channel, not of a pair that a phrase holds. -/
def execDroneRead (c : Fin 512) (inner : Nat) (arrayFlips wireFlips : List BitFlip) (s : State) : Out :=
  let (b, row) := droneNext (chan s c)
  if bankReady s c b then
    .next (droneAdvance c (droneGranule arrayFlips wireFlips c (sectorOf c b row 0) (countInner c inner s)))
  else .next s

/-- DRONE_GRANULE_ORDER_4 (R124): a granule that has waited 1 ms moves to order 4, until it is read. -/
def execDroneGranuleOrder4 (c : Fin 512) (s : State) : Out :=
  if (chan s c).live then .next (onChan c (fun h => { h with droneFirst := true }) s) else .next s

/-- PATROL_OVERDUE (R124): the patrol of a live channel is not complete after 6 operating hours. -/
def execPatrolOverdue (c : Fin 512) (s : State) : Out :=
  let h := chan s c
  if h.live && !h.patrolLate && decide (h.patrolStart.toNat + 6 * 65536 ≤ s.lut.opHours.toNat) then
    .next (reportFree 0x3015 (subjChannel c) (subjChannel c) (onChan c (fun h => { h with patrolLate := true }) s))
  else .next s

/-- FREE_FILL_DONE (R129): the oldest free fill completes and its space becomes available. -/
def execFreeFillDone (s : State) : Out :=
  match s.protect.fills with
  | [] => .next s
  | f :: t => .next { zeroRange f.base f.size s with protect.fills := t, protect.freeFills := s.protect.freeFills + 1 }

end Sys2Proof.Machine
end

