-- ==== Sys2Proof/Machine/Remote.lean ====
section
/-! DEFINITION. Remote access, export windows, fences of system scope, releases, quarantine, remote reads of the host
(R253, R347-R351, R358, R361). -/
namespace Sys2Proof.Machine

/-! Inbound windows (R347, R348). -/

/-- R347: one window holds the whole footprint, grants the right and names the tenant. -/
def windowFor (s : State) (right : WindowDecl → Bool) (f : Flit) (n : Nat) : Bool :=
  s.fabric.inbound.any fun w =>
    w.decl.scratch == f.scratch && decide (w.decl.base ≤ f.address) && decide (f.address + n ≤ w.decl.base + w.decl.size) &&
      right w.decl && w.decl.tenant == f.tenant

/-! Fabric receive (R348). -/

/-- R219: fabric receive asks the port of the bank that the flit's sectors lie in. -/
def receivePort (f : Flit) (s : State) : State := if f.scratch then portAccess 18 f.address (32 * f.sectors) s else s

def remoteStore (f : Flit) : Nat → State → State
  | 0, s => s
  | n + 1, s =>
    let i := f.sectors - (n + 1)
    let x := flitSector f i
    let a := f.address + 32 * i
    remoteStore f n (if f.scratch then (scratchStore none x.poison a (sectorBytes x.data) s).1 else writeAddr a x s)

/-- WRITE (R348). -/
def execFabricWrite (l : Fin 36) (f : Flit) (at_ : Nat) (s : State) : Out :=
  let f1 := { f with type := 1 }
  receiveAs l at_ f1 (fun s =>
    if windowFor s (·.write) f1 (32 * f1.sectors) then
      remoteStore f1 f1.sectors (receivePort f1 s)
    else violate l 0x5013 true f1 s) s

def remoteFetch (f : Flit) : Nat → State → List Sector × State
  | 0, s => ([], s)
  | n + 1, s =>
    let a := f.address + 32 * (f.sectors - (n + 1))
    let r : Sector × State :=
      if f.scratch then
        let x := scratchRead a 32 s
        ({ data := sectorOfBytes x.1, poison := x.2.1 }, x.2.2)
      else
        let x := readAddr a s
        (x.1.getD .zero, x.2)
    let t := remoteFetch f n r.2
    (r.1 :: t.1, t.2)

def poisonBits (xs : List Sector) : BitVec 7 :=
  BitVec.ofNat 7 (((List.range xs.length).zip xs).foldl (fun n p => n + bitNat p.2.poison * 2 ^ p.1) 0)

def response (s : State) (f : Flit) (op : Nat) (status : Half) (xs : List Sector) : Flit :=
  { type := 3, op := op, dest := f.src, src := nodeOf s, tenant := f.tenant, tag := f.tag, sectors := xs.length,
    poison := poisonBits xs, word2 := status.zeroExtend 64, data := xs.map (·.data) }

/-- READ (R348, R356). -/
def execFabricRead (l : Fin 36) (f : Flit) (at_ : Nat) (s : State) : Out :=
  let f1 := { f with type := 2, op := 0 }
  receiveAs l at_ f1 (fun s =>
    if windowFor s (·.read) f1 (32 * f1.sectors) then
      let r := remoteFetch f1 f1.sectors (receivePort f1 s)
      sendOrdered (response r.2 f1 0 0 r.1) r.2
    else sendOrdered (response s f1 1 0x5013 []) (violate l 0x5013 false f1 s)) s

/-- ATOMIC_ADD (R348). -/
def execAtomicAdd (l : Fin 36) (f : Flit) (at_ : Nat) (s : State) : Out :=
  let f1 := { f with type := 4 }
  receiveAs l at_ f1 (fun s =>
    if windowFor s (·.atomic) f1 8 then
      let r := scratchRead f1.address 8 (portAccess 18 f1.address 8 s)
      let old := leValue r.1
      let x := flitSector f1 0
      let bad := r.2.1 || x.poison
      let new := (old + x.data.toNat % 2 ^ 64) % 2 ^ 64
      let s1 := (scratchStore none bad f1.address (leBytes 8 new) r.2.2).1
      if f1.op = 1 then
        sendOrdered (response s1 f1 0 0 [{ data := BitVec.ofNat 256 old, poison := bad }]) s1
      else s1
    else violate l 0x5013 true f1 s) s

/-! Remote reads of the host (R361). -/

def rreadLoad (xs : List Sector) (s : State) : State :=
  { s with fabric.rreadData := ((List.range (4 * xs.length)).map fun k =>
      (k, wordOf (xs.getD (k / 4) .zero).data (k % 4))).filter fun e => e.2 != 0 }

/-- READ_RESPONSE (R343, R361). -/
def execReadResponse (l : Fin 36) (f : Flit) (at_ : Nat) (s : State) : Out :=
  let f1 := { f with type := 3 }
  receiveAs l at_ f1 (fun s =>
    if s.fabric.rreadTag = some f1.tag then
      let s1 : State := { s with
        fabric.rreadTag := none
        fabric.rread := { s.fabric.rread with busy := false, result := f1.status } }
      if f1.op = 0 then
        let xs := (List.range f1.sectors).map (flitSector f1)
        { rreadLoad xs s1 with fabric.rreadPoison := f1.poison }
      else s1
    else violate l 0x5016 true f1 s) s

/-- RREAD_GO (R361, R453). -/
def rreadGo (s : State) : State :=
  if s.fabric.rread.busy then { s with fabric.rread := s.fabric.rread.refuse 0x5035 }
  else
    let dest := s.fabric.rreadNode.toNat
    match orderedLink s dest with
    | none => { s with fabric.rread := s.fabric.rread.begin 0x5033 }
    | some _ =>
      let tag := s.fabric.nextTag
      let f : Flit :=
        { type := 2, dest := dest, src := nodeOf s, tag := tag, sectors := s.fabric.rreadSectors.toNat,
          word2 := BitVec.ofNat 64 (s.fabric.rreadAddr.toNat * 2 ^ 24 + bitNat s.fabric.rreadSpace * 2 ^ 23) }
      sendOrdered f { s with
        fabric.rread := s.fabric.rread.begin 0
        fabric.rreadTag := some tag
        fabric.nextTag := (tag + 1) % 2 ^ 24 }

/-- RREAD_TIMEOUT (R361). -/
def execRreadTimeout (s : State) : Out :=
  if s.fabric.rreadTag.isSome then
    .next { s with
      fabric.rreadTag := none
      fabric.rread := { s.fabric.rread with busy := false, result := 0x5033 } }
  else .next s

/-! Releases (R253, R350, R351). -/

def agentKey : Releaser → Nat
  | .host => 0
  | .core g => 1 + g

/-- R350: the destination set of a SYSTEM release; past 64 nodes every node with a valid route. -/
def fenceTargets (s : State) (k : Nat) : List Nat :=
  let ns := tabGet [] s.order.nodes k
  if ns.length ≤ 64 then ns else (s.fabric.routes.map (·.1)).filter (hasRoute s)

/-- R351: why the fences cannot be sent. -/
def fenceCause (s : State) (k : Nat) (ns : List Nat) : Option Half :=
  if ns.any fun d => (orderedLink s d).isNone then some 0x5030
  else if ns.any fun d => s.fabric.lost.contains (k, d) then some 0x5032
  else none

/-- Fence requests to the nodes, each with its own TAG. -/
def sendFences : List Nat → State → List (Nat × Nat) × State
  | [], s => ([], s)
  | d :: ds, s =>
    let tag := s.fabric.nextTag
    let s1 := sendOrdered { type := 5, op := 0, dest := d, src := nodeOf s, tag := tag }
      { s with fabric.nextTag := (tag + 1) % 2 ^ 24 }
    let r := sendFences ds s1
    ((d, tag) :: r.1, r.2)

/-- What a failed release does (R351): the core stops under R205; the host's sets FENCE_FAILED. -/
def releaseFailed (agent : Releaser) (code : Half) (s : State) : State :=
  match agent with
  | .core g => coreRefuse code g s
  | .host => reportFree code subjPort subjPort
      (raisedBit s.fabric.fenceFailed { s with fabric.fenceFailed := true })

def clearAgent (k : Nat) (s : State) : State :=
  { s with
    order.nodes := tabDel s.order.nodes k
    fabric.lost := s.fabric.lost.filter fun e => e.1 != k }

/-- A release at MODULE or SYSTEM scope begins. -/
def beginRelease (agent : Releaser) (scope : Scope) (s : State) : State :=
  let k := agentKey agent
  if scope = .system then
    let ns := fenceTargets s k
    match fenceCause s k ns with
    | some code => releaseFailed agent code (clearAgent k s)
    | none =>
      let r := sendFences ns s
      let s1 := clearAgent k r.2
      { s1 with order.releases := s1.order.releases ++ [{ agent := agent, scope := scope, awaiting := r.1 }] }
  else { s with order.releases := s.order.releases ++ [{ agent := agent, scope := scope }] }

/-- R253, R264: the `i`-th pending release completes once every acknowledgement has returned. -/
def completeRelease (i : Nat) (s : State) : State :=
  match s.order.releases[i]? with
  | none => s
  | some r =>
    if !r.awaiting.isEmpty then s
    else
      let s1 : State := { s with
        order.releases := s.order.releases.eraseIdx i
        order.moduleReleases := s.order.moduleReleases + (if r.scope = .module then 1 else 0)
        order.systemReleases := s.order.systemReleases + (if r.scope = .system then 1 else 0) }
      match r.agent with
      | .core g => onCore g (fun c => { c with waiting := .none }) s1
      | .host => s1

/-- The pending releases that `p` picks fail with a code. -/
def failReleases (p : Release → Bool) (code : Half) (s : State) : State :=
  (s.order.releases.filter p).foldl (fun s r => releaseFailed r.agent code s)
    { s with order.releases := s.order.releases.filter fun r => !p r }

/-- FENCE_TIMEOUT (R351): no ACK within FENCE_LIMIT for the `i`-th pending release. -/
def fenceTimeout (i : Nat) (s : State) : State :=
  match s.order.releases[i]? with
  | none => s
  | some r => if r.awaiting.isEmpty then s else failReleases (· == r) 0x5031 s

/-- FENCE_REQUEST (R350): every earlier flit of the source is performed, so the ACK is sent. -/
def execFenceRequest (l : Fin 36) (f : Flit) (at_ : Nat) (s : State) : Out :=
  let f1 := { f with type := 5, op := 0 }
  receiveAs l at_ f1 (fun s => sendOrdered { type := 5, op := 1, dest := f1.src, src := nodeOf s, tag := f1.tag } s) s

/-- FENCE_ACK (R350, R356). -/
def execFenceAck (l : Fin 36) (f : Flit) (at_ : Nat) (s : State) : Out :=
  let f1 := { f with type := 5, op := 1 }
  receiveAs l at_ f1 (fun s =>
    if s.order.releases.any fun r => r.awaiting.contains (f1.src, f1.tag) then
      { s with order.releases := s.order.releases.map fun r =>
          { r with awaiting := r.awaiting.filter fun p => p != (f1.src, f1.tag) } }
    else violate l 0x5016 true f1 s) s

/-! Quarantine and loss of light (R358, R339). -/

/-- Ordered flits a link holds. -/
def heldDests (k : Link) : List Nat := ((k.replay ++ k.queue).filter fun f => f.type != 6 && f.type != 7).map (·.dest)

/-- R358: the link's flits are discarded, which marks each affected destination for R351. -/
def discardFlits (l : Nat) (s : State) : State :=
  let ds := heldDests (link s l)
  let marks := (s.order.nodes.map fun e => (e.2.filter ds.contains).map fun d => (e.1, d)).flatten
  failReleases (fun r => r.awaiting.any fun p => ds.contains p.1) 0x5032
    { onLink l (fun k => { k with replay := [], queue := [] }) s with fabric.lost := s.fabric.lost ++ marks }

/-- R358: a limit has been passed. -/
def overLimit (s : State) (k : Link) : Bool :=
  decide (s.fabric.violationLimit.toNat < (k.violationsMs.filter fun t => decide (s.us < t + 1000)).length) ||
    decide (16 < (k.creditViolationsMs.filter fun t => decide (s.us < t + 1000)).length) ||
    decide (64 < (k.retriesMs.filter fun t => decide (s.us < t + 1000)).length)

/-- LINK_QUARANTINE (R358). -/
def linkQuarantine (l : Nat) (lockLost : Bool) (at_ : Nat) (s0 : State) : State :=
  let s := advanceTo at_ s0
  if linkUp s l && (lockLost || overLimit s (link s l)) then
    let drain : Flit := { type := 7, op := 3, src := nodeOf s, dest := (link s l).peerNode.toNat }
    let s1 := discardFlits l (sendNow l drain s)
    let times := ((link s1 l).quarantineUs.filter fun t => decide (s.us < t + 1000000)) ++ [s.us]
    let s2 := onLink l (fun k => { k with
      state := .quarantined, quarantines := satAdd k.quarantines 1, quarantineUs := times,
      staysDown := decide (3 ≤ times.length), violationsMs := [], creditViolationsMs := [], retriesMs := [] }) s1
    let s3 := reportFree 0x5021 (subjLink l) (subjLink l) s2
    if 3 ≤ times.length then reportFree 0x5022 (subjLink l) (subjLink l) s3 else s3
  else s

/-- Every link goes down (R339, R360). -/
def allDown (s : State) : State :=
  let s1 := (List.range 36).foldl (fun s l =>
    if (link s l).state = .down then s
    else onLink l (fun k => { k with state := .down }) (discardFlits l s)) s
  failReleases (fun r => !r.awaiting.isEmpty) 0x5030 s1

/-- LASER_REMOVE (R339, R445): removed, or failed in its socket. -/
def laserRemove (b : Nat) (failed : Bool) (s : State) : State :=
  let was := if b = 0 then s.fabric.socketA else s.fabric.socketB
  if was = .empty then s
  else
    let now : Socket := if failed then .dark else .empty
    let s1 : State := if b = 0 then { s with fabric.socketA := now } else { s with fabric.socketB := now }
    if lightOn s1 then
      reportFree 0x5001 subjModule subjModule { s1 with fabric.switchUs := some s.us }
    else if was = .lasing then settleStart (reportFree 0x5002 subjModule subjModule (allDown s1))
    else s1

/-- LINK_RETRY (R361): a link that stays down restarts bring-up. -/
def linkRetry (l : Nat) (s : State) : State :=
  if (link s l).staysDown && ((link s l).state == .down || (link s l).state == .quarantined) then
    startLink l (onLink l (fun k => { k with staysDown := false, quarantineUs := [] }) s)
  else s

end Sys2Proof.Machine
end

