-- ==== Sys2Proof/Machine/Cores.lean ====
section
/-! DEFINITION. Core instructions: sequencing, the array and its results (R196-R206). Each command names the core; the
word is fetched from its instruction memory, `bad` says that it is uncorrectable (R116). -/
namespace Sys2Proof.Machine

/-- R199: the fields of an instruction. -/
structure CoreWord where
  op : Nat
  ra : Nat
  rb : Nat
  rc : Nat
  rnd : Nat
  scaleCtl : Nat
  sub : Nat
  imm : Nat
  ext : Nat
  deriving DecidableEq, Repr

def decodeCore (w : Nat) : CoreWord :=
  { op := bits w 127 120, ra := bits w 119 115, rb := bits w 114 110, rc := bits w 109 105, rnd := bits w 104 103,
    scaleCtl := bits w 102 99, sub := bits w 98 96, imm := bits w 95 64, ext := bits w 63 0 }

def coreWord (c : Core) (pc : Nat) : CoreWord := decodeCore (leValue (memReadN c.imem (16 * pc) 16))

/-- The core issues the word at its program counter if its OP is `op` and the core does not wait for something else. -/
def issueAs (waits : Waiting) (op g : Nat) (bad : Bool) (f : CoreWord → State → State) (s : State) : Out :=
  let c := core s g
  if !c.busy || !(c.waiting == .none || c.waiting == waits) then .next s
  else if bad then .next (coreFault 0x9046 g s)
  else
    let w := coreWord c c.pc
    if w.op ≠ op then .next s
    else .next (f w (onCore g (fun c => { c with lastPc := c.pc }) s))

def stepPc (g : Nat) (s : State) : State := onCore g (fun c => { c with pc := (c.pc + 1) % 4096 }) s

/-- The core issues the word now, and its OP is `op`. -/
def issuesNow (waits : Waiting) (op g : Nat) (bad : Bool) (s : State) : Bool :=
  let c := core s g
  c.busy && (c.waiting == .none || c.waiting == waits) && !bad && (coreWord c c.pc).op == op

/-- An instruction that issues and lets the sequencer go on. -/
def issue (op g : Nat) (bad : Bool) (f : CoreWord → State → State) (s : State) : Out :=
  issueAs .none op g bad (fun w s => f w (stepPc g s)) s

def regN (s : State) (g r : Nat) : Nat := (sreg (core s g) r).toNat
def addr32 (s : State) (g r imm : Nat) : Nat := (regN s g r + imm) % 2 ^ 32

/-- R203: the image declares the entry address of the core, alone or with what it pushes. -/
def declaresEntry (g entry : Nat) (i : Image) : Bool :=
  i.manifest.coreMask.getLsbD g && i.decls.any fun d => match d with
    | .coreEntry c e => c == g && e == entry
    | .pushes c e _ _ _ => c == g && e == entry
    | _ => false

/-- R203: collector of the tile, sectors and width of the reduction, for each that the program pushes to. -/
def pushesAt (g entry : Nat) (i : Image) : List (Nat × Nat × Nat) :=
  i.decls.filterMap fun d => match d with
    | .pushes c e k n w => if c = g ∧ e = entry then some (k, n, w) else none
    | _ => none

/-- R18, R128, R203, R212, R395: the serving engine starts a program on the core. -/
def mayStartCore (s : State) (g reduction : Nat) : Bool :=
  !(core s g).busy && !(core s g).fenced && !coreUnderTest s g && !tileTripped s (g / 16) && s.protect.startFillDone && halfAllows s reduction true

/-- CORE_START (R203, R212): a declared entry, S1 to S8, the reduction that the program pushes to, the tenant; each collector counts
the sectors that the image declares of it (R158). -/
def execCoreStart (g : Fin 128) (entry : Fin 4096) (args : List Word) (reduction tenant : Nat) (s : State) : Out :=
  match s.load.images.find? fun e => declaresEntry g entry e.2 with
  | none => .next s
  | some e =>
    if mayStartCore s g reduction then
      let ps := pushesAt g entry e.2
      let t := g.val / 16
      let s1 := ps.foldl (fun s p => onCollector (4 * t + p.1 % 4) (fun q => { q with
        reductions := joinReduction ⟨reduction, p.2.2, false, p.2.1, []⟩ q.reductions }) s) s
      .next (onCore g (fun c => { c with
        regs := 0 :: (List.range 31).map fun i => if i < 8 then args.getD i 0 else 0
        counters := List.replicate 8 0
        pc := entry.val
        busy := true
        waiting := .none
        error := false
        stepCode := 0
        owed := ps.foldl (fun m p => tabPut m (4 * t + p.1 % 4) p.2.1) []
        reduction := reduction
        image := some e.1
        tenant := tenant }) s1)
    else .next s

/-! Sequencing (R200). -/

/-- WAITC (R200). -/
def execWaitc (g : Fin 128) (bad : Bool) (s : State) : Out :=
  issueAs .counter 0x02 g bad (fun w s =>
    if w.imm ≤ ((core s g).counters.getD w.sub 0).toNat then
      stepPc g (onCore g (fun c => { c with waiting := .none }) s)
    else onCore g (fun c => { c with waiting := .counter }) s) s

/-- SALU (R200, R206). -/
def execSalu (g : Fin 128) (bad : Bool) (s : State) : Out :=
  issue 0x08 g bad (fun w s =>
    let fn := w.ext % 16
    let b : Word := BitVec.ofNat 32 (addr32 s g w.rc w.imm)
    let s1 := setSreg g w.ra (aluFn fn (sreg (core s g) w.rb) b) s
    if divByZero fn b then coreCode 0x9045 g s1 else s1) s

/-- R200: the branch conditions. -/
def branchTaken (cond : Nat) (a b : Word) : Bool :=
  match cond with
  | 0 => true
  | 1 => a == b
  | 2 => a != b
  | 3 => decide (a.toNat < b.toNat)
  | 4 => decide (b.toNat ≤ a.toNat)
  | _ => false

/-- BR (R200). -/
def execBr (g : Fin 128) (bad : Bool) (s : State) : Out :=
  issue 0x09 g bad (fun w s =>
    if branchTaken w.sub (sreg (core s g) w.ra) (sreg (core s g) w.rb) then
      onCore g (fun c => { c with pc := w.imm % 4096 }) s
    else s) s

/-- END (R200). -/
def execCoreEnd (g : Fin 128) (bad : Bool) (s : State) : Out :=
  issueAs .none 0x0A g bad (fun _ => onCore g fun c => { c with busy := false, idleSince := some s.us }) s

/-! The core bank. -/

/-- `n` bytes of the core's bank with the mark of the sector of each. -/
def bankBytes (s : State) (g a n : Nat) : List (Byte × Bool) :=
  (List.range n).map fun i =>
    let b := bankAddress g a + i
    (scratchByte s b, marked s b)

/-- The marks that a poisoned byte sets in its sector (R119). -/
def markBytes : Nat → List (Byte × Bool) → State → State
  | _, [], s => s
  | a, x :: xs, s => markBytes (a + 1) xs (if x.2 then setMark a s else s)

/-- Bytes written to the core's bank; a poisoned byte poisons its sector (R119, R224). -/
def bankWrite (g a : Nat) (bs : List (Byte × Bool)) (s : State) : State :=
  let b := bankAddress g a
  markBytes b bs (scratchPut .normal false b (bs.map (·.1)) s)

def bankBad (g a n : Nat) (s : State) : Bool := (bankBytes s g a n).any (·.2)

/-! Weights (R197). -/

/-- Bits of one weight. -/
def weightBits (wfmt : Nat) : Nat := if wfmt = 0 then 4 else if wfmt = 1 then 8 else 16

/-- Byte offset and nibble of row `r`, column `j` of a sub-block. -/
def weightPlace (layout : Bool) (wfmt stride r j : Nat) : Nat × Nat :=
  let b := weightBits wfmt
  if layout then (stride * r + j * b / 8, j % 2)
  else (j / 8 * 8 * b + r * b + j % 8 * b / 8, j % 2)

/-- One weight of a sub-block at scratchpad address `p`, and its sector's mark. -/
def subWeight (s : State) (cb : Mem) (p slot wfmt : Nat) (layout : Bool) (stride r j : Nat) : Val × Bool :=
  let (o, nib) := weightPlace layout wfmt stride r j
  let a := p + o
  let v :=
    if wfmt = 0 then slotValue cb slot ((scratchByte s a).toNat / 16 ^ nib % 16)
    else if wfmt = 1 then slotValue cb slot (scratchByte s a).toNat
    else if wfmt = 2 then ofF16 (memHalf s.scratch.bytes a)
    else ofBf16 (memHalf s.scratch.bytes a)
  (v, marked s a)

/-- The last byte that a sub-block names, relative to its PTR. -/
def subLast (layout : Bool) (wfmt stride : Nat) : Nat :=
  if layout then 7 * stride + 8 * weightBits wfmt - 1 else 64 * weightBits wfmt - 1

/-- R197, R218: PTR and its sub-block lie in the tile's scratchpad; the address read, or none where absent. -/
def subAddress (t p last : Nat) : Option (Option Nat) :=
  if p = 0xFFFFFFFF then some none
  else match resolve p, resolve (p + last) with
    | some (_, a), some (_, b) => if tileOf p = t ∧ a + last = b then some (some a) else none
    | _, _ => none

/-- Sub-blocks 0 to 7 of a block record at bank address `r`; none where a PTR is outside. -/
def subAddresses (s : State) (g r : Nat) (layout : Bool) (wfmt stride : Nat) : Option (List (Option Nat)) :=
  let ps := (List.range 8).map fun i =>
    subAddress (g / 16) (memWord s.scratch.bytes (bankAddress g r + 4 * i)).toNat (subLast layout wfmt stride)
  if ps.all (·.isSome) then some (ps.map fun p => p.getD none) else none

/-- The 64 × 64 operands of a block with their marks. -/
def blockWeights (s : State) (cb : Mem) (ps : List (Option Nat)) (slot wfmt : Nat) (layout : Bool) (stride : Nat) :
    List (Val × Bool) :=
  ((List.range 64).map fun k =>
    (List.range 64).map fun j => match ps.getD (k / 8) none with
      | none => (Val.zero, false)
      | some p => subWeight s cb p slot wfmt layout stride (k % 8) j).flatten

/-- The ranges of a sub-block: one in tile layout, its eight rows in row layout (R197). -/
def blockRanges (layout : Bool) (wfmt stride a : Nat) : List (Nat × Nat) :=
  let n := 8 * weightBits wfmt
  if layout then (List.range 8).map fun r => (a + stride * r, n) else [(a, 8 * n)]

/-- The sub-blocks of a record are read through their banks (R219, R221): eight lines a cycle from the core's own, else through the
arbitrated port. -/
def meetBlocks (g : Nat) (layout : Bool) (wfmt stride : Nat) (ps : List (Option Nat)) (s : State) : State :=
  ps.foldl (fun s p => match p with
    | some a =>
      let rs := blockRanges layout wfmt stride a
      let own := bankOf a == g % 16
      let s1 := rs.foldl (fun s r => meetBad r.1 r.2 s) s
      if own then countConflicts a (extraCycles 8 (rs.flatMap fun r => linesOf r.1 r.2)) s1 else portRanges (g % 16) rs s1
    | none => s) s

/-- The check bits of the core's own stores find bytes wrong (R116, R195): corrected ones are counted, uncorrectable ones are met
when they are read. -/
def disturbCore (g corrected : Nat) (wrong : List Nat) (s : State) : State :=
  onCore g (fun c => { c with bad := wrong.foldl setInsert c.bad }) (sramCorrected (g / 16) corrected s)

/-- WLOAD (R197, R206); `corrected` and `wrong` are the bytes of the core's stores that their check bits find wrong from now on. -/
def execWload (g : Fin 128) (bad : Bool) (corrected : Nat) (wrong : List Nat) (s : State) : Out :=
  issue 0x10 g bad (fun w s0 =>
    let r := addr32 s0 g w.ra w.imm
    if !bankFits r 64 then coreFault 0x9041 g s0
    else
      let s := meetBank g r 64 (disturbCore g corrected wrong s0)
      let base := bankAddress g r
      let stride := (memHalf s.scratch.bytes (base + 32)).toNat
      let c34 := (memRead s.scratch.bytes (base + 34)).toNat
      let wfmt := c34 % 4
      match subAddresses s g r (bit c34 2) wfmt stride with
      | none => coreFault 0x9043 g s
      | some ps =>
        let s := meetBlocks g (bit c34 2) wfmt stride ps (if wfmt < 2 then coreMeet g 1 (520 * (c34 / 16)) 520 s else s)
        let ws := blockWeights s (core s g).codebooks ps (c34 / 16) wfmt (bit c34 2) stride
        let dead := bankBad g r 64 s || wfmt < 2 && coreMarked (core s g) 1 (520 * (c34 / 16)) 520
        let buf : WeightBuf :=
          { full := true, operands := ws.map (·.1), transposed := bit c34 3
            marks := (List.range 4096).filter fun i => dead || (ws.getD i (.zero, false)).2
            accRows := (List.range 8).map fun i => (memHalf s.scratch.bytes (base + 36 + 2 * i)).toNat
            accCol := (memHalf s.scratch.bytes (base + 52)).toNat }
        addGap g 1 (onCore g (fun c =>
          if w.sub % 2 = 0 then { clearCoreBad 6 0 8192 c with buf0 := buf } else { clearCoreBad 7 0 8192 c with buf1 := buf }) s)) s

/-! MMA (R196, R198). -/

/-- One product, scaled by its column factor where COLSCALE is set. -/
def mmaProduct (b : WeightBuf) (x : List (Val × Bool)) (f : Option (List (Val × Bool))) (k j e : Nat) : Val × Bool :=
  let xe := x.getD e (.zero, false)
  let p := (b.operands.getD (64 * k + j) .zero).mul xe.1
  let mark := b.marks.contains (64 * k + j) || xe.2
  match f with
  | none => (p, mark)
  | some fs => let y := fs.getD j (.zero, false); (p.mul y.1, mark || y.2)

/-- The inputs of output `i` of a position, in their order: row i over columns, or column i over rows (R198). -/
def mmaInputs (b : WeightBuf) (x : List (Val × Bool)) (f : Option (List (Val × Bool))) (i : Nat) : List (Val × Bool) :=
  (List.range 64).map fun n => if b.transposed then mmaProduct b x f n i n else mmaProduct b x f i n n

/-- The accumulator of output `i` and position `p` of `P`. -/
def mmaIndex (b : WeightBuf) (P i p : Nat) : Nat :=
  if b.transposed then (b.accCol + i) * P + p else (b.accRows.getD (i / 8) 0 + i % 8) * P + p

def applyAll (xs : List (Val × Bool)) (a : Acc) : Acc := xs.foldl (fun a x => a.applyMarked x.1 x.2) a

def mmaPosition (b : WeightBuf) (x : List (Val × Bool)) (f : Option (List (Val × Bool))) (P p : Nat) (t : Tab Acc) : Tab Acc :=
  (List.range 64).foldl (fun t i =>
    let k := mmaIndex b P i p
    tabPut t k (applyAll (mmaInputs b x f i) (tabGet {} t k))) t

/-- 64 bfloat16 inputs at a bank address. -/
def bankHalves (s : State) (g a n : Nat) : List (Val × Bool) :=
  (List.range n).map fun i =>
    let b := bankAddress g a + 2 * i
    (ofBf16 (memHalf s.scratch.bytes b), marked s b || marked s (b + 1))

/-- FP32 values at a bank address. -/
def bankWords (s : State) (g a n : Nat) : List (Val × Bool) :=
  (List.range n).map fun i =>
    let b := bankAddress g a + 4 * i
    (ofFp32 (memWord s.scratch.bytes b), marked s b || marked s (b + 3))

/-- The last accumulator that an MMA reaches. -/
def mmaTop (b : WeightBuf) (P : Nat) : Nat :=
  ((List.range 64).map fun i => mmaIndex b P i (P - 1)).foldl max 0

/-- MMA (R196, R198, R206, R211): a buffer that is not full stalls the core. -/
def execMma (g : Fin 128) (bad : Bool) (s : State) : Out :=
  issueAs .none 0x11 g bad (fun w s =>
    let b := if bit w.ext 9 then (core s g).buf1 else (core s g).buf0
    if !b.full then s
    else
      let P := w.ext % 512 + 1
      let input := addr32 s g w.ra w.imm
      let stride := regN s g w.rb
      let factors := regN s g w.rc
      let s1 := stepPc g s
      if !bankFits (input + (P - 1) * stride) 128 || !bankFits input 128 || bit w.ext 10 && !bankFits factors 256 then
        coreFault 0x9041 g s1
      else if 32768 ≤ mmaTop b P then coreFault 0x9042 g s1
      else
        let k := if bit w.ext 9 then 7 else 6
        let used := (List.range P).flatMap fun p => (List.range 64).map fun i => mmaIndex b P i p
        let s2 := coreMeetIf g (fun x => x / 1048576 == k || x / 1048576 == 4 && used.contains (x % 1048576 / 16)) s1
        let s3 := (List.range P).foldl (fun s p => meetBank g (input + p * stride) 128 s) s2
        let s4 := if bit w.ext 10 then meetBank g factors 256 s3 else s3
        let b := if bit w.ext 9 then (core s4 g).buf1 else (core s4 g).buf0
        let f := if bit w.ext 10 then some (bankWords s4 g factors 64) else none
        let accs := (List.range P).foldl (fun t p => mmaPosition b (bankHalves s4 g (input + p * stride) 64) f P p t)
          (core s4 g).accs
        addGap g (max P 16) (onCore g (fun c => { c with
          accs := accs, arrayCycles := c.arrayCycles + BitVec.ofNat 64 P }) s4)) s

/-! PUSH, CLRA (R204). -/

/-- R39, R204: `n` sectors of four accumulators from `first`, each KIND 0x01 with its INDEX. -/
def pushSectors (c : Core) (first index n : Nat) : List OutSector :=
  (List.range n).map fun k =>
    { tag := tagOf 1 (index + 4 * k), reduction := c.reduction
      sector := wideFour ((List.range 4).map fun j => deliverWide none (tabGet {} c.accs (first + 4 * k + j))) }

/-- PUSH (R204): the sectors go to the collector, the accumulators are cleared. -/
def execPush (g : Fin 128) (bad : Bool) (s : State) : Out :=
  issue 0x12 g bad (fun w s =>
    let first := regN s g w.ra
    let kk := 4 * (g.val / 16) + w.ext % 4
    let n := w.imm / 4
    if 32768 < first + w.imm then coreFault 0x9042 g s
    else
      let s1 := coreMeet g 4 (16 * first) (64 * n) s
      let s2 := onCollector kk (fun q => { q with inbox := q.inbox ++ pushSectors (core s1 g) first (regN s1 g w.rb) n }) s1
      addGap g 1 (onCore g (fun c => { c with
        accs := tabClear c.accs first (first + 4 * n)
        pushedSectors := c.pushedSectors + BitVec.ofNat 64 n
        owed := tabPut c.owed kk (tabGet 0 c.owed kk - n) }) s2)) s

/-- CLRA (R200, R206). -/
def execClra (g : Fin 128) (bad : Bool) (s : State) : Out :=
  issue 0x14 g bad (fun w s =>
    let first := regN s g w.ra
    if 32768 < first + w.imm then coreFault 0x9042 g s
    else onCore g (fun c => { clearCoreBad 4 (16 * first) (16 * w.imm) c with accs := tabClear c.accs first (first + w.imm) }) s) s

/-! Encoding of results: formats 0 FP32, 1 bfloat16, 2 binary16, 3 a 4-bit code, 4 an 8-bit code. -/

def elemWidth (fmt : Nat) : Nat := if fmt = 0 then 32 else if fmt < 3 then 16 else if fmt = 3 then 4 else 8

def bytesOf (fmt n : Nat) : Nat := (n * elemWidth fmt + 7) / 8

/-- R42, R43: the rounding of element `i`; stochastic bits are draws of the core's generator. -/
def roundingOf (rnd n i : Nat) : Rounding :=
  if rnd = 0 then .nearest else if rnd = 1 then .towardZero else .stochastic ((Config.freeDraw (n + i)).toNat % 65536)

/-- Elements packed into bytes with their poison; two 4-bit codes share a byte, the even one low (R52). -/
def packBytes (fmt : Nat) (xs : List (Nat × Bool)) : List (Byte × Bool) :=
  if fmt = 3 then (List.range ((xs.length + 1) / 2)).map fun i =>
    let a := xs.getD (2 * i) (0, false)
    let b := xs.getD (2 * i + 1) (0, false)
    (BitVec.ofNat 8 (a.1 % 16 + 16 * (b.1 % 16)), a.2 || b.2)
  else xs.flatMap fun x => (leBytes (elemWidth fmt / 8) x.1).map fun b => (b, x.2)

def observeVals (xs : List (Val × Bool)) (p : Stats) : Stats :=
  xs.foldl (fun p x => if x.2 then p else p.observe x.1) p

/-- A scale, its ZERO_RANGE flag, and whether it came from a poisoned sector. -/
structure CodeScale where
  scale : Word := 0x3F800000
  zeroRange : Bool := false
  poison : Bool := false
  deriving DecidableEq, Repr

/-- R66, AUTO clear, R200: the scale at a position of the scale tables of the core's image; beyond them, and where no table is named,
it is free (log entry 47). -/
def namedScale (g : Nat) (position : Option Nat) (s : State) : CodeScale × State :=
  let tables := match (core s g).image with
    | some n => match tabFind? s.load.images n with
      | some i => i.scaleTables
      | none => []
    | none => []
  match position.bind (imageScale s tables) with
  | some x => ({ scale := x.1.1, zeroRange := x.1.2, poison := x.2 }, s)
  | none =>
    let (n, s1) := takeFree s
    ({ scale := Config.freeWord n, zeroRange := (Config.freeDraw n).getLsbD 0 }, s1)

/-- R66, R67: the scale of a coded block. -/
def coreScale (g scaleCtl : Nat) (position : Option Nat) (cb : Codebook) (p : Stats) (s : State) : CodeScale × State :=
  if bit scaleCtl 3 then
    let x := autoScale (bits scaleCtl 2 1) (cb.value cb.anchorIndex) p
    ({ scale := x.1, zeroRange := x.2 }, s)
  else namedScale g position s

/-- What an instruction writes: its format, codebook, destination, and for a coded block the statistics entry and the place of its
scale; `opens`: the block opens the entry's window (R67). -/
structure CoreWrite where
  fmt : Nat
  slot : Nat
  dest : Nat
  entry : Nat
  position : Option Nat
  opens : Bool
  deriving DecidableEq, Repr

/-- R64: an entry of the statistics unit is written. -/
def putStats (g k : Nat) (p : Stats) (s : State) : State :=
  onCore g (fun c => { clearCoreBad 5 (16 * k) 16 c with stats := tabPut c.stats k p }) s

def skipFree (n : Nat) (s : State) : State := { s with free := s.free + n }

/-- R42, R60-R62, R67: values rounded or encoded into the core bank. A coded block is observed where its window opens, its scale
derived or named, its elements encoded; what the encoder counts enters the entry, and a window that the block is closes (R329). -/
def writeBlock (g : Nat) (w : CoreWord) (d : CoreWrite) (xs : List (Val × Bool)) (s : State) : State :=
  let draws := if w.rnd = 2 then xs.length else 0
  let is := (List.range xs.length).zip xs
  let p0 := if d.opens then observeVals xs {} else tabGet ({} : Stats) (core s g).stats d.entry
  if d.fmt < 3 then
    let ys := is.map fun p => (plainBits d.fmt (roundingOf w.rnd s.free p.1) p.2.1, p.2.2)
    let s1 := bankWrite g d.dest (packBytes d.fmt ys) (skipFree draws s)
    if d.opens then closeWindow (core s g).tenant false (p0.nanCount != 0) (putStats g d.entry p0 s1) else s1
  else
    let s0 := coreMeet g 1 (520 * d.slot) 520 (if d.opens then s else coreMeet g 5 (16 * d.entry) 16 s)
    let c := core s0 g
    let dead := coreMarked c 1 (520 * d.slot) 520 || (!d.opens && bit w.scaleCtl 3 && coreMarked c 5 (16 * d.entry) 16)
    let cb := slotCodebook c.codebooks d.slot
    let (sc, s1) := coreScale g w.scaleCtl d.position cb p0 s0
    let es := is.map fun p => encodeCode cb sc.scale sc.zeroRange (roundingOf w.rnd s1.free p.1) p.2.1
    let p1 := es.foldl (fun p e => p.count e) p0
    let bytes := packBytes d.fmt ((es.zip xs).map fun p => (p.1.code, p.2.2 || dead || sc.poison))
    let s2 := putStats g d.entry p1 (bankWrite g d.dest bytes (skipFree draws s1))
    if d.opens then closeWindow c.tenant (p1.satCount != 0) (p1.nanCount != 0) s2 else s2

/-- STOREA (R200, R204, R206, R329): EXT[31:16] is the entry of the statistics unit that EXT[32] observes into, and the place of the
scale where AUTO is clear. With AUTO set and EXT[32] clear the scale comes from the entry as an earlier block left it (DESIGN CHOICE,
log entry 82). A NaN that the block observes and then encodes counts twice in NAN_COUNT, as R64's "seen or encoded" (DESIGN CHOICE, log
entry 81). -/
def execStorea (g : Fin 128) (bad : Bool) (s : State) : Out :=
  issue 0x13 g bad (fun w s0 =>
    let first := regN s0 g w.ra
    let dest := regN s0 g w.rb
    let fac := regN s0 g w.rc
    let fmt := w.ext % 8
    let named := fac != 0xFFFFFFFF
    if 32768 < first + w.imm then coreFault 0x9042 g s0
    else if !bankFits dest (bytesOf fmt w.imm) || named && !bankFits fac (4 * w.imm) then coreFault 0x9041 g s0
    else
      let s1 := coreMeet g 4 (16 * first) (16 * w.imm) s0
      let s := if named then meetBank g fac (4 * w.imm) s1 else s1
      let factors := bankWords s g fac (if named then w.imm else 0)
      let xs := (List.range w.imm).map fun i =>
        let a := tabGet ({} : Acc) (core s g).accs (first + i)
        let f := factors.getD i (.one, false)
        let b := if named then scaleAcc a f.1 else a
        (b.value, b.poison || f.2)
      addGap g (ceilDiv w.imm 64) (writeBlock g w
        { fmt := fmt, slot := bits w.ext 6 3, dest := dest, entry := bits w.ext 31 16 % 4096, position := some (bits w.ext 31 16),
          opens := bit w.ext 32 } xs s)) s

end Sys2Proof.Machine
end

