-- ==== Sys2Proof/Machine/CoreMemory.lean ====
section
/-! DEFINITION. Core instructions on memory: copies, loads and stores, scratchpad transfers, fences, waits
(R200, R205, R209, R210, R243-R245, R253-R255, R263). -/
namespace Sys2Proof.Machine

/-! Copies (R243-R245, R263). -/

def descEntry (s : State) (i : Nat) : Option DescEntry := if i = 0 then none else tabFind? s.tables.descs i

/-- R54: a codebook's identifier is scoped to its image: those of the descriptor's own image, or for a descriptor of the host, which
carries no image, those of any (DESIGN CHOICE, log entry 93). -/
def imagesOf (s : State) (image : Option Nat) : Tab Image :=
  match image with
  | some n => s.load.images.filter fun e => e.1 == n
  | none => s.load.images

/-- R240, R244: what a window supplies outside the data: ZERO_INDEX of the codebook for codes, zero otherwise. -/
def padCode (s : State) (image : Option Nat) (d : Desc) : Nat :=
  if isCoded d.fmt then
    match (imagesOf s image).findSome? fun e => tabFind? e.2.codebooks d.cbId with
    | some a => (memCodebook s a).zeroIndex
    | none => 0
  else 0

/-- R243: a pair is checked, and both descriptors are copied at acceptance. -/
def acceptCopy (issuer : CopyIssuer) (a b : Nat) (s : State) : State ⊕ Half :=
  match descEntry s a, descEntry s b with
  | some x, some y =>
    match copyCheck (decodeDesc x.words) (decodeDesc y.words) with
    | some code => .inr code
    | none => .inl { s with tables.copies := s.tables.copies ++
        [{ issuer := issuer, srcIndex := a, dstIndex := b, src := x.words, dst := y.words, image := x.image }] }
  | _, _ => .inr 0x2044

/-- R349: the bytes that a copy wrote in an export window are transmitted, run by run. -/
def exportDest (k : AgentKey) (d : Desc) (s : State) : State :=
  if d.scratch then (sectorRanges d.sectors).foldl (fun s r => exportWrite k r.1 r.2 s) s else s

/-- R219, R228: the DMA engine's accesses to the banks that a side of a copy names. -/
def copyPorts (d : Desc) (s : State) : State := if d.scratch then portRanges 16 (sectorRanges d.sectors) s else s

/-- R29, R82, R84: a sector of stacked memory that a side of a copy names has to wait. -/
def sideWaits (s : State) (d : Desc) : Bool := !d.scratch && d.sectors.any fun k => addressWaits s (32 * k)

/-- R244, R349: the elements move; a destination in an export window is transmitted. -/
def performCopy (k : AgentKey) (c : Copy) (s : State) : State :=
  let src := decodeDesc c.src
  let dst := decodeDesc c.dst
  exportDest k dst (copyElements src dst (padCode s c.image src) (copyPorts dst (copyPorts src s)))

/-- R263: in compatibility mode a command that wrote stacked memory empties every tile read cache. -/
def compatFlush (dst : Desc) (s : State) : State := if s.order.orderMode && !dst.scratch then invalidateAll s else s

/-- MOVE (R200, R243). -/
def execMove (g : Fin 128) (bad : Bool) (s : State) : Out :=
  issue 0x01 g bad (fun w s =>
    match acceptCopy (.core g w.sub) (w.ext % 65536) (bits w.ext 31 16) s with
    | .inl s1 => onCore g (fun c => { c with moves := c.moves + 1 }) s1
    | .inr code => coreRefuse code g s) s

def moveOfTile (t : Nat) (c : Copy) : Bool := match c.issuer with | .core g _ => g / 16 == t | .dma _ => false

/-- MOVE_COMPLETE (R29, R243, R263): the oldest copy of the tile's engine completes and raises its counter; one that names a held pair
waits for it. -/
def execMoveComplete (t : Fin 8) (s : State) : Out :=
  match s.tables.copies.find? (moveOfTile t) with
  | none => .next s
  | some c =>
    if sideWaits s (decodeDesc c.src) || sideWaits s (decodeDesc c.dst) then .next (deferCommand (.moveComplete t) s)
    else
    let s1 := compatFlush (decodeDesc c.dst) (performCopy (match c.issuer with | .core g _ => some (1 + g) | _ => none) c
      { s with tables.copies := removeFirst (moveOfTile t) s.tables.copies })
    match c.issuer with
    | .core g n => .next (onCore g (fun k => { k with counters := listModify k.counters n (· + 1) }) s1)
    | .dma _ => .next s1

/-! LDM and STM (R200, R209). -/

def putSectorBytes (x : Sector) : List (Byte × Bool) := (sectorBytes x.data).map fun b => (b, x.poison)

def lineSector (k : CacheLine) (hi : Bool) : Sector :=
  if hi then { data := k.data.extractLsb' 256 256, poison := k.poison1 }
  else { data := k.data.extractLsb' 0 256, poison := k.poison0 }

/-- R209: the line of an address is read and installed; in a full set a line of the hardware's choice gives way. -/
def fillLine (t n : Nat) (s : State) : State :=
  let r0 := readAddr (64 * n) s
  let r1 := readAddrIn false (64 * n + 32) r0.2
  let x := r0.1.getD .zero
  let y := r1.1.getD .zero
  let set := (coreTile r1.2 t).lines.filter fun e => e.1 % 2048 == n % 2048
  let f := takeFree r1.2
  let lines := (coreTile r1.2 t).lines
  let kept := if set.length < 16 then lines
    else tabDel lines ((set.getD ((Config.freeWord f.1).toNat % 16) (0, ⟨0, false, false⟩)).1)
  onCoreTile t (fun k => { k with
    lines := tabPut kept n { data := y.data ++ x.data, poison0 := x.poison, poison1 := y.poison } })
    (if set.length < 16 then r1.2 else f.2)

/-- R209: lines with an uncorrectable byte, met by an LDM of `[a, a + n)`, are invalidated and counted, once each. -/
def dropBadLines (t a n : Nat) (badLines : List Nat) (s : State) : State :=
  (((linesOf a n).filter fun l => badLines.contains l && (tabFind? (coreTile s t).lines l).isSome)).foldl (fun s l =>
    onCoreTile t (fun k => { k with lines := tabDel k.lines l, refetch := k.refetch + 1 }) s) s

/-- One sector through the tile read cache (R209). -/
def cachedSector (t a : Nat) (s : State) : Sector × State :=
  let n := a / 64
  match tabFind? (coreTile s t).lines n with
  | some k => (lineSector k (a / 32 % 2 == 1), s)
  | none =>
    let s1 := fillLine t n s
    (lineSector (tabGet ⟨0, false, false⟩ (coreTile s1 t).lines n) (a / 32 % 2 == 1), s1)

/-- CACHE_HITS and CACHE_MISSES count lines served and lines filled. -/
def countLines (t : Nat) (a n : Nat) (s : State) : State :=
  let ls := (List.range (ceilDiv (a % 64 + n) 64)).map fun i => a / 64 + i
  let hits := (ls.filter fun l => (tabFind? (coreTile s t).lines l).isSome).length
  onCoreTile t (fun k => { k with
    hits := k.hits + BitVec.ofNat 64 hits, misses := k.misses + BitVec.ofNat 64 (ls.length - hits) }) s

/-- Sectors from module memory into the core bank. -/
def loadSectors (g : Nat) (cached : Bool) : Bool → Nat → Nat → Nat → State → State
  | _, 0, _, _, s => s
  | fresh, n + 1, a, d, s =>
    let r : Sector × State :=
      if cached then cachedSector (g / 16) a s
      else
        let x := readAddrIn fresh a s
        (x.1.getD .zero, x.2)
    loadSectors g cached false n (a + 32) (d + 32) (bankWrite g d (putSectorBytes r.1) r.2)

/-- The module address of LDM and STM. -/
def moduleAddress (s : State) (g : Nat) (w : CoreWord) : Nat := (w.ext % 2 ^ 40 + regN s g w.ra) / 32 * 32

/-- R82, R84: an LDM has to wait for a line or a sector that it reads from stacked memory. -/
def loadWaits (s : State) (g a n : Nat) (cached : Bool) (badLines : List Nat) : Bool :=
  if cached then (linesOf a n).any fun l =>
    ((tabFind? (coreTile s (g / 16)).lines l).isNone || badLines.contains l) && addressWaits s (64 * l)
  else rangeWaits s a n

/-- LDM (R200, R206, R209). -/
def execLdm (g : Fin 128) (bad : Bool) (badLines : List Nat) (s : State) : Out :=
  let w := coreWord (core s g) (core s g).pc
  let a := moduleAddress s g w
  let cached := w.sub % 2 == 0
  let d := regN s g w.rb
  if issuesNow .none 0x20 g bad s && bankFits d w.imm && decide (a + w.imm ≤ capacity s) && loadWaits s g a w.imm cached badLines then
    .next (deferCommand (.ldm g bad badLines) s)
  else issue 0x20 g bad (fun w s =>
    if !bankFits d w.imm then coreFault 0x9041 g s
    else if capacity s < a + w.imm then coreFault 0x9047 g s
    else
      let s1 := if cached then countLines (g.val / 16) a w.imm (dropBadLines (g.val / 16) a w.imm badLines s) else s
      loadSectors g cached true (w.imm / 32) a d s1) s

/-- R209: an STM updates the lines of its tile's cache that it covers. -/
def updateLine (t a : Nat) (x : Sector) (s : State) : State :=
  match tabFind? (coreTile s t).lines (a / 64) with
  | none => s
  | some k =>
    let k1 : CacheLine :=
      if a / 32 % 2 = 1 then { data := x.data ++ k.data.extractLsb' 0 256, poison0 := k.poison0, poison1 := x.poison }
      else { data := k.data.extractLsb' 256 256 ++ x.data, poison0 := x.poison, poison1 := k.poison1 }
    onCoreTile t (fun c => { c with lines := tabPut c.lines (a / 64) k1 }) s

def bankSector (s : State) (g a : Nat) : Sector :=
  let bs := bankBytes s g a 32
  { data := sectorOfBytes (bs.map (·.1)), poison := bs.any (·.2) }

def storeSectors (g : Nat) : Bool → Nat → Nat → Nat → State → State
  | _, 0, _, _, s => s
  | fresh, n + 1, a, d, s =>
    let x := bankSector s g d
    storeSectors g false n (a + 32) (d + 32) (updateLine (g / 16) a x (writeAddrIn fresh a x s))

/-- STM (R200, R206, R115). -/
def execStm (g : Fin 128) (bad : Bool) (s : State) : Out :=
  let w := coreWord (core s g) (core s g).pc
  let a := moduleAddress s g w
  let d := regN s g w.rb
  if issuesNow .none 0x21 g bad s && bankFits d w.imm && decide (a + w.imm ≤ capacity s) && rangeWaits s a w.imm then
    .next (deferCommand (.stm g bad) s)
  else issue 0x21 g bad (fun w s =>
    if !bankFits d w.imm then coreFault 0x9041 g s
    else if capacity s < a + w.imm then coreFault 0x9047 g s
    else storeSectors g true (w.imm / 32) a d (meetBank g d w.imm s)) s

/-! XFER (R200, R218, R227). -/

/-- Sectors from scratchpad into the bank. -/
def xferIn (g : Nat) : Nat → Nat → Nat → State → State
  | 0, _, _, s => s
  | n + 1, a, d, s =>
    let r := scratchRead a 32 s
    xferIn g n (a + 32) (d + 32) (bankWrite g d (r.1.map fun b => (b, r.2.1)) r.2.2)

def xferOut (g : Nat) (m : Alias) : Nat → Nat → Nat → State → State
  | 0, _, _, s => s
  | n + 1, a, d, s =>
    let x := bankSector s g d
    xferOut g m n (a + 32) (d + 32) (scratchSet m x.poison a (sectorBytes x.data) s)

/-- A transfer out: its sectors, the lines it wrote through an alias, what an export window transmits. -/
def xferTo (g : Nat) (m : Alias) (n a d : Nat) (s : State) : State :=
  exportWrite (some (1 + g)) a n (countAlias m a n (xferOut g m (n / 32) a d s))

/-- SRAM bytes that a read finds wrong (R116): corrected ones wait for their write-back, uncorrectable ones are met. -/
def disturbSram (corrected bad : List Nat) (a n : Nat) (s : State) : State :=
  let cs := corrected.filter (inRange a n)
  let t := tileOf a
  { s with
    scratch.bad := (bad.filter (inRange a n)).foldl setInsert s.scratch.bad
    scratch.fixing := cs.foldl setInsert s.scratch.fixing
    scratch.corrected := tabSet 0 s.scratch.corrected t (tabGet 0 s.scratch.corrected t + BitVec.ofNat 64 cs.length) }

/-- XFER (R200, R206, R227): `corrected` and `wrong` are the bytes of the source that SRAM check bits find wrong. -/
def execXfer (g : Fin 128) (bad : Bool) (corrected wrong : List Nat) (s : State) : Out :=
  issue 0x22 g bad (fun w s =>
    let a := regN s g w.ra
    let d := regN s g w.rb
    if !bankFits d w.imm then coreFault 0x9041 g s
    else match resolve a, resolve (a + (w.imm - 1)) with
    | some (m, x), some (_, y) =>
      if tileOf a ≠ g.val / 16 ∨ x + (w.imm - 1) ≠ y then coreMiss g s
      else
        let s1 := portAccess (g.val % 16) x w.imm s
        if w.sub % 2 = 1 then xferIn g (w.imm / 32) x d (disturbSram corrected wrong x w.imm s1)
        else xferTo g m w.imm x d (meetBank g d w.imm (disturbSram corrected wrong (bankAddress g d) w.imm s1))
    | _, _ => coreMiss g s) s

/-! Fences (R200, R253-R255). -/

def scopeOf (sub : Nat) : Scope := if sub = 0 then .core else if sub = 1 then .module else .system

/-- R250, R264: a queued MOVE of the core has yet to read its source in the core's own bank. -/
def bankReadsQueued (s : State) (g : Nat) : Bool :=
  s.tables.copies.any fun c => (match c.issuer with | .core h _ => h == g | .dma _ => false) &&
    (decodeDesc c.src).scratch && tileOf (decodeDesc c.src).base == g / 16 && bankOf (decodeDesc c.src).base == g % 16

/-- FENCE_RELEASE (R253, R264): at CORE scope once queued MOVEs have read the core bank; otherwise the release is pending. -/
def execFenceRelease (g : Fin 128) (bad : Bool) (s : State) : Out :=
  let w := coreWord (core s g) (core s g).pc
  if bit w.ext 0 || scopeOf w.sub == .core && bankReadsQueued s g then .next s
  else issue 0x30 g bad (fun w s =>
    if scopeOf w.sub = .core then s
    else beginRelease (.core g) (scopeOf w.sub) (onCore g (fun c => { c with waiting := .release }) s)) s

/-- The flag word of an acquire: its value and mark; the code of an address that cannot be read. -/
def flagWord (s : State) (g : Nat) (w : CoreWord) : (Nat × Bool × State) ⊕ Half :=
  let a := bits w.ext 41 2 * 8
  if bit w.ext 42 then
    if 2 ^ 29 ≤ a then .inr 0x9C02
    else match resolve (g / 16 * 2 ^ 29 + a) with
    | none => .inr 0x9C02
    | some (_, b) =>
      let r := scratchRead b 8 (portAccess (g % 16) b 8 s)
      .inl (leValue r.1, r.2.1, r.2.2)
  else if capacity s < a + 8 then .inr 0x9047
  else
    let r := readAddr (a / 32 * 32) s
    let x := r.1.getD .zero
    .inl (x.data.toNat / 2 ^ (8 * (a % 32)) % 2 ^ 64, x.poison, r.2)

/-- R254: the acquire completes. -/
def finishAcquire (g : Nat) (w : CoreWord) (s : State) : State :=
  let s1 := stepPc g (onCore g (fun c => { c with waiting := .none }) s)
  if scopeOf w.sub = .core then s1 else invalidateTile (g / 16) s1

def acquireFailed (s : State) : State := { s with order.acquiresFailed := s.order.acquiresFailed + 1 }

/-- FENCE_ACQUIRE (R254, R255, R120, R206, R227): one read of the flag; a core whose flag differs waits. -/
def execFenceAcquire (g : Fin 128) (bad : Bool) (s : State) : Out :=
  let w := coreWord (core s g) (core s g).pc
  let a := bits w.ext 41 2 * 8
  if !bit w.ext 0 then .next s
  else if issuesNow .acquire 0x30 g bad s && bit w.ext 1 && !bit w.ext 42 && decide (a + 8 ≤ capacity s) && addressWaits s a then
    .next (deferCommand (.fenceAcquire g bad) s)
  else issueAs .acquire 0x30 g bad (fun w s =>
    if !bit w.ext 1 then finishAcquire g w s
    else match flagWord s g w with
    | .inr code => if code = 0x9C02 then coreMiss g s else coreFault code g s
    | .inl (v, poison, s1) =>
      if poison then coreRefuse 0x3004 g (acquireFailed s1)
      else if v = regN s1 g w.ra then finishAcquire g w s1
      else onCore g (fun c => { c with waiting := .acquire }) s1) s

/-- WAIT_LIMIT_EXPIRY (R206, R255). -/
def execWaitLimitExpiry (g : Fin 128) (s : State) : Out :=
  let c := core s g
  if c.busy && (c.waiting == .counter || c.waiting == .acquire) && (coreTile s (g.val / 16)).waitLimit != 0 then
    .next (coreFault 0x9044 g (if c.waiting = .acquire then acquireFailed s else s))
  else .next s

/-! Scratchpad ports (R220, R116, R225). -/

/-- R220: how far behind the master granted last a master stands in the rotation. -/
def turnOf (last m : Nat) : Nat := (m + 39 - last % 20) % 20

/-- R220: of the requests that wait, the one whose master is next in turn. -/
def nextRequest (last : Nat) : List PortRequest → Option PortRequest
  | [] => none
  | r :: t => match nextRequest last t with
    | none => some r
    | some x => if turnOf last x.master < turnOf last r.master then some x else some r

/-- ARB_GRANT (R220, R221): the port serves the oldest request of the next master in turn; how long it waited, and the cycles in which
the owner's port took a sub-bank from it, come with the command. -/
def execArbGrant (t : Fin 8) (b : Fin 20) (waited conflicts : Nat) (s : State) : Out :=
  match nextRequest (bankPort s t b).lastGranted (bankPort s t b).requests with
  | none => .next s
  | some r => .next (onPort t b (fun p => { p with
      lastGranted := r.master
      requests := removeFirst (fun x => x.master == r.master) p.requests
      grants := p.grants + 1
      waitCycles := p.waitCycles + BitVec.ofNat 64 waited
      conflicts := p.conflicts + BitVec.ofNat 64 conflicts }) s)

/-- SRAM_WRITEBACK (R116, R225): a corrected byte is written back, unless a write has covered it. -/
def execSramWriteback (a : Nat) (s : State) : Out := .next { s with scratch.fixing := setErase s.scratch.fixing a }

end Sys2Proof.Machine
end

