-- ==== Sys2Proof/Machine/Desc.lean ====
section
/-! DEFINITION. The allocation and descriptor tables: creation, freeing, reading (R231, R232, R242, R246, R316). -/
namespace Sys2Proof.Machine

/-! Allocations (R231, R232). -/

/-- The valid allocation of an identifier. -/
def allocOf (s : State) (id : Nat) : Option (Nat × Alloc) :=
  match tabFind? s.tables.allocs (id % 16384) with
  | some a => if a.valid && allocIdent (id % 16384) a == id && id % 16384 != 0 then some (id % 16384, a) else none
  | none => none

/-- Row 4 of R232: overlap with a valid allocation of the space, or with a range still being filled. -/
def overlaps (s : State) (scratch : Bool) (base size : Nat) : Bool :=
  s.tables.allocs.any (fun e => e.2.valid && e.2.scratch == scratch && decide (e.2.base < base + size) &&
    decide (base < e.2.base + e.2.size)) ||
  s.protect.fills.any fun f => f.scratch == scratch && decide (f.base < base + size) && decide (base < f.base + f.size)

/-- Row 3 of R232: the range lies wholly in one bank of R216. -/
def inOneBank (base size : Nat) : Bool :=
  match resolve base, resolve (base + (size - 1)) with
  | some (.normal, a), some (.normal, b) => tileOf a == tileOf b && bankOf a == bankOf b
  | _, _ => false

/-- Rows 2 to 4 of R232. -/
def rangeCheck (s : State) (scratch : Bool) (base size : Nat) : Option Half :=
  if !scratch && (base % 2048 != 0 || size % 2048 != 0 || size == 0 || decide (capacity s < base + size)) then some 0x2022
  else if scratch && (base % 64 != 0 || size % 64 != 0 || size == 0 || !inOneBank base size) then some 0x2023
  else if overlaps s scratch base size then some 0x2021
  else none

def tenantOf (s : State) (t : Nat) : Tenant := tabGet {} s.tenancy.tenants t
def tenantValid (s : State) (t : Nat) : Bool := (tenantOf s t).valid

/-- The lowest free table index. -/
def freeAllocIndex (s : State) : Option Nat := lowestFree s.tables.allocs (·.valid) 16383 1

/-- An entry made valid under the generation its index has. -/
def installAlloc (i : Nat) (a : Alloc) (s : State) : State :=
  { s with tables.allocs := tabPut s.tables.allocs i { a with valid := true, gen := (tabGet ({} : Alloc) s.tables.allocs i).gen } }

/-- Rows of R232 and R316 for a creation by the host, busy apart. -/
def hostAllocCheck (s : State) : Half :=
  let t := s.tables.allocTenant.toNat
  if s.tables.allocSealed && (t == 0 || !tenantValid s t) then 0x4821
  else match rangeCheck s s.tables.allocSpace s.tables.allocBase.toNat s.tables.allocSize.toNat with
    | some code => code
    | none => if (freeAllocIndex s).isNone then 0x2020 else 0

def tableBusy (s : State) : Bool := s.tables.desc.busy || s.tables.alloc.busy

def refuseAlloc (s : State) : State := { s with tables.alloc := s.tables.alloc.refuse 0x2026 }
def beginAlloc (code : Half) (s : State) : State := { s with tables.alloc := s.tables.alloc.begin code, tables.newAllocId := none }

/-- ALLOC_CREATE (R232, R246, R316). -/
def allocCreate (s : State) : State :=
  if tableBusy s then refuseAlloc s
  else
    let code := hostAllocCheck s
    let s1 := beginAlloc code s
    match code == 0, freeAllocIndex s with
    | true, some i =>
      let s2 := installAlloc i { base := s.tables.allocBase.toNat, size := s.tables.allocSize.toNat,
                                 scratch := s.tables.allocSpace, tenant := s.tables.allocTenant.toNat,
                                 sealed := s.tables.allocSealed } s1
      { s2 with tables.newAllocId := some (BitVec.ofNat 20 (allocIdent i (tabGet {} s2.tables.allocs i))) }
    | _, _ => s1

/-- R129, R232: VALID clears and the generation rises; stacked memory is filled before reuse, scratchpad at once. -/
def freeAlloc (i : Nat) (s : State) : State :=
  let a := tabGet ({} : Alloc) s.tables.allocs i
  let s1 : State := { s with tables.allocs := tabPut s.tables.allocs i { gen := (a.gen + 1) % 64 } }
  if a.scratch then zeroScratch a.base a.size s1
  else { s1 with protect.fills := s1.protect.fills ++ [{ scratch := false, base := a.base, size := a.size }] }

/-- ALLOC_FREE (R232). -/
def allocFree (s : State) : State :=
  if tableBusy s then refuseAlloc s
  else match allocOf s s.tables.allocId.toNat with
    | none => beginAlloc 0x2005 s
    | some (i, a) =>
      if a.image.isSome then beginAlloc 0x2025 s
      else if a.descRefs ≠ 0 then beginAlloc 0x2024 s
      else freeAlloc i (beginAlloc 0 s)

/-- R231: the words of an entry. -/
def allocWords (i : Nat) (a : Alloc) : List Quad :=
  [BitVec.ofNat 64 (a.base * 2 ^ 24 + bitNat a.scratch * 2 ^ 23), BitVec.ofNat 64 (a.size * 2 ^ 24),
   BitVec.ofNat 64 (allocIdent i a * 2 ^ 44 + a.tenant % 256 * 2 ^ 36 + bitNat a.sealed * 2 ^ 35 + bitNat a.readOnly * 2 ^ 34 +
     bitNat a.image.isSome * 2 ^ 33 + bitNat a.valid * 2 ^ 32 + a.descRefs % 65536 * 2 ^ 16), 0]

/-- ALLOC_QUERY (R246). -/
def allocQuery (s : State) : State :=
  if tableBusy s then refuseAlloc s
  else match allocOf s s.tables.allocId.toNat with
    | none => { beginAlloc 0x2005 s with tables.entry := [0, 0, 0, 0] }
    | some (i, a) => { beginAlloc 0 s with tables.entry := allocWords i a }

/-! Descriptors (R242). -/

/-- Row 5 of R242. -/
def codebookOk (s : State) (d : Desc) : Bool :=
  (isCoded d.fmt == (d.cbId != 0)) &&
    (d.cbId == 0 || s.load.images.any fun e => (tabFind? e.2.codebooks d.cbId).isSome) &&
    (d.tableId == 0 || s.load.images.any fun e => (tabFind? e.2.scaleTables d.tableId).isSome)

/-- The footprint lies wholly inside the allocation (row 16). -/
def footprintOk (d : Desc) (a : Alloc) : Bool :=
  decide ((a.base : Int) ≤ d.footprint.1) && decide (d.footprint.2 ≤ (a.base : Int) + a.size)

/-- Rows 8 to 15 of R242: the shape of accesses. -/
def accessCheck (d : Desc) : Option Half :=
  let strict : Desc := { d with scratch := false }
  if !d.windowsOk then some 0x200D
  else if !d.scratch && (d.swizzle != 0 || d.view != 0) || d.view != 0 && d.read then some 0x200E
  else if !d.nibbleOk then some 0x2010
  else if !d.inner && !d.strictOk then some 0x2008
  else if d.inner && !d.innerOk then some 0x2009
  else if d.write && d.dims.any (fun j => d.stride j == 0 && decide (1 < d.size j)) then some 0x200B
  else if d.write && !d.orderedOk then some 0x200C
  else if d.write && !d.scratch && !strict.strictOk then some 0x200A
  else none

/-- Rows 3 to 19 of R242 for a descriptor created by the host (`image` none) or by an image of a tenant. -/
def descCheck (s : State) (codebooks : Desc → Bool) (image : Option Nat) (d : Desc) : Option Half :=
  if !d.encodingOk then some 0x2001
  else if !d.shapeOk then some 0x2003
  else if !codebooks d then some 0x2004
  else match allocOf s d.alloc with
    | none => some 0x2005
    | some (_, a) =>
      if a.scratch ≠ d.scratch then some 0x2006
      else match accessCheck d with
        | some code => some code
        | none =>
          if !footprintOk d a then some 0x2007
          else if d.write && a.readOnly then some 0x2011
          else if image.isNone && a.sealed && (d.read || d.write && a.tenant == 0) then some 0x2012
          else match image with
            | some t => if a.tenant ≠ t then some 0x2013 else none
            | none => none

/-- A descriptor enters the table and raises DESC_REFS of its allocation. -/
def addDesc (i : Nat) (words : BitVec 512) (image : Option Nat) (s : State) : State :=
  let k := (decodeDesc words).alloc % 16384
  let a := tabGet ({} : Alloc) s.tables.allocs k
  { s with
    tables.descs := tabPut s.tables.descs i { words := words, image := image }
    tables.allocs := tabPut s.tables.allocs k { a with descRefs := a.descRefs + 1 } }

def dropDesc (i : Nat) (s : State) : State :=
  match descEntry s i with
  | none => s
  | some e =>
    let k := (decodeDesc e.words).alloc % 16384
    let a := tabGet ({} : Alloc) s.tables.allocs k
    { s with
      tables.descs := tabDel s.tables.descs i
      tables.allocs := tabPut s.tables.allocs k { a with descRefs := a.descRefs - 1 } }

def stagedWords (s : State) : BitVec 512 := BitVec.ofNat 512 (leValue ((s.tables.stage.map quadBytes).flatten))

def refuseDesc (s : State) : State := { s with tables.desc := s.tables.desc.refuse 0x2026 }
def beginDesc (code : Half) (s : State) : State := { s with tables.desc := s.tables.desc.begin code }

/-- DESC_CREATE (R242). -/
def descCreate (s : State) : State :=
  let i := s.tables.descIndex.toNat
  if tableBusy s then refuseDesc s
  else if i = 0 ∨ (descEntry s i).isSome then beginDesc 0x2002 s
  else match descCheck s (codebookOk s) none (decodeDesc (stagedWords s)) with
    | some code => beginDesc code s
    | none => addDesc i (stagedWords s) none (beginDesc 0 s)

/-- R242: a copy or DMA command that names the descriptor has been accepted and is not complete. -/
def namedByCopy (s : State) (i : Nat) : Bool :=
  s.tables.copies.any (fun c => c.srcIndex == i || c.dstIndex == i) ||
    s.port.dma.any fun e => e.2.phase != .free && (e.2.copied.getD 0 0).toNat / 2 ^ 48 == i

/-- DESC_DESTROY (R242). -/
def descDestroy (s : State) : State :=
  let i := s.tables.descIndex.toNat
  if tableBusy s then refuseDesc s
  else if (descEntry s i).isNone then beginDesc 0x2002 s
  else if namedByCopy s i then beginDesc 0x2030 s
  else dropDesc i (beginDesc 0 s)

/-- DESC_READ (R242). -/
def descRead (s : State) : State :=
  let i := s.tables.descIndex.toNat
  if tableBusy s then refuseDesc s
  else match descEntry s i with
    | none => beginDesc 0x2002 s
    | some e => { beginDesc 0 s with tables.stage := (List.range 8).map fun k => BitVec.ofNat 64 (descWord e.words k) }

end Sys2Proof.Machine
end

