-- ==== Sys2Proof/Machine/Kv.lean ====
section
/-! DEFINITION. The key-value cache: sequences, blocks and their references, the prefix table, swapping (R274-R285, R292). -/
namespace Sys2Proof.Machine

/-- R116: the operation that reads the entry fails: it meets an uncorrectable byte, or the entry is already poisoned. -/
def hubBad (k : HubEntry) (h : HubSram) (s : State) : Bool := h.bad || s.protect.hubMarks.contains k

/-- R116: an entry is poisoned by an uncorrectable byte, which 0x3012 records. -/
def poisonEntry (k : HubEntry) (s : State) : State :=
  let s1 := reportFree 0x3012 subjServing subjServing s
  { s1 with
    protect.hubUncorrectable := s1.protect.hubUncorrectable + 1
    protect.hubMarks := if s1.protect.hubMarks.contains k then s1.protect.hubMarks else s1.protect.hubMarks ++ [k] }

/-- R116: an operation reads an entry of the hub tables; a poisoned entry fails it with 0x3005. -/
def hubUse (k : HubEntry) (h : HubSram) (s : State) : State :=
  let s1 : State := { s with protect.hubCorrected := s.protect.hubCorrected + BitVec.ofNat 64 h.corrected }
  let s2 := if h.bad then poisonEntry k s1 else s1
  if hubBad k h s then reportFree 0x3005 subjServing subjServing s2 else s2

/-- An entry written anew carries no poison (DESIGN CHOICE, log entry 98). -/
def cleanEntry (k : HubEntry) (s : State) : State :=
  { s with protect.hubMarks := s.protect.hubMarks.filter (· != k) }

def counterLow (s : State) : Word := BitVec.ofNat 32 s.us

def setSeq (q : Nat) (e : Sequence) (s : State) : State := { s with kv.seqs := tabPut s.kv.seqs q e }
def onSeq (q : Nat) (f : Sequence → Sequence) (s : State) : State := setSeq q (f (seqEntry s q)) s
def setBlock (n : Nat) (b : Block) (s : State) : State := { s with kv.blocks := tabPut s.kv.blocks n b }

def sequenceCount (s : State) : Nat := match cacheDecl s with | some d => d.sequences | none => 0
def maxBlocks (s : State) : Nat := match cacheDecl s with | some d => d.maxBlocks | none => 0

/-! Blocks (R282). -/

def retained (s : State) : Tab Block := s.kv.blocks.filter fun e => e.2.refs == 0
def freeBlocks (s : State) : Nat := s.kv.total - s.kv.blocks.length - s.kv.filling.length

/-- The lowest-numbered free block. -/
def lowestFreeBlock (s : State) : Nat → Nat → Option Nat
  | 0, _ => none
  | f + 1, n =>
    if (tabFind? s.kv.blocks n).isSome || s.kv.filling.contains n then lowestFreeBlock s f (n + 1) else some n

/-- The retained block with the smallest LAST_USE, the lowest number on a tie. -/
def oldestRetained : Tab Block → Option (Nat × Block)
  | [] => none
  | e :: t => match oldestRetained t with
    | some x => if x.2.lastUse.toNat < e.2.lastUse.toNat then some x else some e
    | none => some e

def newBlock (s : State) (tenant : Nat) : Block := { refs := 1, tenant := tenant, lastUse := counterLow s }

/-- R282: an allocation; none where neither a free nor a retained block is found. -/
def allocBlock (tenant : Nat) (s : State) : Option (Nat × State) :=
  match lowestFreeBlock s s.kv.total 0 with
  | some n => some (n, setBlock n (newBlock s tenant) s)
  | none => match oldestRetained (retained s), cacheDecl s with
    | some (n, b), some d =>
      some (n, setBlock n (newBlock s tenant)
        (closePages n (zeroRange (blockAddress s d n) (blockBytes d) (clearPrefix b s))))
    | _, _ => none

/-- R282: a block loses one reference. -/
def dropRef (n : Nat) (s : State) : State :=
  match tabFind? s.kv.blocks n with
  | none => s
  | some b =>
    if 1 < b.refs then setBlock n { b with refs := b.refs - 1 } s
    else if b.tree then setBlock n { b with refs := 0 } s
    else startBlockFill n s

def addRef (n : Nat) (s : State) : State :=
  match tabFind? s.kv.blocks n with
  | none => s
  | some b => setBlock n { b with refs := b.refs + 1 } s

def dropPage (p : PageEntry) (s : State) : State :=
  match p with
  | .resident n => dropRef n s
  | .swapped k => { s with kv.slots := tabDel s.kv.slots k }

def dropPages (ps : List PageEntry) (s : State) : State := ps.foldl (fun s p => dropPage p s) s

/-- The sectors of a block, as the controllers read them. -/
def readBlock (d : CacheDecl) (n : Nat) (s : State) : List Sector × State :=
  readSectors (blockBytes d / 32) (blockAddress s d n) s

/-- R29, R82, R84: some pair of a block has to wait. -/
def blockWaits (s : State) (d : CacheDecl) (n : Nat) : Bool := rangeWaits s (blockAddress s d n) (blockBytes d)

/-- R273: the pages that are open in a block are open in its copy. -/
def copyPages (old new : Nat) (s : State) : State :=
  let ks := (s.kv.pageOpen.filter fun k => k / 4096 == old).map fun k => 4096 * new + k % 4096
  { s with kv.pageOpen := ks.foldl setInsert s.kv.pageOpen }

/-- R282: copy on write of entry `p` of a sequence. -/
def copyBlock (q p old : Nat) (s : State) : Option State :=
  match allocBlock (seqEntry s q).tenant s, cacheDecl s with
  | some (n, s1), some d =>
    let r := readBlock d old s1
    let s2 := writeSectors (blockAddress s1 d n) r.1 r.2
    let s3 := dropRef old (onSeq q (fun e => { e with pages := e.pages.set p (.resident n) }) (copyPages old n s2))
    some { s3 with kv.copies := s3.kv.copies + 1 }
  | _, _ => none

/-- BLOCK_FILL_DONE (R282): the fill of a released block ends. -/
def execBlockFillDone (n : Nat) (s : State) : Out :=
  match s.kv.filling.contains n, cacheDecl s with
  | true, some d =>
    .next { zeroRange (blockAddress s d n) (blockBytes d) s with kv.filling := setErase s.kv.filling n }
  | _, _ => .next s

/-! Requests that name a sequence (R276, R298). -/

def requestSeq (r : Request) : Nat := (r.words.getD 0 0).toNat / 2 ^ 48

/-- R298: a request moves to CLOSING. -/
def closeRequest (i : Nat) (why : EndWhy) (code : Half) (s : State) : State :=
  onRequest i (fun r => { r with state := .closing, why := why, code := code }) s

def closeNaming (q : Nat) (s : State) : State :=
  (s.serve.requests.filter fun e => requestSeq e.2 == q && (e.2.state == .admitting || e.2.state == .ready)).foldl
    (fun s e => closeRequest e.1 .failed 0x4C09 s) s

/-- R28: the appends of a step on a sequence are no longer in flight. -/
def dropAppends (q : Nat) (s : State) : State := { s with kv.appends := s.kv.appends.filter fun a => a.seq != q }

/-- R276: a sequence becomes FREE. -/
def freeSeq (q : Nat) (s : State) : State :=
  closeNaming q (cleanEntry (.seq q) (dropAppends q (setSeq q {} (dropPages (seqEntry s q).pages s))))

/-- A sequence's activity has ended: `next`, or FREE where a release waited. -/
def settleSeq (q : Nat) (next : SeqState) (s : State) : State :=
  if (seqEntry s q).releasePending then freeSeq q s else onSeq q (fun e => { e with state := next }) s

def getStep (s : State) : StepId → Option Step
  | .lc => s.serve.lcStep
  | .be => s.serve.beStep
  | .chunk => s.serve.chunk

def setStep (w : StepId) (x : Option Step) (s : State) : State :=
  match w with
  | .lc => { s with serve.lcStep := x }
  | .be => { s with serve.beStep := x }
  | .chunk => { s with serve.chunk := x }

/-- R308: the failure report taken first stands. -/
def failStep (w : StepId) (code : Half) (s : State) : State :=
  setStep w ((getStep s w).map fun x => { x with failure := some (x.failure.getD code) }) s

/-- The STEPPING request of a sequence fails; the other requests of its step do not (R310). -/
def failMember (q : Nat) (code : Half) (s : State) : State :=
  match steppingSlot s q with
  | some i => failRequest i code s
  | none => s

/-- Every step that needs a sequence fails. -/
def failSteps (q : Nat) (code : Half) (s : State) : State :=
  [StepId.lc, .be, .chunk].foldl (fun s w =>
    match getStep s w with
    | some x =>
      if x.members.any fun m => requestSeq (tabGet {} s.serve.requests m.1) == q then failStep w code s else s
    | none => s) s

/-! Shared prefixes (R280, R281). -/

/-- R280. -/
def prefixRoot (tenant slot version : Nat) : Quad := BitVec.ofNat 64 (tenant * 2 ^ 48 + slot * 2 ^ 32 + version)

def hashStep (h : Quad) (token : Word) : Quad :=
  let x := (h ^^^ token.zeroExtend 64) * 0x9e3779b97f4a7c15
  x ^^^ (x >>> 31)

/-- R280: the hash of a block. -/
def blockHash (parent : Quad) (tokens : List Word) : Quad := tokens.foldl hashStep parent

def probes (h : Quad) : List Nat := (List.range 8).map fun j => (h.toNat / 2 ^ 44 + j) % 1048576

/-- R281: the entry a lookup matches. -/
def prefixFind (s : State) (h : Quad) (tenant : Nat) : Option PrefixEntry :=
  ((probes h).filterMap (tabFind? s.kv.prefixes)).find? fun e => e.hash == h && e.tenant == tenant

/-- R281: the blocks of a prompt that match, in order, and the last hash matched. -/
def prefixMatch (s : State) (tenant : Nat) : Nat → Quad → List Word → List Nat × Quad × Nat
  | 0, h, _ => ([], h, 0)
  | n + 1, h, ts =>
    let x := blockHash h (ts.take 64)
    match prefixFind s x tenant with
    | none => ([], h, 1)
    | some e =>
      let r := prefixMatch s tenant n x (ts.drop 64)
      (e.block :: r.1, r.2.1, r.2.2 + 1)

/-- R281 at arming: the sequence takes the blocks that match; answers the positions matched. -/
def prefixLookup (q : Nat) (prompt : List Word) (s : State) : Nat × State :=
  let e := seqEntry s q
  let root := prefixRoot e.tenant e.adapterSlot e.adapterVersion
  let m := prefixMatch s e.tenant ((prompt.length - 1) / 64) root prompt
  let s1 := m.1.foldl (fun s n => match tabFind? s.kv.blocks n with
    | some b => setBlock n { b with refs := b.refs + 1, lastUse := counterLow s } s
    | none => s) s
  let s2 := setSeq q { e with
    pages := m.1.map .resident, length := 64 * m.1.length, chain := m.2.1, tail := [] } s1
  (64 * m.1.length, { s2 with
    kv.lookups := s2.kv.lookups + BitVec.ofNat 64 m.2.2
    kv.hits := s2.kv.hits + BitVec.ofNat 64 m.1.length })

/-- R281 at step completion: a full block enters the prefix table or stays private. -/
def prefixInsert (n : Nat) (h : Quad) (s : State) : State :=
  match tabFind? s.kv.blocks n with
  | none => s
  | some b =>
    let present := ((probes h).filterMap (tabFind? s.kv.prefixes)).any fun e => e.hash == h
    match present || b.poisoned, (probes h).find? fun i => (tabFind? s.kv.prefixes i).isNone with
    | false, some i =>
      setBlock n { b with tree := true, prefixIndex := i }
        { s with kv.prefixes := tabPut s.kv.prefixes i { hash := h, tenant := b.tenant, block := n } }
    | _, _ => { s with kv.dropped := s.kv.dropped + 1 }

/-- R279, R281: one position is held, with its token. -/
def appendToken (q : Nat) (token : Word) (s : State) : State :=
  let e := seqEntry s q
  let tail := e.tail ++ [token]
  if tail.length < 64 then setSeq q { e with length := e.length + 1, tail := tail } s
  else
    let h := blockHash e.chain tail
    let s1 := setSeq q { e with length := e.length + 1, tail := [], chain := h } s
    match residentBlock s q (e.length / 64) with
    | some n => prefixInsert n h s1
    | none => s1

/-- R279: the blocks wholly at or above LENGTH are released. -/
def trimPages (q : Nat) (s : State) : State :=
  let e := seqEntry s q
  let keep := ceilDiv e.length 64
  setSeq q { e with pages := e.pages.take keep } (dropPages (e.pages.drop keep) s)

/-! Sequence operations (R276, R277). -/

def refuseSeq (s : State) : State := { s with kv.op := s.kv.op.refuse 0x4C0B }
def beginSeq (code : Half) (s : State) : State := { s with kv.op := s.kv.op.begin code }

/-- A sequence operation that is taken: busy, the entry it reads and its arguments apart. -/
def seqOperation (k : HubEntry) (h : HubSram) (f : State → State) (s : State) : State :=
  if s.kv.op.busy then refuseSeq s
  else if hubBad k h s then beginSeq 0x3005 (hubUse k h s)
  else f (hubUse k h s)

/-- The entry that SEQ_ID names. -/
def namedSeq (s : State) : HubEntry := .seq s.kv.seqId.toNat

/-- The lowest FREE number below SEQUENCES; an entry that is poisoned does not read as FREE (log entry 98). -/
def freeSeqNumber (s : State) : Option Nat :=
  (List.range (sequenceCount s)).find? fun q =>
    (seqEntry s q).state == .free && !s.protect.hubMarks.contains (.seq q)

/-- CREATE (R277). -/
def seqCreate (h : HubSram) (s0 : State) : State :=
  seqOperation (.seq ((freeSeqNumber s0).getD 0)) h (fun s =>
    match freeSeqNumber s with
    | none => beginSeq 0x4C0A s
    | some q => beginSeq 0 (setSeq q { state := .idle, tenant := s.kv.seqTenant.toNat }
        { s with kv.seqId := BitVec.ofNat 16 q })) s0

/-- FORK (R277). -/
def seqFork (h : HubSram) (s0 : State) : State :=
  seqOperation (namedSeq s0) h (fun s =>
    let e := seqEntry s s.kv.seqId.toNat
    if e.state ≠ .idle then beginSeq 0x4C09 s
    else match freeSeqNumber s with
      | none => beginSeq 0x4C0A s
      | some q =>
        let s1 := e.pages.foldl (fun s p => match p with | .resident n => addRef n s | .swapped _ => s) s
        beginSeq 0 (setSeq q { e with lastStep := 0 } { s1 with kv.seqId := BitVec.ofNat 16 q })) s0

/-- RELEASE (R276, R277). -/
def seqRelease (h : HubSram) (s0 : State) : State :=
  seqOperation (namedSeq s0) h (fun s =>
    let q := s.kv.seqId.toNat
    match (seqEntry s q).state with
    | .free => beginSeq 0x4C09 s
    | .idle | .swapped => beginSeq 0 (failMember q 0x4C09 (freeSeq q s))
    | _ => beginSeq 0 (onSeq q (fun e => { e with releasePending := true }) s)) s0

def seqStateCode : SeqState → Nat
  | .free => 0
  | .idle => 1
  | .stepping => 2
  | .swappingOut => 3
  | .swapped => 4
  | .swappingIn => 5

/-- R275. -/
def seqWords (e : Sequence) : List Quad :=
  [BitVec.ofNat 64 (seqStateCode e.state * 2 ^ 61 + bitNat e.releasePending * 2 ^ 60 + e.tenant % 256 * 2 ^ 52 +
      e.adapterSlot % 2048 * 2 ^ 41 + e.adapterVersion % 65536 * 2 ^ 25 + e.length % 2 ^ 21),
   e.chain, BitVec.ofNat 64 (e.lastStep.toNat * 2 ^ 32 + e.pages.length % 32768), 0]

/-- QUERY (R277). -/
def seqQuery (h : HubSram) (s0 : State) : State :=
  seqOperation (namedSeq s0) h (fun s =>
    let q := s.kv.seqId.toNat
    if sequenceCount s ≤ q then beginSeq 0x4C09 s
    else { beginSeq 0 s with kv.entry := seqWords (seqEntry s q) }) s0

/-! Swapping (R283-R285). -/

/-- R284. -/
def slotBytes (d : CacheDecl) : Nat := 65536 * ceilDiv (8960 + blockBytes d) 65536
def slotCount (s : State) : Nat := match cacheDecl s with | some d => s.port.swapSize.toNat / slotBytes d | none => 0
def freeSlot (s : State) : Option Nat := lowestFree s.kv.slots (fun _ => true) (slotCount s) 0

/-- Sequences selected for a step in preparation. -/
def preparing (s : State) : List Nat :=
  ([StepId.lc, .be, .chunk].filterMap (getStep s)).foldl (fun acc x =>
    if x.prepared then acc else acc ++ x.members.map fun m => requestSeq (tabGet {} s.serve.requests m.1)) []

def isLatencyCritical (s : State) (tenant : Nat) : Bool := tabGet 0 s.serve.classOf tenant == 1

/-- R283: the order of victims. -/
def victimBefore (s : State) (a b : Nat × Sequence) : Bool :=
  let ka := bitNat (isLatencyCritical s a.2.tenant)
  let kb := bitNat (isLatencyCritical s b.2.tenant)
  if ka ≠ kb then decide (ka < kb)
  else if a.2.lastStep ≠ b.2.lastStep then decide (a.2.lastStep.toNat < b.2.lastStep.toNat)
  else decide (a.1 < b.1)

def firstBy {α : Type} (lt : α → α → Bool) : List α → Option α
  | [] => none
  | x :: t => match firstBy lt t with
    | some y => if lt y x then some y else some x
    | none => some x

/-- R283: the next victim. -/
def victim (s : State) : Option Nat :=
  (firstBy (victimBefore s)
    (s.kv.seqs.filter fun e => e.2.state == .idle && !(preparing s).contains e.1)).map (·.1)

def noBlock (s : State) : Bool := freeBlocks s == 0 && (retained s).isEmpty

/-- R282, R283: a swap-out is under way, or the fill of a released block: blocks come free without another victim. -/
def blocksComing (s : State) : Bool := !s.kv.filling.isEmpty || s.kv.seqs.any fun e => e.2.state == .swappingOut

/-- R283: between steps below low water, or while a step in preparation finds no block. -/
def swapWanted (s : State) : Bool :=
  decide (freeBlocks s + (retained s).length < s.kv.lowBlocks.toNat) || (!(preparing s).isEmpty && noBlock s)

/-- The entries of a sequence that a swap-out writes: REFS 1 and TREE 0. -/
def privateEntries (s : State) (q : Nat) : List (Nat × Nat) :=
  ((List.range (seqEntry s q).pages.length).zip (seqEntry s q).pages).filterMap fun e => match e.2 with
    | .resident n => match tabFind? s.kv.blocks n with
      | some b => if b.refs = 1 ∧ b.tree = false then some (e.1, n) else none
      | none => none
    | .swapped _ => none

/-- The page codebooks that the page headers of a block name, ascending. -/
def blockCodebooks (s : State) (d : CacheDecl) (n : Nat) : List Nat :=
  (List.range (2 * d.layers)).foldl (fun acc i =>
    let cb := bits (leValue (peekBytes s (blockAddress s d n + headerOffset d (i / 2) (i % 2)) 8)) 59 48
    if cb = 0 then acc else setInsert acc cb) []

/-- R284: a slot's 256 bytes of header, then what AES-256-GCM makes of the copies and the block: byte `i` of the tag and
the ciphertext is `sealed i`. -/
def slotImageBytes (q tenant entry codebooks blockLen : Nat) (nonce : Quad) (sealed : Nat → Byte) : List Byte :=
  leBytes 8 (2 ^ 48 + q * 2 ^ 32 + tenant * 2 ^ 24) ++ leBytes 8 (entry * 2 ^ 32 + codebooks) ++
    leBytes 12 (nonce.toNat * 2 ^ 32) ++ leBytes 4 0 ++ (List.range 16).map sealed ++ leBytes 208 0 ++
    (List.range (8704 + blockLen)).map fun i => sealed (16 + i)

/-- Runs of bytes of equal poison, each with its address: what poison holds is zeros (R120). -/
def hostRuns (a : Nat) : List (Byte × Bool) → List (Nat × List Byte × Bool)
  | [] => []
  | (b, p) :: t => match hostRuns (a + 1) t with
    | (a', bs, q) :: rest => if p = q then (a, b :: bs, p) :: rest else (a, [b], p) :: (a', bs, q) :: rest
    | [] => [(a, [b], p)]

/-- Writes of runs of equal poison, the poisoned ones with EP (R120). -/
def sendRuns (a : Nat) (bs : List (Byte × Bool)) (s : State) : State :=
  (hostRuns a bs).foldl (fun s x => sendMsg (.write (BitVec.ofNat 64 x.1) x.2.1 x.2.2) s) s

/-- R120: the bytes of a block's image, those of a poisoned sector as zeros. -/
def blockImage : List Sector → List Byte → List (Byte × Bool)
  | [], bs => bs.map fun b => (b, false)
  | x :: xs, bs => ((bs.take 32).map fun b => if x.poison then (0, true) else (b, false)) ++ blockImage xs (bs.drop 32)

/-- R120, R284: a slot's image; the block begins at byte 8,960. -/
def slotImage (xs : List Sector) (bytes : List Byte) : List (Byte × Bool) :=
  (bytes.take 8960).map (fun b => (b, false)) ++ blockImage xs (bytes.drop 8960)

/-- R283, R284, R120: one block of a victim goes to the lowest free slot; the Bool says it held poison. -/
def swapOutBlock (d : CacheDecl) (q : Nat) (e : Nat × Nat) (slot : Nat) (s : State) : State × Bool :=
  let addr := s.port.swapBase + BitVec.ofNat 64 (slot * slotBytes d)
  let f := takeFree s
  let tenant := (seqEntry s q).tenant
  let bytes := slotImageBytes q tenant e.1 (blockCodebooks s d e.2).length (blockBytes d) s.kv.nonce (Config.freeSealed f.1)
  let r := readBlock d e.2 f.2
  let s1 := sendRuns addr.toNat (slotImage r.1 bytes) r.2
  let s2 : State := { s1 with kv.nonce := s1.kv.nonce + 1 }
  if r.1.any (·.poison) then (reportFree 0x3002 subjPort subjPort s2, true)
  else
    let s3 : State := { s2 with
      kv.slots := tabPut s2.kv.slots slot { seq := q, entry := e.1, tenant := tenant, nonce := s.kv.nonce }
      kv.swapOuts := s2.kv.swapOuts + 1 }
    (dropRef e.2 (onSeq q (fun k => { k with pages := k.pages.set e.1 (.swapped slot) }) s3), false)

/-- The blocks of a victim, up to the first that holds poison. -/
def swapOutBlocks (d : CacheDecl) (q : Nat) : List (Nat × Nat) → State → State × Bool
  | [], s => (s, false)
  | e :: t, s => match freeSlot s with
    | none => (s, false)
    | some k =>
      let r := swapOutBlock d q e k s
      if r.2 then r else swapOutBlocks d q t r.1

/-- R283: no swap slot is free: recorded, and the step in preparation fails, unless blocks are coming without one. -/
def noSwapSlot (s : State) : State :=
  let s1 := reportFree 0x4C04 subjServing subjServing s
  [StepId.lc, .be, .chunk].foldl (fun s w =>
    match getStep s w with
    | some x => if !x.prepared && noBlock s && !blocksComing s then failStep w 0x4C02 s else s
    | none => s) s1

/-- SWAP_OUT (R283); while the tenant keys are missing it finds no slot (R430). -/
def execSwapOut (s : State) : Out :=
  match swapWanted s, victim s, cacheDecl s with
  | true, some q, some d =>
    let es := privateEntries s q
    if slotCount s < s.kv.slots.length + es.length ∨ s.lut.keysDrawn = false then .next (noSwapSlot s)
    else if es.any fun e => blockWaits s d e.2 then .next (deferCommand .swapOut s)
    else
      let r := swapOutBlocks d q es (onSeq q (fun e => { e with state := .swappingOut }) s)
      if r.2 then .next (reportFree 0x4C05 subjServing subjServing (freeSeq q r.1)) else .next r.1
  | _, _, _ => .next s

/-- SWAP_OUT_DONE (R276). -/
def execSwapOutDone (q : Fin 65536) (s : State) : Out :=
  if (seqEntry s q).state = .swappingOut then .next (settleSeq q .swapped s) else .next s

/-- The codebook of a copy in the layout of R53. -/
def codebookOfBytes (bs : List Byte) : Codebook :=
  let h := leValue (bs.take 8)
  { cbId := bits h 63 48, entriesLog2 := bits h 47 40, entryFmt := bits h 39 38, zeroIndex := bits h 31 24,
    anchorIndex := bits h 23 16, entries := (leWords 2 (2 ^ min 8 (bits h 47 40)) (bs.drop 32)).map (BitVec.ofNat 16) }

/-- R285 check 4: one page header of the block against the declaration. -/
def headerAgrees (d : CacheDecl) (block : List Byte) (i : Nat) : Bool :=
  let h := leValue ((block.drop (headerOffset d (i / 2) (i % 2))).take 8)
  let f := pageFmt d (i / 2) (i % 2)
  bits h 63 62 == f.fmt && bits h 61 61 == i % 2 && bits h 10 0 == i / 2 && bits h 18 15 == d.heads - 1 &&
    bits h 59 48 == (if f.fmt = 2 then 0 else f.cb)

/-- R285 check 4: a copy equals the loaded codebook of its CB_ID. -/
def copyAgrees (s : State) (bs : List Byte) : Bool :=
  let b := codebookOfBytes bs
  match ((servingImage s).bind fun i => tabFind? i.2.codebooks b.cbId) with
  | some a => memCodebook s a == b
  | none => false

/-- R55: the entries that lie before the end of the object's bytes. -/
def wholeCodebook (bs : List Byte) : Codebook :=
  let b := codebookOfBytes bs
  { b with entries := b.entries.take ((bs.length - 32) / 2) }

/-- R55: the first failing row of one codebook, after those with the identifiers `seen`. -/
def codebookFault (seen : List Nat) (b : Codebook) : Option Half :=
  match codebookCheck b with
  | some c => some c
  | none => if b.cbId = 0 ∨ seen.contains b.cbId then some 0x1C09 else if 4095 ≤ seen.length then some 0x1C0A else none

/-- R55: one codebook at a time, in order. -/
def codebooksFault : List Nat → List Codebook → Option Half
  | _, [] => none
  | seen, b :: t => match codebookFault seen b with
    | some c => some c
    | none => codebooksFault (b.cbId :: seen) t

/-- R285: the first failing check, with the R55 code of check 3. -/
def slotCheck (s : State) (d : CacheDecl) (q p : Nat) (x : SlotImage) : Option (Half × Half) :=
  if x.ended ≠ .ok then some (0x4C12, 0)
  else if x.format ≠ 1 ∨ x.sequence ≠ q ∨ x.tenant ≠ (seqEntry s q).tenant ∨ x.entry ≠ p then some (0x4C11, 0)
  else if !x.tagOk then some (0x4C12, 0)
  else match codebooksFault [] (x.copies.map fun bs => wholeCodebook (bs.take 544)) with
    | some c => some (0x4C13, c)
    | none =>
      if x.copies.all (copyAgrees s) && (List.range (2 * d.layers)).all (headerAgrees d x.block) then none
      else some (0x4C14, 0)

/-- R372: what the port records of a read of host memory that did not end well. -/
def noteRead (e : ReadEnd) (s : State) : State :=
  match e with
  | .ok => s
  | .failed => reportFree 0x6010 subjPort subjPort { s with port.readFailures := s.port.readFailures + 1 }
  | .poisoned => reportFree 0x6011 subjPort subjPort s

/-- The next tag, and the request for a read of host memory. -/
def sendRead (addr : Quad) (length : Nat) (s : State) : Nat × State :=
  let t := s.port.nextTag
  (t, sendMsg (.read t addr length) { s with port.nextTag := (t + 1) % 16384 })

/-- A read as requests of at most 4,096 bytes each (R364), none of which is kept outstanding. -/
def sendReads : Nat → Quad → Nat → State → State
  | 0, _, _, s => s
  | f + 1, addr, n, s =>
    if n = 0 then s else sendReads f (addr + 4096) (n - 4096) (sendRead addr (min n 4096) s).2

def firstSwapped (e : Sequence) : Option (Nat × Nat) :=
  ((List.range e.pages.length).zip e.pages).findSome? fun x => match x.2 with
    | .swapped k => some (x.1, k)
    | .resident _ => none

def sectorsOfBytes : Nat → List Byte → List Sector
  | 0, _ => []
  | n + 1, bs => { data := sectorOfBytes (bs.take 32), poison := false } :: sectorsOfBytes n (bs.drop 32)

/-- R285: a check failed: the sequence is released, the steps that need it fail. -/
def swapInFails (q n : Nat) (c : Half × Half) (s : State) : State :=
  let s1 : State := if c.1 = 0x4C13 then { s with kv.swapCause := c.2 } else s
  failSteps q c.1 (freeSeq q (reportFree c.1 subjServing subjServing (dropRef n s1)))

/-- R273: the pages whose header the restored block holds are open in it. -/
def writtenPages (d : CacheDecl) (n : Nat) (block : List Byte) (s : State) : State :=
  let is := (List.range (2 * d.layers)).filter fun i => leValue ((block.drop (headerOffset d (i / 2) (i % 2))).take 8) != 0
  { s with kv.pageOpen := (is.map fun i => 4096 * n + i).foldl setInsert s.kv.pageOpen }

/-- SWAP_IN (R285): the first swapped entry of a sequence is restored from its slot. -/
def execSwapIn (q : Fin 65536) (x : SlotImage) (s : State) : Out :=
  if (seqEntry s q).state ≠ .swappingIn ∨ s.port.busMasterEnable = false ∨ s.port.d3hot = true then .next s
  else match firstSwapped (seqEntry s q), cacheDecl s, allocBlock (seqEntry s q).tenant s with
    | some (p, k), some d, some (n, s1) =>
      if blockWaits s d n then .next (deferCommand (.swapIn q x) s)
      else
        let s2 := noteRead x.ended
          (sendReads (slotBytes d / 4096) (s1.port.swapBase + BitVec.ofNat 64 (k * slotBytes d)) (slotBytes d) s1)
        match slotCheck s2 d q p x with
        | some c => .next (swapInFails q n c s2)
        | none =>
          let s3 := writeSectors (blockAddress s2 d n) (sectorsOfBytes (blockBytes d / 32) x.block) s2
          .next (onSeq q (fun e => { e with pages := e.pages.set p (.resident n) })
            { writtenPages d n x.block s3 with kv.slots := tabDel s3.kv.slots k, kv.swapIns := s3.kv.swapIns + 1 })
    | _, _, _ => .next s

/-- SWAP_IN_DONE (R276). -/
def execSwapInDone (q : Fin 65536) (s : State) : Out :=
  if (seqEntry s q).state = .swappingIn ∧ (firstSwapped (seqEntry s q)).isNone then
    let pending := (seqEntry s q).releasePending
    let s1 := settleSeq q .idle s
    .next (if pending then failMember q 0x4C09 s1 else s1)
  else .next s

end Sys2Proof.Machine
end

