-- ==== Sys2Proof/Machine/Tenancy.lean ====
section
/-! DEFINITION. Tenants: the table, budgets, charges, slowdown sums, adapter resolution (R313-R319, R328, R330, R332). -/
namespace Sys2Proof.Machine

def onTenant (t : Nat) (f : Tenant → Tenant) (s : State) : State :=
  { s with tenancy.tenants := tabPut s.tenancy.tenants t (f (tenantOf s t)) }

/-- BALANCE as its bits: within the range of a 32-bit two's-complement value (R318). -/
def clampBalance (v : Int) : Word := BitVec.ofInt 32 (max (-2147483648) (min v 2147483647))

/-! Tenant operations (R314). -/

def refuseTenant (s : State) : State := { s with tenancy.tenantOp := s.tenancy.tenantOp.refuse 0x4845 }
def beginTenant (code : Half) (s : State) : State := { s with tenancy.tenantOp := s.tenancy.tenantOp.begin code }

def tenantOperation (h : HubSram) (f : Tenant → Tenant) (s : State) : State :=
  let t := s.tenancy.tenantArg.toNat
  if s.tenancy.tenantOp.busy then refuseTenant s
  else if hubBad (.tenant t) h s then beginTenant 0x3005 (hubUse (.tenant t) h s)
  else if t = 0 then beginTenant 0x4801 (hubUse (.tenant t) h s)
  else beginTenant 0 (onTenant t f (hubUse (.tenant t) h s))

/-- TENANT_ENABLE (R314, R318). -/
def tenantEnable (h : HubSram) (s : State) : State :=
  tenantOperation h (fun x => { x with valid := true, balance := clampBalance x.cap.toNat }) s

/-- TENANT_DISABLE (R314). -/
def tenantDisable (h : HubSram) (s : State) : State := tenantOperation h (fun x => { x with valid := false }) s

/-! Budgets (R317-R319). -/

/-- R318: one refill. -/
def refillTenant (x : Tenant) : Tenant :=
  if x.valid then { x with balance := clampBalance (min (x.cap.toNat : Int) (x.balance.toInt + x.refill.toNat)) } else x

/-- REFILL (R318): tenant 0 is fixed (R313). -/
def execRefill (s : State) : Out :=
  .next { s with tenancy.tenants := s.tenancy.tenants.map fun e => if e.1 = 0 then e else (e.1, refillTenant e.2) }

/-- R317: a charge; tenant 0 is never charged (R313). -/
def chargeTenant (t units : Nat) (s : State) : State :=
  if t = 0 then s
  else onTenant t (fun x => { x with
    balance := clampBalance (x.balance.toInt - units), charged := x.charged + BitVec.ofNat 64 units }) s

/-- R319. -/
def hasBudget (s : State) (t : Nat) : Bool := decide (0 < (tenantOf s t).balance.toInt)

/-! Slowdown (R328). -/

/-- An estimate in 1/256 µs, with 1.5 µs for each wave, to the nearest µs, halves upward. -/
def roundEstimate (x waves : Nat) : Nat := (x + 384 * waves + 128) / 256

def addSlowdown (t solo measured : Nat) (s : State) : State :=
  onTenant t (fun x => { x with soloSum := x.soloSum + solo, measuredSum := x.measuredSum + measured }) s

def saturate (w v : Nat) : BitVec w := BitVec.ofNat w (min v (2 ^ w - 1))

/-- R328: the window of one tenant closes. -/
def closeSlowdown (x : Tenant) : Tenant :=
  { x with
    slowdown := if x.soloSum = 0 then 0 else saturate 16 (x.measuredSum * 256 / x.soloSum)
    soloUs := saturate 32 x.soloSum
    measuredUs := saturate 32 x.measuredSum
    soloSum := 0
    measuredSum := 0 }

/-- SLOWDOWN_WINDOW_CLOSE (R328). -/
def execSlowdownWindowClose (s : State) : Out :=
  .next { s with tenancy.tenants := s.tenancy.tenants.map fun e => (e.1, closeSlowdown e.2) }

/-! Adapters: resolution (R330, R332). -/

def adapter (s : State) (a : Nat) : Adapter := tabGet {} s.tenancy.adapters a
def onAdapter (a : Nat) (f : Adapter → Adapter) (s : State) : State :=
  { s with tenancy.adapters := tabPut s.tenancy.adapters a (f (adapter s a)) }

def adapterSlots (s : State) : Nat := match servingImage s with | some e => e.2.manifest.adapterSlots | none => 0

/-- R332: the CURRENT slot that a slot number resolves to. -/
def resolveAdapter (s : State) : Nat → Nat → Option Nat
  | 0, _ => none
  | f + 1, a =>
    if adapterSlots s ≤ a then none
    else match (adapter s a).state, (adapter s a).successor with
      | .current, _ => some a
      | .retiring, some b => resolveAdapter s f b
      | _, _ => none

/-- R330: requests that are not FREE and bound to the slot. -/
def inFlight (s : State) (a : Nat) : Nat :=
  (s.serve.requests.filter fun e => e.2.state != .free && e.2.adapter == some a).length

/-- R330: a RETIRING slot whose IN_FLIGHT is 0 moves to FILLING. -/
def retireIdle (s : State) : State :=
  { s with tenancy.adapters := s.tenancy.adapters.map fun e =>
      if e.2.state == .retiring && inFlight s e.1 == 0 then (e.1, { e.2 with state := .filling }) else e }

/-- Slots of a tenant that are not FREE. -/
def activeOf (s : State) (t : Nat) : Nat :=
  (s.serve.requests.filter fun e => e.2.state != .free && (e.2.words.getD 0 0).toNat / 2 ^ 40 % 256 == t).length

end Sys2Proof.Machine
end

