-- ==== Sys2Proof/Machine/Requests.lean ====
section
/-! DEFINITION. Requests: arming, admission, selection of steps and chunks, completion, failure, delivery (R295-R311). -/
namespace Sys2Proof.Machine

/-! Fields of a slot (R295). -/

def request (s : State) (i : Nat) : Request := tabGet {} s.serve.requests i
def slotField (ws : List Quad) (w hi lo : Nat) : Nat := bits (ws.getD w 0).toNat hi lo

def Request.tenant (r : Request) : Nat := slotField r.words 0 47 40
def Request.drafts' (r : Request) : Nat := slotField r.words 0 27 24
def Request.irqMode (r : Request) : Nat := slotField r.words 0 23 22
def Request.vector (r : Request) : Nat := slotField r.words 0 21 16
def Request.maxTokens (r : Request) : Nat := slotField r.words 1 20 0
def Request.penaltyWindow (r : Request) : Nat := slotField r.words 3 8 0
def Request.endTokens (r : Request) : List Word :=
  [slotField r.words 10 31 0, slotField r.words 10 63 32, slotField r.words 11 31 0, slotField r.words 11 63 32].map
    (BitVec.ofNat 32) |>.filter (· != 0xFFFFFFFF)


/-! Arming (R296, R297, R315). -/

def reservedZero (ws : List Quad) (arm : Quad) : Bool :=
  slotField ws 0 15 0 == 0 && slotField ws 1 31 21 == 0 && slotField ws 3 63 53 == 0 && slotField ws 3 31 18 == 0 &&
    slotField ws 9 31 11 == 0 && (ws.drop 12).all (· == 0) && bits arm.toNat 47 2 == 0

def fp (ws : List Quad) (w hi lo : Nat) : Val := ofFp32 (BitVec.ofNat 32 (slotField ws w hi lo))
def fpExp (ws : List Quad) (w hi lo : Nat) : Nat := slotField ws w hi lo / 2 ^ 23 % 256

/-- A positive normal FP32 field. -/
def positiveNormal (ws : List Quad) (w hi lo : Nat) : Bool :=
  slotField ws w hi lo / 2 ^ 31 == 0 && fpExp ws w hi lo != 0 && fpExp ws w hi lo != 255

/-- Row 6 of R297. -/
def samplingOk (ws : List Quad) : Bool :=
  (positiveNormal ws 7 63 32 || slotField ws 7 63 32 % 2 ^ 31 == 0) &&
    Val.zero.lt (fp ws 7 31 0) && !Val.one.lt (fp ws 7 31 0) &&
    !(fp ws 8 63 32).isNan && !(fp ws 8 63 32).lt .zero && (fp ws 8 63 32).lt .one &&
    positiveNormal ws 8 31 0 && fpExp ws 9 63 32 != 255 && decide (slotField ws 9 10 0 ≤ 1024) &&
    decide (slotField ws 3 17 9 ≤ 256) && decide (slotField ws 3 8 0 ≤ 256)

def draftLayer : List Decl → Nat
  | [] => 0
  | .draft n :: _ => n
  | _ :: t => draftLayer t

def vocabulary : List Decl → Nat
  | [] => 0
  | .vocabulary v :: _ => v
  | _ :: t => vocabulary t

def servingDecls (s : State) : List Decl := match servingImage s with | some e => e.2.decls | none => []
def vocabularySize (s : State) : Nat := vocabulary (servingDecls s)

def aligned (ws : List Quad) (w a : Nat) : Bool := (ws.getD w 0).toNat % a == 0

/-- R315, R332: what an adapter field resolves to: slot and version; none where nothing resolves. -/
def binding (s : State) (a : Nat) : Option (Option Nat × Nat × Nat) :=
  if a = 0x7FF then some (none, 0x7FF, 0)
  else match resolveAdapter s 1024 a with
    | some b => some (some b, b, (adapter s b).version)
    | none => none

/-- Row 11 of R297: the checks of R315. -/
def tenantCheck (s : State) (ws : List Quad) (q : Nat) : Half :=
  let t := slotField ws 0 47 40
  let e := seqEntry s q
  if t = 0 ∨ tenantValid s t = false then 0x4801
  else if slotField ws 0 39 39 = 0 ∧ (tenantOf s t).lcAllowed = false then 0x4802
  else if (tenantOf s t).maxActive ≤ activeOf s t then 0x4803
  else match binding s (slotField ws 0 38 28) with
    | none => 0x4810
    | some (b, slot, version) =>
      if b.isSome ∧ (adapter s slot).tenant ≠ t ∧ (adapter s slot).tenant ≠ 0 then 0x4811
      else if 0 < e.length ∧ (e.adapterSlot ≠ slot ∨ e.adapterVersion ≠ version) then 0x4812
      else 0

/-- R297: the first failing row, 0 when all pass. -/
def armCheck (s : State) (i : Nat) (ws : List Quad) (arm : Quad) : Half :=
  let q := slotField ws 0 63 48
  let e := seqEntry s q
  let n := slotField ws 3 52 32
  let d := slotField ws 0 27 24
  if (servingImage s).isNone then 0x4001
  else if !reservedZero ws arm then 0x4003
  else if sequenceCount s ≤ q ∨ e.state = .free then 0x4C09
  else if s.serve.requests.any fun x => x.1 != i && x.2.state != .free && requestSeq x.2 == q then 0x4004
  else if slotField ws 0 47 40 ≠ e.tenant then 0x4005
  else if !samplingOk ws then 0x4006
  else if 8 < d ∨ (d ≠ 0 ∧ draftLayer (servingDecls s) = 0) then 0x4007
  else if slotField ws 1 20 0 = 0 ∨ 1048576 < slotField ws 1 20 0 ∨ (n = 0 ∧ e.length = 0) then 0x4008
  else if 64 * maxBlocks s < e.length + n then 0x4009
  else if !(aligned ws 2 4 && aligned ws 4 4 && aligned ws 5 64 && aligned ws 6 8) then 0x400A
  else tenantCheck s ws q

/-- R297: a refused arm. -/
def armRefuse (i : Nat) (gen code : Half) (s : State) : State :=
  let s1 := onRequest i (fun r => { r with gen := gen, code := code }) s
  signalVector s.serve.refusalVector (raisedBit s.serve.refused { s1 with serve.refused := true })

/-- Words 0-30 of a slot as the host left them. -/
def slotCopy (s : State) (i : Nat) : List Quad := (List.range 31).map fun w => tabGet 0 s.serve.slotWords (32 * i + w)

def addHostRead (p : ReadFor) (addr : Quad) (length : Nat) (s : State) : State :=
  let r := sendRead addr length s
  { r.2 with port.reads := r.2.port.reads ++ [{ tag := r.1, purpose := p, addr := addr, length := length }] }

/-- R364: a read as requests of at most 4,096 bytes each. -/
def addHostReads (p : ReadFor) : Nat → Quad → Nat → State → State
  | 0, _, _, s => s
  | f + 1, addr, n, s =>
    if n = 0 then s else addHostReads p f (addr + 4096) (n - 4096) (addHostRead p addr (min n 4096) s)

/-- R298: an accepted arm: the sequence is bound, and the prompt and the bias table are asked for. -/
def armAccept (i : Nat) (gen : Half) (ws : List Quad) (s : State) : State :=
  let q := slotField ws 0 63 48
  let b := (binding s (slotField ws 0 38 28)).getD (none, 0x7FF, 0)
  let s1 := if (seqEntry s q).length = 0 then
      onSeq q (fun e => { e with adapterSlot := b.2.1, adapterVersion := b.2.2 }) s else s
  let dl := slotField ws 1 63 32
  let r : Request := {
    state := .admitting, gen := gen, code := (request s i).code, words := ws,
    bestEffort := slotField ws 0 39 39 == 1, armUs := s.us, armOrder := s.serve.armCount,
    deadline := if dl = 0 then none else some (s.us + dl), adapter := b.1, length := (seqEntry s q).length,
    promptRead := if slotField ws 3 52 32 = 0 then some true else none,
    biasRead := if slotField ws 3 17 9 = 0 then some true else none }
  let s2 : State := { s1 with
    serve.requests := tabPut s1.serve.requests i r
    serve.armCount := s.serve.armCount + 1
    serve.classOf := tabPut s1.serve.classOf (slotField ws 0 47 40) (1 - slotField ws 0 39 39) }
  let s3 := if slotField ws 3 52 32 = 0 then s2 else
    addHostReads (.prompt i) (slotField ws 3 52 32 / 1024 + 1) (ws.getD 2 0) (4 * slotField ws 3 52 32) s2
  if slotField ws 3 17 9 = 0 then s3 else addHostReads (.bias i) 1 (ws.getD 6 0) (8 * slotField ws 3 17 9) s3

def ignoreArm (s : State) : State := { s with serve.armsIgnored := s.serve.armsIgnored + 1 }

/-- R260: the release of an arm word. -/
def armRelease (s : State) : State := { s with order.moduleReleases := s.order.moduleReleases + 1 }

/-- R296: a completed write of an arm word. -/
def armWord (i : Nat) (w : Quad) (h : HubSram) (s0 : State) : State :=
  let s := armRelease { s0 with serve.slotWords := tabSet 0 s0.serve.slotWords (32 * i + 31) w }
  let r := request s i
  let gen : Half := w.extractLsb' 48 16
  if w.getLsbD 0 && !w.getLsbD 1 && gen == r.gen + 1 && r.state == .free then
    let s1 := hubUse (.slot i) h s
    if hubBad (.slot i) h s then armRefuse i gen 0x3005 s1
    else
      let ws := slotCopy s i
      let code := armCheck s1 i ws w
      if code = 0 then armAccept i gen ws s1 else armRefuse i gen code s1
  else if w.getLsbD 1 && !w.getLsbD 0 && gen == r.gen && r.state != .free then
    onRequest i (fun r => { r with cancelled := true, bestEffort := true }) s
  else ignoreArm s

/-! Admission (R281, R298, R304). -/

def keepHistory (l : List Word) : List Word := l.drop (l.length - 256)

/-- R298: the prompt and the bias table have been read and checked. -/
def admitRequest (i : Nat) (h : HubSram) (s : State) : State :=
  let r := request s i
  let v := vocabularySize s
  let q := requestSeq r
  if r.promptRead = some false ∨ r.biasRead = some false then closeRequest i .failed 0x4011 s
  else if r.prompt.any (fun t => decide (v ≤ t.toNat)) || r.bias.any (fun b => decide (v ≤ b.1.toNat)) then
    closeRequest i .failed 0x4010 s
  else
    let s1 := hubUse (.seq q) h s
    if hubBad (.seq q) h s then closeRequest i .failed 0x3005 s1
    else
      let m := if (seqEntry s1 q).length = 0 then prefixLookup q r.prompt s1 else (0, s1)
      let f := takeFree m.2
      let pending := r.prompt.getLast?.getD (Config.freeWord f.1)
      let s2 := onRequest i (fun r => { r with
        state := .ready, matched := m.1, length := (seqEntry m.2 q).length, pendingToken := some pending
        history := keepHistory r.prompt })
        (if r.prompt.isEmpty then f.2 else m.2)
      if !r.bestEffort && 0 < (request s2 i).promptLeft then { s2 with tenancy.lastLcPrompt := s2.us } else s2

/-- ADMISSION_DONE (R298). -/
def execAdmissionDone (i : Fin 4096) (h : HubSram) (s : State) : Out :=
  let r := request s i
  if r.state = .admitting ∧ r.promptRead.isSome ∧ r.biasRead.isSome then .next (admitRequest i h s) else .next s

/-! Selection (R320-R322) and preparation (R278, R283, R285, R292). -/

/-- Class, budget, state and sequence allow the request's selection. -/
def selectable (s : State) (be : Bool) (r : Request) : Bool :=
  r.state == .ready && r.bestEffort == be && hasBudget s r.tenant &&
    ((seqEntry s (requestSeq r)).state == .idle || (seqEntry s (requestSeq r)).state == .swapped)

/-- R321: the order of a class. -/
def selectBefore (s : State) (be : Bool) (a b : Nat × Request) : Bool :=
  let turn (r : Request) : Nat := (r.tenant + 255 - s.serve.beLast) % 256
  if be then
    if turn a.2 = turn b.2 then decide (a.2.armOrder < b.2.armOrder) else decide (turn a.2 < turn b.2)
  else match a.2.deadline, b.2.deadline with
    | some x, some y => if x = y then decide (a.2.armOrder < b.2.armOrder) else decide (x < y)
    | some _, none => true
    | none, some _ => false
    | none, none => decide (a.2.armOrder < b.2.armOrder)

def insertSorted {α : Type} (lt : α → α → Bool) (x : α) : List α → List α
  | [] => [x]
  | y :: t => if lt x y then x :: y :: t else y :: insertSorted lt x t

def sortList {α : Type} (lt : α → α → Bool) (l : List α) : List α := l.foldr (insertSorted lt) []

/-- R302, R321: the positions a request would take. -/
def wanted (r : Request) : Nat := if r.drafts' = 0 then 1 else max 1 (min r.drafts' (r.maxTokens - r.generated))

/-- R321: requests are added in order while positions remain. -/
def fillStep : Nat → List (Nat × Request) → List (Nat × Nat)
  | _, [] => []
  | left, e :: t => if left = 0 then [] else
    let k := min (wanted e.2) left
    (e.1, k) :: fillStep (left - k) t

/-- R276, R321: the sequence of a selected request. -/
def planSeq (q : Nat) (s : State) : State :=
  match (seqEntry s q).state with
  | .idle => onSeq q (fun e => { e with state := .stepping }) s
  | .swapped => onSeq q (fun e => { e with state := .swappingIn }) s
  | _ => s

def memberSeq (s : State) (m : Nat × Nat) : Nat := requestSeq (request s m.1)

def corePlan : List Decl → List Nat
  | [] => []
  | .corePlan cs :: _ => cs
  | _ :: t => corePlan t

/-- A test holds, or waits for, a channel or core (R395): steps that need it wait. -/
def underTest (s : State) (onChannels : Bool) (cores : List Nat) : Bool :=
  (s.lut.tests ++ s.lut.forced).any fun x => match x.subject with
    | .channel _ | .unit _ => onChannels
    | .core g => cores.contains g

def servingPhrases (s : State) : Bool := match servingImage s with | some e => e.2.manifest.phrases | none => false

/-- R206: the code with which a core stopped, as returned to the step; 0x9045 stops no core. -/
def stopCode (s : State) (g : Nat) : Option Half :=
  let c := (core s g).stepCode
  if c = 0 ∨ c = 0x9045 then none else some c

def lowerCode (a b : Option Half) : Option Half :=
  match a, b with
  | some x, some y => if y.toNat < x.toNat then some y else some x
  | some x, none => some x
  | none, y => y

/-- R308: the lowest code that the cores of a plan have returned. -/
def coresCode (s : State) (cs : List Nat) : Option Half := cs.foldl (fun a g => lowerCode a (stopCode s g)) none

def clearCodes (cs : List Nat) (s : State) : State := cs.foldl (fun s g => onCore g (fun c => { c with stepCode := 0 }) s) s

/-- R17, R308: a code that a failing part of a step reports: one of the tables', and none of severity info. -/
def failureCode (c : Half) : Bool :=
  match severityOf c with
  | some .info => false
  | some _ => true
  | none => [0x8020, 0x9020, 0x4C02, 0x4C03].contains c.toNat

/-- R212, R390: a core of a plan is fenced, or its tile is tripped. -/
def planFault (s : State) (cs : List Nat) : Option Half :=
  if cs.any fun g => tileTripped s (g / 16) then some 0x7020
  else if cs.any fun g => (core s g).fenced then some 0x9020 else none

/-- The code with which a step fails that needs a tripped tile (R390), a fenced unit (R150) or a fenced core (R212). -/
def launchFault (s : State) (w : StepId) : Option Half :=
  if w = .chunk then planFault s (corePlan (servingDecls s))
  else if !servingPhrases s then none
  else if (List.range 8).any (tileTripped s) then some 0x7020
  else if s.lut.fencedUnits.any fun u => !s.spread.applied.contains (u / 16) then some 0x8020 else none

/-- R150, R212, R308, R390: the step just launched fails where it needs a part out of use. -/
def checkLaunch (w : StepId) (s : State) : State :=
  match launchFault s w with
  | some c => failStep w c s
  | none => s

/-- A step is in flight with its members. -/
def launchStep (w : StepId) (ms : List (Nat × Nat)) (s : State) : State :=
  let x : Step :=
    { members := ms, selectedUs := s.us, waves := 0, positions := sumNat (ms.map (·.2)),
      maxLength := ms.foldl (fun n m => max n (seqEntry s (memberSeq s m)).length) 0 }
  ms.foldl (fun s m => planSeq (memberSeq s m)
    (onRequest m.1 (fun r => { r with state := .stepping, drafts := [], draws := [], failCode := none }) s)) (setStep w (some x) s)

/-- How far a step's blocks are: all ready, none to be found for an entry, or one behind the hold of its banks. -/
inductive Readiness | ready | noBlock | waits
  deriving DecidableEq, Repr

/-- R29, R82: the next block that an allocation would take, or `old`, which it would copy, is behind a hold. -/
def allocWaits (old : Option Nat) (tenant : Nat) (s : State) : Bool :=
  match cacheDecl s, allocBlock tenant s with
  | some d, some (n, _) => (old.any fun k => blockWaits s d k || blockWaits s d n) ||
      (lowestFreeBlock s s.kv.total 0).isNone && blockWaits s d n
  | _, _ => false

/-- R278: the block of page entry `p` stands ready for appends. -/
def readyEntry (q p : Nat) (s : State) : State × Readiness :=
  let e := seqEntry s q
  if e.pages.length ≤ p then
    if allocWaits none e.tenant s then (s, .waits)
    else match allocBlock e.tenant s with
      | some (n, s1) => (onSeq q (fun e => { e with pages := e.pages ++ [.resident n] }) s1, .ready)
      | none => (s, .noBlock)
  else match e.pages[p]? with
    | some (.resident n) =>
      if (tabGet ({} : Block) s.kv.blocks n).refs ≤ 1 then (s, .ready)
      else if allocWaits (some n) e.tenant s then (s, .waits)
      else match copyBlock q p n s with
        | some s1 => (s1, .ready)
        | none => (s, .noBlock)
    | _ => (s, .ready)

def readyEntries (q : Nat) : List Nat → State → State × Readiness
  | [], s => (s, .ready)
  | p :: t, s =>
    let r := readyEntry q p s
    if r.2 = .ready then readyEntries q t r.1 else r

/-- The page entries that `k` positions from LENGTH on append into. -/
def entriesOf (n k : Nat) : List Nat := if k = 0 then [] else (List.range ((n + k - 1) / 64 + 1 - n / 64)).map (n / 64 + ·)

def readyMembers : List (Nat × Nat) → State → State × Readiness
  | [], s => (s, .ready)
  | m :: t, s =>
    let r := readyEntries m.1 (entriesOf (seqEntry s m.1).length m.2) s
    if r.2 = .ready then readyMembers t r.1 else r

/-- Members that have not failed, as sequence and positions, the lower-numbered sequence first (R292). -/
def liveMembers (s : State) (x : Step) : List (Nat × Nat) :=
  sortList (fun a b => decide (a.1 < b.1))
    ((x.members.filter fun m => (request s m.1).failCode.isNone).map fun m => (memberSeq s m, m.2))

/-- R288: the groups of a sequence's first position, in the order of R286: page by page, the heads in turn; 4,096 a round. -/
def routeGroups (q n : Nat) (s : State) : State :=
  match cacheDecl s with
  | none => s
  | some d => (List.range (min 4096 (ceilDiv n 64 * d.heads))).foldl (fun s g =>
      match residentBlock s q (g / d.heads) with
      | some b => putRoute g (blockAddress s d b) (g % d.heads) s
      | none => s) s

/-- R288: before layer 0 of a decode step the score-routing tables receive the groups of its first position. -/
def routeFirst (w : StepId) (ms : List (Nat × Nat)) (s : State) : State :=
  match w, ms with
  | .chunk, _ => s
  | _, [] => s
  | _, m :: _ => routeGroups m.1 ((seqEntry s m.1).length + 1) s

/-- R283: an allocation finds no block: the step waits for a victim's swap-out or for the blocks of one that was, and fails
where there is no victim or no slot for it. -/
def wantBlock (w : StepId) (s : State) : State :=
  if !blocksComing s && ((victim s).isNone || (freeSlot s).isNone) then failStep w 0x4C02 s else s

/-- R285: a sequence that is swapping in finds no block. -/
def restoreStuck (q : Nat) (s : State) : Bool :=
  (seqEntry s q).state == .swappingIn && (firstSwapped (seqEntry s q)).isSome && noBlock s

/-- R278, R283: a step in preparation goes as far as it can. -/
def prepare (w : StepId) (s0 : State) : State :=
  match getStep s0 w with
  | none => s0
  | some x =>
    if x.prepared || x.failure.isSome then s0
    else
      let s := (liveMembers s0 x).foldl (fun s m => planSeq m.1 s) s0
      let ms := liveMembers s x
      if ms.any fun m => restoreStuck m.1 s then wantBlock w s
      else if ms.any fun m => (seqEntry s m.1).state != .stepping then s
      else if ms.any fun m => decide (64 * maxBlocks s < (seqEntry s m.1).length + m.2) then failStep w 0x4C03 s
      else
        let r := readyMembers ms s
        match r.2 with
        | .ready => setStep w (some { x with prepared := true }) (routeFirst w ms r.1)
        | .noBlock => wantBlock w r.1
        | .waits => r.1

def classStep (be : Bool) : StepId := if be then .be else .lc

/-- R116: the step reads the page tables of its members; an uncorrectable byte is taken in the first member's entry. -/
def readTables (w : StepId) (h : HubSram) (s : State) : State :=
  match getStep s w with
  | none => s
  | some x =>
    let ks := x.members.map fun m => HubEntry.seq (memberSeq s m)
    match ks.find? fun k => s.protect.hubMarks.contains k, ks with
    | some k, _ => failStep w 0x3005 (hubUse k h s)
    | none, k :: _ => if h.bad then failStep w 0x3005 (hubUse k h s) else hubUse k h s
    | none, [] => s

/-- R321: a new step of a class. -/
def selectStep (be : Bool) (h : HubSram) (s : State) : State :=
  let l := sortList (selectBefore s be) (s.serve.requests.filter fun e => selectable s be e.2 && e.2.promptLeft == 0)
  match fillStep 8 l with
  | [] => s
  | m :: t =>
    let s1 : State := if be then { s with serve.beLast := (request s m.1).tenant } else s
    prepare (classStep be) (readTables (classStep be) h (checkLaunch (classStep be) (launchStep (classStep be) (m :: t) s1)))

/-- STEP_SELECT (R321): a step is selected, or the one in preparation goes on. -/
def execStepSelect (be : Bool) (h : HubSram) (s : State) : Out :=
  match getStep s (classStep be) with
  | some _ => .next (prepare (classStep be) (readTables (classStep be) h s))
  | none => if underTest s true [] then .next s else .next (selectStep be h s)

/-- A job is RUNNING, SAVING or RESTORING. -/
def jobHolds (s : State) : Bool :=
  s.tenancy.jobs.any fun e => e.2.state == .running || e.2.state == .saving || e.2.state == .restoring

/-- The request that the next chunk serves, latency-critical first. -/
def chunkRequest (s : State) : Option (Nat × Request) :=
  let pick (be : Bool) := firstBy (selectBefore s be)
    (s.serve.requests.filter fun e => selectable s be e.2 && decide (0 < e.2.promptLeft))
  match pick false with
  | some e => some e
  | none => pick true

/-- PREFILL_CHUNK_SELECT (R321, R212): `count` positions, as the plan of the image divides the prompt. -/
def execPrefillChunkSelect (count : Nat) (s : State) : Out :=
  match s.serve.chunk with
  | some _ => .next (prepare .chunk s)
  | none =>
    if jobHolds s || underTest s false (corePlan (servingDecls s)) then .next s
    else match chunkRequest s with
      | none => .next s
      | some (i, r) =>
        let s1 := launchStep .chunk [(i, max 1 (min count r.promptLeft))] s
        .next (prepare .chunk (checkLaunch .chunk s1))

/-! The sampling unit (R302-R304). -/

/-- Logits of a position as the unit holds them. -/
def logitKey (be : Bool) (p : Nat) : Nat := if be then 8 + p else p

def negInf : Val := .inf true

/-- R304: the penalty set before draw `i` of a run. -/
def penaltySet (r : Request) (i : Nat) : List Word :=
  let h := r.history ++ r.drafts.take i
  h.drop (h.length - r.penaltyWindow)

/-- R303: one adjusted logit. -/
def adjust (r : Request) (penalties : List Word) (t : Nat) (z : Word) : Val :=
  let w := BitVec.ofNat 32 t
  let z1 := match (r.bias.filter fun b => b.1 == w).getLast? with
    | some b => roundFp32 ((ofFp32 z).add (ofFp32 b.2))
    | none => ofFp32 z
  let rep := fp r.words 8 31 0
  let z2 := if penalties.contains w then
      let x := if Val.zero.lt z1 then roundFp32 (divVal z1 rep) else roundFp32 (z1.mul rep)
      roundFp32 (x.sub (fp r.words 9 63 32))
    else z1
  if z2.isNan then negInf else z2

/-- The largest value and its lowest token. -/
def largest : List (Nat × Val) → Option (Nat × Val)
  | [] => none
  | x :: t => match largest t with
    | some y => if x.2.lt y.2 then some y else some x
    | none => some x

/-- R303: the top_k tokens of largest value, ties to the lower token, in descending order. -/
def topTokens (k : Nat) (l : List (Nat × Val)) : List (Nat × Val) :=
  l.foldl (fun acc x => (insertSorted (fun a b => b.2.lt a.2) x acc).take k) []

/-- The shortest leading run whose running sum reaches `limit`, the whole list where none does. -/
def leadingRun (limit : Val) : Val → List (Nat × Val × Val) → List (Nat × Val × Val)
  | _, [] => []
  | sum, c :: t =>
    let x := sum.add c.2.2
    if x.lt limit then c :: leadingRun limit x t else [c]

/-- The first token at which the running sum of the exponentials exceeds `limit`, the last where none does. -/
def drawFrom (limit : Val) : Val → List (Nat × Val × Val) → Nat
  | _, [] => 0
  | _, [c] => c.1
  | sum, c :: t =>
    let x := sum.add c.2.1
    if limit.lt x then c.1 else drawFrom limit x t

def sumVals (l : List Val) : Val := l.foldl Val.add .zero

/-- R303 from temperature on: candidates with exponential and probability, the run, the draw with `u` of 53 bits. -/
def drawToken (ws : List Quad) (zmax : Val) (zs : List (Nat × Val)) (u : Nat) : Nat :=
  let y (z : Val) : Val := roundFp32 (divVal (roundFp32 (z.sub zmax)) (fp ws 7 63 32))
  let total := roundFp32 ((zs.foldl (fun (a : Acc) x => a.apply (mergeExp (y x.2))) {}).value)
  let k := slotField ws 9 10 0
  let cand := (topTokens (if k = 0 then 1024 else k) zs).map fun x =>
    let e := mergeExp (y x.2)
    (x.1, e, roundFp32 (divVal e total))
  let floor := (fp ws 8 63 32).mul ((cand.head?.map (·.2.2)).getD .zero)
  let run := leadingRun (fp ws 7 31 0) .zero (cand.filter fun c => !c.2.2.lt floor)
  let mass := roundFp32 (sumVals (run.map (·.2.1)))
  drawFrom (roundFp32 ((Val.fin u (-53)).mul mass)) .zero run

/-- R303: the token of one position; none where every adjusted logit is −infinity. -/
def sampleToken (ws : List Quad) (zs : List (Nat × Val)) (draw : Quad) : Option Nat :=
  let infs := zs.filter fun x => x.2 == .inf false
  if !infs.isEmpty then (infs[draw.toNat % infs.length]?).map (·.1)
  else match largest zs with
    | none => none
    | some (t, zmax) =>
      if zmax = negInf then none
      else if slotField ws 7 63 32 % 2 ^ 31 = 0 then some t
      else some (drawToken ws zmax zs (draw.toNat / 2 ^ 11))

/-- The member of a step that holds position `p`, with the index of the position in its run. -/
def memberAt : List (Nat × Nat) → Nat → Option ((Nat × Nat) × Nat)
  | [], _ => none
  | m :: t, p => if p < m.2 then some (m, p) else memberAt t (p - m.2)

/-- Whether the next token of a run is due: a draft in its order, or a draw while every earlier draft was accepted. -/
def sampleDue (r : Request) (k i : Nat) (draft : Bool) : Bool :=
  if draft then r.drafts' != 0 && r.drafts.length == i && r.draws.isEmpty
  else r.draws.length == i && (r.drafts' == 0 || (r.drafts.length == k && r.draws == r.drafts.take i))

def dropLogits (key : Nat) (s : State) : State :=
  { s with
    serve.logits := tabDel s.serve.logits key
    serve.poisonedLogits := setErase s.serve.poisonedLogits key }

/-- R302, R303: a position's logits become one token of its request. -/
def sampleAt (be : Bool) (key slot i : Nat) (draft : Bool) (m : Tab Word) (s : State) : State :=
  let r := request s slot
  let s0 := dropLogits key s
  if s.serve.poisonedLogits.contains key then
    failRequest slot 0x3001 (reportFree 0x3001 subjSampling subjSampling s0)
  else
    let logits := m.filter fun e => decide (e.1 < vocabularySize s)
    let count (s : State) : State := { s with serve.samples := s.serve.samples + 1 }
    if draft then
      let zs := logits.map fun e => (e.1, let z := ofFp32 e.2; if z.isNan then negInf else z)
      let t := ((largest zs).map (·.1)).getD 0
      count (onRequest slot (fun r => { r with drafts := r.drafts ++ [BitVec.ofNat 32 t] }) s0)
    else
      let zs := logits.map fun e => (e.1, adjust r (penaltySet r i) e.1 e.2)
      let f := takeFree s0
      match sampleToken r.words zs (Config.freeDraw f.1) with
      | none => failStep (classStep be) 0x4020 (reportFree 0x4020 subjSampling subjSampling s0)
      | some t => count (onRequest slot (fun r => { r with draws := r.draws ++ [BitVec.ofNat 32 t] }) f.2)

/-- SAMPLE (R302, R303): position `p` of the step of a class, for a draft pass or for the target. -/
def execSample (be : Bool) (p : Fin 8) (draft : Bool) (s : State) : Out :=
  match getStep s (classStep be), tabFind? s.serve.logits (logitKey be p) with
  | some x, some m =>
    match memberAt x.members p with
    | some (e, i) =>
      let r := request s e.1
      if x.prepared && x.failure.isNone && r.failCode.isNone && decide (vocabularySize s ≤ (m.filter fun e => decide (e.1 < vocabularySize s)).length) &&
          sampleDue r e.2 i draft then
        .next (sampleAt be (logitKey be p) e.1 i draft m s)
      else .next s
    | none => .next s
  | _, _ => .next s

/-! Completion and delivery (R299, R300, R302, R306, R307, R317, R328). -/

/-- The run of a request stands: one draw, or draws up to a rejection or the last draft. -/
def runDone (r : Request) (k : Nat) : Bool :=
  if r.drafts' = 0 then r.draws.length == 1
  else r.draws.length == k || (!r.draws.isEmpty && r.draws != r.drafts.take r.draws.length)

/-- R299: the tokens kept. -/
def keptTokens (r : Request) : List Word :=
  let ends := r.draws.findIdx? fun t => r.endTokens.contains t
  r.draws.take (min (match ends with | some i => i + 1 | none => r.draws.length) (r.maxTokens - r.generated))

/-- R302: kept tokens that were drafts. -/
def keptDrafts (r : Request) (kept : List Word) : Nat :=
  ((kept.zip r.drafts).takeWhile fun p => p.1 == p.2).length

def endCode : EndWhy → Nat
  | .none => 0
  | .endToken => 1
  | .limit => 2
  | .deadline => 3
  | .failed => 4

/-- R300: the eight words of a status record. -/
def statusWords (s : State) (r : Request) (closed : Bool) : List Quad :=
  [BitVec.ofNat 64 ((if closed then r.code.toNat else 0) * 2 ^ 48 + bitNat closed * 2 ^ 47 + bitNat r.cancelled * 2 ^ 46 +
      endCode r.why * 2 ^ 43 + r.tokensOut % 2 ^ 21),
   BitVec.ofNat 64 (r.matched % 2 ^ 21 * 2 ^ 32 + r.length % 2 ^ 21),
   BitVec.ofNat 64 (r.proposed % 2 ^ 32 * 2 ^ 32 + r.accepted % 2 ^ 32),
   BitVec.ofNat 64 (r.generated % 2 ^ 32 * 2 ^ 32 + r.steps % 2 ^ 32),
   BitVec.ofNat 64 (r.firstTokenUs % 2 ^ 32 * 2 ^ 32 + (s.us - r.armUs) % 2 ^ 32),
   BitVec.ofNat 64 r.charged, 0,
   BitVec.ofNat 64 (r.gen.toNat * 2 ^ 48 + r.update % 2 ^ 32)]

/-- R300: a status record: bytes 0-55, then bytes 56-63, then the vector where the mode asks for it. -/
def writeRecord (i : Nat) (closed : Bool) (s0 : State) : State :=
  let s := onRequest i (fun r => { r with update := r.update + 1 }) s0
  let r := request s i
  let bs := ((statusWords s r closed).map fun q => leBytes 8 q.toNat).flatten
  let a := r.words.getD 5 0
  let s1 := sendMsg (.write (a + 56) (bs.drop 56) false) (sendMsg (.write a (bs.take 56) false) s)
  if r.irqMode = 2 ∨ (r.irqMode = 1 ∧ closed = true) then signalVector r.vector s1 else s1

/-- R299, R306: kept tokens go to the output buffer, unless the request was cancelled. -/
def writeTokens (i : Nat) (kept : List Word) (s : State) : State :=
  let r := request s i
  onRequest i (fun r => { r with tokensOut := r.tokensOut + kept.length })
    (sendMsg (.write (r.words.getD 4 0 + BitVec.ofNat 64 (4 * r.tokensOut))
      ((kept.map fun t => leBytes 4 t.toNat).flatten) false) s)

def afterDeadline (s : State) (r : Request) : Bool := match r.deadline with | some d => decide (d ≤ s.us) | none => false

/-- R299: why the request ends after this step, if it does. -/
def endAfter (s : State) (r : Request) (kept : List Word) : EndWhy :=
  if afterDeadline s r then .deadline
  else if kept.getLast?.any r.endTokens.contains then .endToken
  else if r.maxTokens ≤ r.generated then .limit
  else .none

/-- R299, R317: counts and charges of a member that ends well. -/
def settleMember (i k : Nat) (kept : List Word) (s : State) : State :=
  let r := request s i
  let accepted := keptDrafts r kept
  let proposed := if r.drafts' = 0 then 0 else k
  let rejected := proposed - accepted
  let prompt := bitNat (r.steps == 0 && !r.prompt.isEmpty)
  let units := 8 * kept.length + prompt + rejected
  let s1 := onRequest i (fun r => { r with
    steps := r.steps + 1
    generated := r.generated + kept.length
    proposed := r.proposed + proposed
    accepted := r.accepted + accepted
    charged := r.charged + units
    firstTokenUs := if r.generated = 0 then s.us - r.armUs else r.firstTokenUs
    history := keepHistory (r.history ++ kept)
    pendingToken := kept.getLast? }) s
  let s2 := chargeTenant r.tenant units (onTenant r.tenant (fun x => { x with
    generated := x.generated + BitVec.ofNat 64 kept.length
    promptComputed := x.promptComputed + BitVec.ofNat 64 prompt
    rejectedDrafts := x.rejectedDrafts + BitVec.ofNat 32 rejected }) s1)
  { s2 with
    serve.draftsProposed := s2.serve.draftsProposed + BitVec.ofNat 64 proposed
    serve.draftsAccepted := s2.serve.draftsAccepted + BitVec.ofNat 64 accepted }

/-- R279: the positions a member keeps: its pending input and all kept tokens but the last. -/
def appendMember (i : Nat) (kept : List Word) (s : State) : State :=
  let r := request s i
  let q := requestSeq r
  let inputs := (r.pendingToken.getD 0) :: kept.dropLast
  trimPages q (inputs.foldl (fun s t => appendToken q t s) s)

/-- R300: the LENGTH after a completed step, for the records of the request. -/
def noteLength (i : Nat) (s : State) : State :=
  onRequest i (fun r => { r with length := (seqEntry s (requestSeq r)).length }) s

/-- R276: the step's end for a sequence. -/
def endSeq (q : Nat) (s : State) : State :=
  settleSeq q .idle (dropAppends q (onSeq q (fun e => { e with lastStep := counterLow s }) s))

/-- R120, R308: a poisoned output sector: zeros with EP, and the request fails. -/
def poisonedOutput (i : Nat) (kept : List Word) (s : State) : State :=
  let r := request s i
  closeRequest i .failed 0x3002 (reportFree 0x3002 subjPort subjPort
    (sendMsg (.write (r.words.getD 4 0 + BitVec.ofNat 64 (4 * r.tokensOut)) (leBytes (4 * kept.length) 0) true) s))

/-- A failed member: LENGTH unchanged, blocks released, closed with its code (R279, R308). -/
def failMemberEnd (i : Nat) (code : Half) (s : State) : State :=
  let q := requestSeq (request s i)
  let s1 := closeRequest i .failed code s
  if (seqEntry s1 q).state = .stepping then endSeq q (trimPages q s1) else s1

/-- R299-R302, R306, R307: a member of a step that ends well. -/
def finishMember (i k : Nat) (s : State) : State :=
  let r := request s i
  let kept := keptTokens r
  let s1 := noteLength i (settleMember i k kept (appendMember i kept s))
  let why := endAfter s1 (request s1 i) kept
  let s2 := if r.cancelled || why == .deadline then s1 else writeTokens i kept s1
  let s3 := if why = .none then onRequest i (fun r => { r with state := .ready }) s2 else closeRequest i why 0 s2
  endSeq (requestSeq r) (if why = .none && !r.cancelled then writeRecord i false s3 else s3)

/-- One member: failed, with a poisoned output sector, or well. -/
def endMember (badOutputs : List Nat) (m : Nat × Nat) (s : State) : State :=
  let r := request s m.1
  match r.failCode with
  | some code => failMemberEnd m.1 code s
  | none =>
    if badOutputs.contains m.1 && !r.cancelled then
      failMemberEnd m.1 0x3002 (poisonedOutput m.1 (keptTokens r) s)
    else finishMember m.1 m.2 s

def soloEstimate : List Decl → Nat → Nat × Nat
  | [], _ => (0, 0)
  | .solo t b p :: l, n => if t = n then (b, p) else soloEstimate l n
  | _ :: l, n => soloEstimate l n

def chunkEstimate : List Decl → Nat
  | [] => 0
  | .chunkSolo e :: _ => e
  | _ :: t => chunkEstimate t

/-- R328: the estimate of a step. -/
def stepSolo (s : State) (x : Step) : Nat :=
  let e := soloEstimate (servingDecls s) x.positions
  roundEstimate (e.1 + e.2 * ceilDiv x.maxLength 64) x.waves

/-- R328: every tenant with a request in the step, once. -/
def stepTenants (s : State) (x : Step) : List Nat := x.members.foldl (fun l m => setInsert l (request s m.1).tenant) []

def countStep (x : Step) (solo : Nat) (s : State) : State :=
  (stepTenants s x).foldl (fun s t => addSlowdown t solo (s.us - x.selectedUs) s) s

/-- R259: the release of a completed step; its logits are dropped. -/
def stepOver (w : StepId) (s : State) : State :=
  let s1 := setStep w none s
  match w with
  | .lc => { s1 with serve.logits := s1.serve.logits.filter fun e => decide (8 ≤ e.1) }
  | .be => { s1 with serve.logits := s1.serve.logits.filter fun e => decide (e.1 < 8) }
  | .chunk => s1

/-- R259: a write of a step waits for its banks; the step completes after it is performed. -/
def writesWait (s : State) : Bool :=
  s.deferred.any fun i => match i with
    | .ownerDeliver .. | .collectorSector .. | .mergeComplete .. | .stm .. => true
    | _ => false

/-- STEP_COMPLETE (R299): `badOutputs` are the slots whose output tokens reach host memory from a poisoned sector. -/
def execStepComplete (be : Bool) (badOutputs : List Nat) (s : State) : Out :=
  match getStep s (classStep be) with
  | none => .next s
  | some x =>
    if x.prepared && x.failure.isNone && !writesWait s &&
        x.members.all fun m => (request s m.1).failCode.isSome || runDone (request s m.1) m.2 then
      let s1 := countStep x (stepSolo s x) (armRelease s)
      let s2 := x.members.foldl (fun s m => endMember badOutputs m s) s1
      let lost := x.members.all fun m => (request s m.1).failCode.isSome || badOutputs.contains m.1
      .next (stepOver (classStep be)
        (if lost then { s2 with serve.stepsFailed := s2.serve.stepsFailed + 1 } else s2))
    else .next s

/-- PREFILL_CHUNK_COMPLETE (R317, R328). -/
def execPrefillChunkComplete (s : State) : Out :=
  match s.serve.chunk with
  | none => .next s
  | some x =>
    match x.members, x.prepared && x.failure.isNone && !writesWait s && (coresCode s (corePlan (servingDecls s))).isNone with
    | [(i, k)], true =>
      let r := request s i
      let q := requestSeq r
      let s1 := countStep x (roundEstimate (chunkEstimate (servingDecls s)) x.waves) s
      match r.failCode with
      | some code => .next (stepOver .chunk (failMemberEnd i code { s1 with serve.stepsFailed := s1.serve.stepsFailed + 1 }))
      | none =>
        let tokens := (r.prompt.drop (r.matched + r.computed)).take k
        let s2 := trimPages q (tokens.foldl (fun s t => appendToken q t s) (armRelease s1))
        let s3 := chargeTenant r.tenant k (onTenant r.tenant
          (fun x => { x with promptComputed := x.promptComputed + BitVec.ofNat 64 k }) s2)
        let s4 := noteLength i (onRequest i (fun r => { r with computed := r.computed + k, charged := r.charged + k }) s3)
        let s5 := if afterDeadline s r then closeRequest i .deadline 0 s4
          else onRequest i (fun r => { r with state := .ready }) s4
        let s6 : State := if r.bestEffort then s5 else { s5 with tenancy.lastLcPrompt := s5.us }
        .next (stepOver .chunk (endSeq q s6))
    | _, _ => .next s

/-- What the cores of a chunk returned is taken with the chunk's end. -/
def takeCodes (w : StepId) (s : State) : State :=
  if w = .chunk then clearCodes (corePlan (servingDecls s)) s else s

/-- R308: the whole step or chunk fails. -/
def stepFails (w : StepId) (x : Step) (code : Half) (s : State) : State :=
  let solo := if w = .chunk then roundEstimate (chunkEstimate (servingDecls s)) x.waves else stepSolo s x
  let s1 := countStep x solo { s with serve.stepsFailed := s.serve.stepsFailed + 1 }
  stepOver w (x.members.foldl (fun s m => failMemberEnd m.1 ((request s m.1).failCode.getD code) s) s1)

/-- STEP_FAIL (R308): the failure report taken first: what the engine holds, then what the chunk's cores have returned (R205,
R206), then `code`, a failing part's own. -/
def execStepFail (w : StepId) (code : Half) (s : State) : Out :=
  match getStep s w with
  | none => .next s
  | some x =>
    match x.failure.or (if w = .chunk then coresCode s (corePlan (servingDecls s)) else none) with
    | some c => .next (stepFails w x c (takeCodes w s))
    | none => if failureCode code then .next (stepFails w x code s) else .next s

/-- DEADLINE (R307): at the instant an ADMITTING or READY request closes; a stepping one is decided at its completion. -/
def execDeadline (i : Fin 4096) (at_ : Nat) (s0 : State) : Out :=
  let s := advanceTo at_ s0
  let r := request s i
  if afterDeadline s r && (r.state == .admitting || r.state == .ready) then .next (closeRequest i .deadline 0 s)
  else .next s

def readOfSlot (i : Nat) (r : HostRead) : Bool := r.purpose == .prompt i || r.purpose == .bias i

/-- CLOSE_RECORD_WRITTEN (R298, R300, R307): after a read of host memory in flight. -/
def execCloseRecordWritten (i : Fin 4096) (s : State) : Out :=
  if (request s i).state = .closing ∧ s.port.reads.any (readOfSlot i) = false then
    let s1 := writeRecord i true s
    let s2 := onRequest i (fun r => { r with state := .free, prompt := [], history := [], drafts := [], draws := [] }) s1
    .next (retireIdle (raisedBit s.serve.closed { s2 with
      serve.closed := true
      serve.requestsClosed := s2.serve.requestsClosed + 1 }))
  else .next s

end Sys2Proof.Machine
end

