-- ==== Sys2Proof/Machine/Waves.lean ====
section
/-! DEFINITION. Retuning waves (R99, R103) and the second read of a sector that proved uncorrectable (R117). -/
namespace Sys2Proof.Machine

/-- The live channels of a wave group (R99). -/
def groupChannels (s : State) (g : Nat) : List Nat :=
  (List.range 512).filter fun c => c % 8 == g && (chan s c).live && !(chan s c).failed

def countWave (x : Option Step) : Option Step := x.map fun x => { x with waves := x.waves + 1 }

/-- WAVE_START (R99, R103): once step 6 of the start has ended. -/
def execWaveStart (s : State) : Out :=
  if s.start.state < 6 then .next s
  else
    let cs := groupChannels s s.spread.nextGroup
    .next { s with
      spread.waves := s.spread.waves + 1
      spread.toSlice := cs.foldl setInsert s.spread.toSlice
      spread.nextGroup := (s.spread.nextGroup + 1) % 8
      serve.lcStep := countWave s.serve.lcStep
      serve.beStep := countWave s.serve.beStep
      serve.chunk := countWave s.serve.chunk }

/-- R117: the second read of sector `n`, as it comes off the wires: what it delivers, its counters, its outcome. -/
def secondRead (x : Reread) (r : SectorRead) (s : State) : State :=
  let c := chanOfSector x.sector
  let s1 := onChan c (fun h => { h with
    delivered := [r.sector]
    outerCorrected := h.outerCorrected + BitVec.ofNat 64 r.corrected
    poisonDelivered := h.poisonDelivered + BitVec.ofNat 64 (bitNat r.sector.poison) }) s
  secondOutcome x.sector x.foundBy r s1

/-- SECTOR_REREAD (R82, R84, R104, R117): the `index`-th sector that waits for its second read, once nothing holds its bank; a failed
channel delivers poison. -/
def execSectorReread (index : Nat) (inner : Nat) (arrayFlips wireFlips : List BitFlip) (s : State) : Out :=
  match s.dram.rereads[index]? with
  | none => .next s
  | some x =>
    let c := chanOfSector x.sector
    let s1 : State := { s with dram.rereads := s.dram.rereads.eraseIdx index }
    if (chan s c).failed then .next (wakeDeferred (onChan c (fun h => { h with delivered := [.poisoned] }) s1))
    else if bankFree s c (bankOfSector x.sector) then
      let r := sectorOnWires arrayFlips wireFlips x.sector 0 s1
      let s2 := countInner c inner (passBeat x.sector (disturb arrayFlips x.sector 0 s1))
      .next (wakeDeferred (secondRead x r s2))
    else .next s

end Sys2Proof.Machine
end

