-- ==== Sys2Proof/Machine/ProgramCheck.lean ====
section
/-! DEFINITION. Checks of micro-programs and core programs at load (R42, R164, R173, R213). -/
namespace Sys2Proof.Machine

/-! Micro-programs (R164, R173). -/

inductive Fate | goesOn | ended | broken
  deriving DecidableEq, Repr

/-- The words of a path, each with how often it runs, and how the path goes on. -/
structure PathOut where
  words : List (Nat × Nat)
  fate : Fate
  deriving DecidableEq, Repr

def microAt (m : Mem) (pc : Nat) : Nat := (memQuad m (8 * pc)).toNat

/-- R164: a body that runs `n` times: two copies stand for the first runs and the last. -/
def repeatBody (n : Nat) (ws : List (Nat × Nat)) : List (Nat × Nat) :=
  if n ≤ 1 then ws else (ws.map fun w => (w.1, w.2 * (n - 1))) ++ ws

/-- R164: the path from `pc` up to and including `stop`, at a loop depth; every step raises the address. -/
def walk (m : Mem) : Nat → Nat → Nat → Nat → PathOut
  | 0, _, _, _ => ⟨[], .broken⟩
  | f + 1, pc, stop, depth =>
    if stop < pc then ⟨[], if depth = 0 then .broken else .goesOn⟩
    else
      let w := microAt m pc
      match bits w 63 58 with
      | 1 => ⟨[], .broken⟩
      | 2 => if bits w 8 0 ≤ pc ∨ stop < bits w 8 0 then ⟨[], .broken⟩ else walk m f (bits w 8 0) stop depth
      | 3 =>
        let last := bits w 45 37
        if bits w 57 46 = 0 ∨ last ≤ pc ∨ stop < last ∨ 2 ≤ depth then ⟨[], .broken⟩
        else
          let body := walk m f (pc + 1) last (depth + 1)
          match body.fate with
          | .goesOn =>
            let rest := walk m f (last + 1) stop depth
            ⟨repeatBody (bits w 57 46) body.words ++ rest.words, rest.fate⟩
          | x => ⟨body.words, x⟩
      | 4 => ⟨[], .ended⟩
      | _ =>
        let rest := walk m f (pc + 1) stop depth
        ⟨(w, 1) :: rest.words, rest.fate⟩

/-- The path of the phrase whose PHRASE word stands at `pc`. -/
def phrasePath (m : Mem) (pc : Nat) : PathOut := walk m 513 (pc + 1) 511 0

def opOf (w : Nat) : Nat := bits w 63 58
def rdOf (wfmt : Nat) : Nat := if wfmt = 0 then 1 else if wfmt = 1 then 2 else 4

/-- R165: the cost of a word. -/
def microCost (w : Nat) : Nat :=
  match opOf w with
  | 0x08 | 0x09 | 0x0A => 1
  | 0x10 =>
    let rd := rdOf (bits w 45 44)
    let c := max rd (bits w 43 41 + 1)
    if bit w 39 then max 128 (64 / rd * c) else 2 * (64 / rd) * c
  | 0x11 => max 128 (64 * (bits w 49 46 + 1))
  | 0x12 => 64 * (bits w 49 46 + 1) + 16
  | 0x13 | 0x14 | 0x15 => 128
  | 0x20 => 8
  | 0x21 => bits w 43 41 + 1
  | 0x22 => 2
  | _ => 0

/-- R167-R170: the sectors a word queues, each granule of an MVS counted in full. -/
def microSectors (w : Nat) : Nat :=
  match opOf w with
  | 0x10 => (if bit w 39 then 2 else 4) * (bits w 43 41 + 1)
  | 0x11 => 2 * (bits w 49 46 + 1)
  | 0x12 => 8 * (bits w 49 46 + 1) + (bits w 49 46 + 1) / 2
  | 0x13 => if bit w 42 then 0 else bits w 45 43 + 1
  | 0x20 => 2 ^ bits w 53 52
  | _ => 0

/-- A word that a path may hold: no reserved OP or FN, no SEND without words (R151, R165). -/
def knownOp (w : Nat) : Bool :=
  [0x08, 0x09, 0x0A, 0x10, 0x11, 0x12, 0x13, 0x14, 0x15, 0x20, 0x21, 0x22].contains (opOf w) &&
    !(opOf w == 9 && decide (12 ≤ bits w 45 42)) && !(opOf w == 0x21 && bits w 43 41 == 0)

def isCarried (w : Nat) : Bool := opOf w == 0x10 || opOf w == 0x15
def isSelfOpening (w : Nat) : Bool := [0x11, 0x12, 0x13, 0x14].contains (opOf w)
def writesX (w : Nat) : Bool := [0x08, 0x09, 0x0A].contains (opOf w)

/-- A carried word after a self-opening one. -/
def carriedAfter : List Nat → Bool
  | [] => false
  | w :: t => (isSelfOpening w && t.any isCarried) || carriedAfter t

/-- Row 10: codebook slots and scale words the image does not load. -/
def usesUnloaded (cbMask : Half) (scaleBase scaleWords : Nat) (w : Nat) : Bool :=
  let slot (k : Nat) := !cbMask.getLsbD k
  let scale (n : Nat) := !(decide (scaleBase ≤ bits w 37 28) && decide (bits w 37 28 + n ≤ scaleBase + scaleWords))
  match opOf w with
  | 0x10 => decide (bits w 45 44 < 2) && slot (bits w 37 34)
  | 0x11 => slot (bits w 53 50) || scale 128
  | 0x12 => slot (bits w 53 50) || scale 32
  | _ => false

/-- Row 6: segments outside SEG_MASK. -/
def outsideMask (mask w : Nat) : Bool :=
  match opOf w with
  | 0x11 => !bit mask (bits w 45 42) || !bit mask (bits w 45 42 + 1) || bits w 45 42 == 15
  | 0x12 => !bit mask (bits w 45 42)
  | _ => false

/-- R173: the first failing row of one phrase. -/
def phraseCheck (m : Mem) (cbMask : Half) (scaleBase scaleWords pc : Nat) : Option Half :=
  let h := microAt m pc
  let p := phrasePath m pc
  let ws := p.words.map (·.1)
  let cost := sumNat (p.words.map fun w => microCost w.1 * w.2)
  let sectors := sumNat (p.words.map fun w => microSectors w.1 * w.2)
  if !ws.all knownOp then some 0x8801
  else if bits h 57 47 = 0 ∨ 1080 < bits h 57 47 ∨ 128 < bits h 46 39 then some 0x8802
  else if p.fate ≠ .ended then some 0x8804
  else if bits h 57 47 < cost then some 0x8803
  else if sectors ≠ bits h 46 39 then some 0x8805
  else if ws.any (outsideMask (bits h 38 23)) then some 0x8806
  else if (!bit h 22 && ws.any fun w => opOf w == 0x15 || opOf w == 0x14) || (!bit h 21 && ws.any fun w => opOf w == 0x21) then
    some 0x8807
  else if ws.any (fun w => (isCarried w && bits w 57 54 != 1) || (writesX w && bits w 57 54 == 1)) || carriedAfter ws then
    some 0x8808
  else if ws.any fun w => writesX w && (bits w 57 54 == 0 || decide (13 ≤ bits w 57 54)) then some 0x8809
  else if ws.any (usesUnloaded cbMask scaleBase scaleWords) then some 0x880A
  else if ws.any fun w => opOf w == 0x12 && (bits w 49 46 + 1) % 2 == 1 then some 0x880B
  else none

/-- R42: a rounding field of 10 or 11 in SCORE or ADDBACK. -/
def badRounding (w : Nat) : Bool := (opOf w == 0x11 || opOf w == 0x14) && decide (2 ≤ bits w 1 0)

/-- The PHRASE words among `n` words from `base`. -/
def phrasesIn (m : Mem) (base n : Nat) : List Nat := ((List.range n).map (base + ·)).filter fun a => opOf (microAt m a) == 1

/-- R144: the directory entry of a PHRASE word. -/
def directoryEntry (h : Nat) : Quad :=
  BitVec.ofNat 64 (2 ^ 63 + bits h 57 47 * 2 ^ 52 + bits h 46 39 * 2 ^ 44 + bits h 38 23 * 2 ^ 28 + bitNat (bit h 22) * 2 ^ 27 +
    bitNat (bit h 21) * 2 ^ 26)

/-! Core programs (R213). -/

/-- The fields an operation uses must be all that is nonzero (R199). -/
def onlyUses (w : CoreWord) (ra rb rc rnd sub imm : Bool) (ext : Nat) : Bool :=
  (ra || w.ra == 0) && (rb || w.rb == 0) && (rc || w.rc == 0) && (rnd || (w.rnd == 0 && w.scaleCtl == 0)) &&
    (sub || w.sub == 0) && (imm || w.imm == 0) && w.ext == w.ext &&& ext

/-- The EXT bits that a VOP of function `fn` and format `fmt` uses (R201). -/
def vopBits (fn fmt : Nat) : Nat :=
  0x3FF + (if fmt = 3 then 0x3C00 else 0) + (if fn = 5 then 0x70000 else 0) + (if fn = 7 ∨ fn = 8 then 0xFF000000 else 0)

def vopBinary (fn : Nat) : Bool := fn ≤ 4 || fn == 6 || fn == 9

/-- The EXT bits that a STOREA uses: the slot of a code, the position of a code or an observed entry (R200). -/
def storeBits (ext : Nat) : Nat :=
  let coded := decide (3 ≤ ext % 8)
  0x100000007 + (if coded then 0x78 else 0) + (if coded || bit ext 32 then 0xFFFF0000 else 0)

/-- Row 1 of R213: reserved encodings and unused fields. The spec gives CONVERT's source format no place: SUB and EXT pass there (log
entry 47). -/
def coreFieldsOk (w : CoreWord) : Bool :=
  match w.op with
  | 0x01 => onlyUses w false false false false true false 0xFFFFFFFF
  | 0x02 => onlyUses w false false false false true true 0
  | 0x08 => onlyUses w true true true false false true 0xF && decide (w.ext ≤ 11)
  | 0x09 => onlyUses w (w.sub != 0) (w.sub != 0) false false true true 0 && decide (w.sub ≤ 4) && decide (w.imm < 4096)
  | 0x0A => onlyUses w false false false false false false 0
  | 0x10 => onlyUses w true false false false true true 0 && decide (w.sub ≤ 1)
  | 0x11 => onlyUses w true true (bit w.ext 10) false false true 0x7FF
  | 0x12 => onlyUses w true true false false false true 3
  | 0x13 => onlyUses w true true true true false true (storeBits w.ext) && decide (w.ext % 8 ≤ 4)
  | 0x14 => onlyUses w true false false false false true 0
  | 0x18 =>
    let fn := w.ext % 256
    decide (1 ≤ fn) && decide (fn ≤ 0xB) &&
      (if fn = 0xB then onlyUses w true false true true true true (2 ^ 64 - 1)
       else onlyUses w true (vopBinary fn) true true false true (vopBits fn (bits w.ext 9 8)))
  | 0x20 => onlyUses w true true false false true true (2 ^ 40 - 1) && decide (w.sub ≤ 1)
  | 0x21 => onlyUses w true true false false false true (2 ^ 40 - 1)
  | 0x22 => onlyUses w true true false false true true 0 && decide (w.sub ≤ 1)
  | 0x30 =>
    let flag := bit w.ext 1
    onlyUses w flag false false false true false (if flag then 2 ^ 43 - 1 else 1) && decide (w.sub ≤ 2) && (!flag || bit w.ext 0)
  | _ => false

/-- The destination of an operation that rounds: none, FP32 (ROWMAX always, R201), another plain format, or coded. -/
def destFormat (w : CoreWord) : Option Nat :=
  if w.op = 0x13 then some (if w.ext % 8 = 3 ∨ w.ext % 8 = 4 then 3 else w.ext % 8)
  else if w.op = 0x18 then some (if w.ext % 256 = 7 then 0 else bits w.ext 9 8)
  else none

/-- Row 5. -/
def lengthsOk (w : CoreWord) : Bool :=
  match w.op with
  | 0x11 => decide (w.ext % 512 ≤ 255)
  | 0x20 | 0x21 => decide (32 ≤ w.imm) && decide (w.imm ≤ 2048) && w.imm % 32 == 0
  | 0x22 => w.imm % 64 == 0 && decide (64 ≤ w.imm) && decide (w.imm ≤ 65536)
  | _ => true

/-- Row 6. -/
def slotsOk (cbMask : Half) (tableMask : Byte) (w : CoreWord) : Bool :=
  match w.op with
  | 0x13 => !(w.ext % 8 == 3 || w.ext % 8 == 4) || cbMask.getLsbD (bits w.ext 6 3)
  | 0x18 => (bits w.ext 9 8 != 3 || cbMask.getLsbD (bits w.ext 13 10)) &&
      (w.ext % 256 != 5 || tableMask.getLsbD (bits w.ext 18 16))
  | _ => true

/-- R203: the addresses that an address leads to. -/
def coreNext (w : CoreWord) (pc : Nat) : List Nat :=
  if w.op = 0x0A then []
  else if w.op = 0x09 then (if w.sub = 0 then [w.imm % 4096] else [w.imm % 4096, pc + 1])
  else [pc + 1]

/-- Addresses reached from a list of entries; `seen` are those visited. -/
def reach (imem : Mem) : Nat → List Nat → List Nat → List Nat
  | 0, _, seen => seen
  | _, [], seen => seen
  | f + 1, pc :: t, seen =>
    if seen.contains pc then reach imem f t seen
    else if 4096 ≤ pc then reach imem f t (pc :: seen)
    else reach imem f (coreNext (decodeCore (leValue (memReadN imem (16 * pc) 16))) pc ++ t) (pc :: seen)

/-- R213: the first failing row of the program of one core: words from `base` up, the entries the image declares, and
what they push. -/
def coreCheck (imem : Mem) (cbMask : Half) (tableMask : Byte) (base n : Nat) (entries : List Nat)
    (pushes : List (Nat × Nat)) : Option Half :=
  let ws := (List.range n).map fun i => decodeCore (leValue (memReadN imem (16 * (base + i)) 16))
  if !ws.all coreFieldsOk then some 0x9001
  else if ws.any fun w => w.rnd == 3 || (w.rnd == 2 && destFormat w == some 0) then some 0x9002
  else if ws.any fun w => w.scaleCtl % 2 == 1 || (w.scaleCtl != 0 && destFormat w != some 3) then some 0x9003
  else if ws.any (fun w => w.op == 0x09 && decide (base + n ≤ w.imm)) || (reach imem 20000 entries []).contains 4096 ||
      decide (4096 < base + n) then some 0x9004
  else if !ws.all lengthsOk then some 0x9005
  else if !ws.all (slotsOk cbMask tableMask) then some 0x9006
  else if pushes.any fun p => p.1 % 4 != 0 || decide (p.2 < p.1) then some 0x9007
  else none

end Sys2Proof.Machine
end

