-- ==== Sys2Proof/Machine/Load.lean ====
section
/-! DEFINITION. Loading and unloading Gristad images (R432-R440). -/
namespace Sys2Proof.Machine

/-! The object (R402, R403, R432). -/

/-- R402: where the segment area begins, and the object's length. -/
def areaStart (h : SignedHdr) : Nat := 64 * ceilDiv (1024 + h.length + 16608) 64
def objectLength (h : SignedHdr) : Nat := areaStart h + h.segLength

/-- R432: verification of an image: the key is IMAGE_KEY_k of the configuration image, and SVN is not checked. -/
def imageVerifies (s : State) (kind : Nat) (o : ImageObject) : Bool :=
  o.hdr.kind == kind && o.checks.payloadHash && o.checks.rsa && o.checks.slh &&
    (match s.start.config with
     | none => false
     | some c => match c.imageKeys[o.hdr.keyIndex]? with
       | some (k, valid) => valid && k == o.hdr.keysDigest
       | none => false)

/-! Row 7 of R435: the manifest. -/

/-- A segment lies inside the segment area at a multiple of 64. -/
def segInside (h : SignedHdr) (g : Segment) : Bool :=
  decide (areaStart h ≤ g.offset) && decide (g.offset + g.length ≤ objectLength h) && g.offset % 64 == 0

def segsOverlap (a b : Segment) : Bool := decide (a.offset < b.offset + b.length) && decide (b.offset < a.offset + a.length)

/-- A TARGET lies outside every allocation of the image, or names no place of its kind. -/
def targetOk (m : Manifest) (g : Segment) : Bool :=
  let inside (scratch : Bool) := m.allocs.any fun a => a.scratch == scratch && decide (a.base ≤ g.target) &&
    decide (g.target + g.length ≤ a.base + a.size)
  match g.kind with
  | 1 | 6 => inside false
  | 2 => inside true
  | 3 | 4 => decide (g.target % 8 ≤ 5)
  | 5 => true
  | _ => g.target == 0

/-- A declaration names places that exist, within what the manifest takes (R177, R190, R203, R432). -/
def declPlaced (m : Manifest) (d : Decl) : Bool :=
  match d with
  | .destination t k _ => decide (t < 8) && decide (1 ≤ k) && decide (k ≤ 3071) && decide (m.destBase ≤ k) &&
      decide (k < m.destBase + m.destCount)
  | .expert t e => decide (t < 8) && decide (e.expert < 1024) && decide (e.gateUp < 512) && decide (e.down < 512)
  | .coreEntry c e => m.coreMask.getLsbD c && decide (e < 4096)
  | .pushes c e k _ _ => m.coreMask.getLsbD c && decide (e < 4096) && decide (k < 4)
  | _ => true

def segOk (o : ImageObject) (kinds : List Nat) (g : Segment) : Bool :=
  kinds.contains g.kind && segInside o.hdr g && targetOk o.manifest g && g.declsOk && g.decls.all (declPlaced o.manifest) &&
    g.bytes.length == g.length

def indexed {α : Type} (l : List α) : List (Nat × α) := (List.range l.length).zip l

/-- The first record that fails, as LOAD_DETAIL. -/
def firstBad {α : Type} (bad : Nat → α → Bool) (l : List α) : Option Nat := ((indexed l).find? fun e => bad e.1 e.2).map (·.1)

/-- A segment that is malformed or overlaps an earlier one. -/
def badSegment (o : ImageObject) (kinds : List Nat) : Option Nat :=
  firstBad (fun i g => !segOk o kinds g || (o.manifest.segments.take i).any (segsOverlap g)) o.manifest.segments

def headerOk (m : Manifest) : Bool :=
  m.format == 1 && m.reservedZero && decide (16 ≤ m.builtL) && decide (m.builtL ≤ 8192) && decide (1 ≤ m.allocs.length) &&
    decide (m.allocs.length ≤ 1024) && decide (1 ≤ m.segments.length) && decide (m.segments.length ≤ 4096) &&
    decide (m.adapterSlots ≤ 1024)

def allKinds : List Nat := [1, 2, 3, 4, 5, 6, 7, 8]

/-- A refusal: LOAD_RESULT, LOAD_CAUSE, LOAD_DETAIL. -/
structure Refuse where
  code : Half
  cause : Half := 0
  detail : Half := 0xFFFF
  deriving DecidableEq, Repr

/-- Row 7. -/
def manifestCheck (o : ImageObject) : Option Refuse :=
  if !headerOk o.manifest then some { code := 0x1015 }
  else match badSegment o allKinds with
    | some i => some { code := 0x1015, detail := BitVec.ofNat 16 i }
    | none => none

/-! Row 12: the footprint (R433). -/

def meets (a n b k : Nat) : Bool := decide (a < b + k) && decide (b < a + n)

/-- An allocation record against the live resources and the image's earlier records. -/
def recordCheck (s : State) (m : Manifest) (i : Nat) (a : AllocRecord) : Option Half :=
  match rangeCheck s a.scratch a.base a.size with
  | some c => some c
  | none =>
    if (m.allocs.take i).any fun b => b.scratch == a.scratch && meets a.base a.size b.base b.size then some 0x2021 else none

def spaceCheck (s : State) (m : Manifest) (scratch : Bool) (code : Half) : Option Refuse :=
  (indexed m.allocs).findSome? fun e =>
    if e.2.scratch = scratch then (recordCheck s m e.1 e.2).map fun c => { code := code, cause := c, detail := BitVec.ofNat 16 e.1 }
    else none

/-- Unit stores: within their sizes, and apart from every loaded image. -/
def storesOk (s : State) (m : Manifest) : Bool :=
  decide (m.mpBase + m.mpWords ≤ 512) && decide (m.scaleBase + m.scaleWords ≤ 1024) &&
    decide (m.lbBase + m.lbSectors ≤ 256) &&
    s.load.images.all fun e =>
      let k := e.2.manifest
      !meets m.mpBase m.mpWords k.mpBase k.mpWords && (m.cbMask &&& k.cbMask) == 0 && (m.tableMask &&& k.tableMask) == 0 &&
        !(m.freq && k.freq) && !meets m.scaleBase m.scaleWords k.scaleBase k.scaleWords &&
        !meets m.lbBase m.lbSectors k.lbBase k.lbSectors

/-- The descriptors of an image: index and words (R432). -/
def segDescriptors (g : Segment) : List (Nat × BitVec 512) :=
  if g.kind = 7 then (List.range (g.length / 72)).map fun i =>
    (leValue ((g.bytes.drop (72 * i)).take 4), BitVec.ofNat 512 (leValue ((g.bytes.drop (72 * i + 8)).take 64)))
  else []

def imageDescriptors (m : Manifest) : List (Nat × BitVec 512) := (m.segments.map segDescriptors).flatten

def freeAllocEntries (s : State) : Nat := 16383 - (s.tables.allocs.filter fun e => e.2.valid).length

def tablesOk (s : State) (m : Manifest) : Bool :=
  let ds := (imageDescriptors m).map (·.1)
  ds.all (fun i => (descEntry s i).isNone) && decide (m.allocs.length ≤ freeAllocEntries s) &&
    (m.destCount == 0 || (decide (1 ≤ m.destBase) && decide (m.destBase + m.destCount ≤ 3072))) &&
    decide (m.imBase + m.imCount ≤ 4096) &&
    s.load.images.all fun e =>
      let k := e.2.manifest
      !meets m.destBase m.destCount k.destBase k.destCount &&
        ((m.coreMask &&& k.coreMask) == 0 || !meets m.imBase m.imCount k.imBase k.imCount)

/-- Row 12. -/
def footprintCheck (s : State) (m : Manifest) : Option Refuse :=
  match spaceCheck s m false 0x101A with
  | some r => some r
  | none => match spaceCheck s m true 0x101B with
    | some r => some r
    | none =>
      if !storesOk s m then some { code := 0x101C }
      else if !tablesOk s m then some { code := 0x101D }
      else none

/-! Rows 13 and 14. -/

def coresOf (m : Manifest) : List Nat := (List.range 128).filter fun g => m.coreMask.getLsbD g

def needsFenced (s : State) (m : Manifest) : Bool :=
  (m.phrases && (liveUnits s).any (unitFenced s)) || (coresOf m).any fun g => (core s g).fenced

def needsTripped (s : State) (m : Manifest) : Bool :=
  (m.phrases && (List.range 8).any (tileTripped s)) || (coresOf m).any fun g => tileTripped s (g / 16)

/-! Rows 2 to 14 in order. -/

def tenantRow (s : State) (m : Manifest) : Option Refuse :=
  if m.tenant ≠ 0 ∧ tenantValid s m.tenant = false then some { code := 0x1018 }
  else match firstBad (fun _ (a : AllocRecord) => a.tenant != m.tenant) m.allocs with
    | some i => some { code := 0x1018, detail := BitVec.ofNat 16 i }
    | none => none

def readCause (e : ReadEnd) : Half := if e = .failed then 0x6010 else 0x6011

/-- Rows 2 to 6. -/
def objectCheck (s : State) (ended : ReadEnd) (o : ImageObject) : Option Refuse :=
  if s.start.unconfigured ∨ s.start.config = none then some { code := 0x1010 }
  else if s.spread.degraded then some { code := 0x3C20 }
  else if s.load.addr.toNat % 4096 ≠ 0 ∨ s.load.len.toNat ≠ objectLength o.hdr then some { code := 0x1012 }
  else if ended ≠ .ok then some { code := 0x1013, cause := readCause ended }
  else if !imageVerifies s 4 o then some { code := 0x1014 }
  else none

/-- Rows 7 to 14. -/
def resourceCheck (s : State) (o : ImageObject) : Option Refuse :=
  let m := o.manifest
  match manifestCheck o with
  | some r => some r
  | none =>
    if m.compat ≠ s.order.orderMode then some { code := 0x1016 }
    else if m.builtL ≠ s.spread.units then some { code := 0x1017 }
    else match tenantRow s m with
      | some r => some r
      | none =>
        if 8 ≤ s.load.images.length ∨ (m.serves = true ∧ (servingImage s).isSome = true) then some { code := 0x1019 }
        else match footprintCheck s m with
          | some r => some r
          | none =>
            if needsFenced s m then some { code := 0x101E }
            else if needsTripped s m then some { code := 0x101F }
            else none

/-- Rows 2 to 14 of R435. -/
def loadCheck (s : State) (ended : ReadEnd) (o : ImageObject) : Option Refuse :=
  match objectCheck s ended o with
  | some r => some r
  | none => resourceCheck s o

/-! Transfer. -/

/-- R434: the lowest free image number. -/
def freeImage (s : State) : Nat := (lowestFree s.load.images (fun _ => true) 8 0).getD 0

/-- Allocations of the image, in record order (R432). -/
def createAllocs (n : Nat) : List AllocRecord → State → List Nat × State
  | [], s => ([], s)
  | a :: t, s =>
    match freeAllocIndex s with
    | none => ([], s)
    | some i =>
      let r := createAllocs n t (installAlloc i { base := a.base, size := a.size, scratch := a.scratch, tenant := a.tenant,
                                                  sealed := a.isSealed, readOnly := a.readOnly, image := some n } s)
      (i :: r.1, r.2)

/-- One segment's bytes of a store, burst by burst, into a unit's stores. -/
def loadBursts (store : Nat) : Nat → List Byte → Unit → Unit
  | burst, bs, v => ((List.range (ceilDiv bs.length 256)).foldl (fun v k =>
      let part := (bs.drop (256 * k)).take 256
      loadStore store (burst + k) (sectorsOfBytes 8 (part ++ List.replicate (256 - part.length) 0)) v) v)

/-- R155, R187, R201: what the collectors and the cores hold alike with the units. -/
def sharedMem (store a : Nat) (bs : List Byte) (k : Nat) (m : Mem) : Mem := if store = k then memWriteL m a bs else m

def loadShared (store burst : Nat) (bs : List Byte) (s : State) : State :=
  let a := 256 * burst
  let s1 := (liveUnits s).foldl (fun s u => onUnit u (loadBursts store burst bs) s) s
  let s2 := (List.range 8).foldl (fun s t => onOwner t (fun o => { o with
    codebooks := sharedMem store a bs 1 o.codebooks
    tables := sharedMem store a bs 3 o.tables
    freqs := sharedMem store a bs 4 o.freqs }) s) s1
  (List.range 128).foldl (fun s g => onCore g (fun c => { c with
    codebooks := sharedMem store a bs 1 c.codebooks
    tables := sharedMem store a bs 3 c.tables
    freqs := sharedMem store a bs 4 c.freqs }) s) s2

/-- R432: block `i` of a UNIT_PRIVATE segment loads the unit of live index `i`. -/
def loadPrivate (store burst : Nat) (bs : List Byte) (s : State) : State :=
  let us := liveUnits s
  let n := bs.length / max 1 us.length
  (indexed us).foldl (fun s e => onUnit e.2 (loadBursts store burst ((bs.drop (n * e.1)).take n)) s) s

/-- R432: the transfer of one segment. -/
def transferSegment (g : Segment) (s : State) : State :=
  let store := g.target % 8
  let burst := g.target / 256 % 2 ^ 24
  match g.kind with
  | 1 | 6 => writeSectors g.target (sectorsOfBytes (ceilDiv g.bytes.length 32) g.bytes) s
  | 2 => portAccess 19 g.target g.bytes.length (scratchPut .normal false g.target g.bytes s)
  | 3 => loadShared store burst g.bytes s
  | 4 => loadPrivate store burst g.bytes s
  | 5 => onCore (g.target % 128) (fun c => { c with
      imem := memWriteL c.imem (16 * (g.target / 65536 % 4096)) g.bytes, loaded := true }) s
  | _ => s

def setLoad (f : Loading → Loading) (s : State) : State := { s with load := f s.load }

/-- The registers that LOAD takes as they stand (R453). -/
def loadArgs (s : State) : List Nat := [s.load.addr.toNat, s.load.len.toNat]

def withLoadArgs (l : List Nat) (s : State) : State :=
  setLoad (fun x => { x with addr := BitVec.ofNat 64 (l.getD 0 0), len := BitVec.ofNat 64 (l.getD 1 0) }) s

def beginLoad (r : Refuse) (s : State) : State :=
  setLoad (fun l => { l with op := l.op.begin r.code, cause := r.cause, detail := r.detail, bytes := 0 }) s

/-- LOAD (R434, R435): rows 1 to 14; the allocations are created and the transfer begins. -/
def loadObject (ended : ReadEnd) (o : ImageObject) (s0 : State) : State :=
  match loadCheck s0 ended o with
  | some r => beginLoad r (if r.code = 0x1013 then noteRead ended s0 else s0)
  | none =>
    let a := createAllocs (freeImage s0) o.manifest.allocs (beginLoad { code := 0 } s0)
    setLoad (fun l => { l with phase := .transfer, object := some o, allocs := a.1 }) a.2

/-- The object arrives for a LOAD that LOAD_OP started, or with a LOAD of its own (R453). -/
def loadImage (ended : ReadEnd) (o : ImageObject) (s : State) : State :=
  match s.load.op.taken with
  | some l => withLoadArgs (loadArgs s) (loadObject ended o (withLoadArgs l s))
  | none => if s.load.op.busy then { s with load.op := s.load.op.refuse 0x1011 } else loadObject ended o s

/-- R29: a segment for stacked memory waits for the pairs that it writes. -/
def segmentWaits (s : State) (g : Segment) : Bool := (g.kind == 1 || g.kind == 6) && rangeWaits s g.target g.length

/-- R434: the transfer of every segment. -/
def transferAll (o : ImageObject) (s : State) : State :=
  setLoad (fun l => { l with
    phase := .content, bytes := BitVec.ofNat 64 (sumNat (o.manifest.segments.map (·.length))) })
    (o.manifest.segments.foldl (fun s g => transferSegment g s) s)

/-! Content checks (rows 15 to 17). -/

/-- An object of an OBJECTS segment: kind, bytes, module address. -/
structure LoadObject where
  isTable : Bool
  bytes : List Byte
  address : Nat
  deriving DecidableEq, Repr

/-- R53, R55, R56: how long its header makes an object. -/
def headerLength (isTable : Bool) (bs : List Byte) : Nat :=
  let h := leValue (bs.take 8)
  if isTable then 32 * ceilDiv (32 + 4 * bits h 47 24 + 4 * ceilDiv (bits h 47 24) 32) 32 else 32 + 2 * 2 ^ min 8 (bits h 47 40)

/-- The objects of a segment back to back: none reads beyond the segment's end (R55). -/
def objectsFrom : Nat → List Bool → Nat → List Byte → List LoadObject
  | 0, _, _, _ => []
  | _, _, _, [] => []
  | f + 1, ts, a, bs =>
    let t := ts.headD false
    let n := headerLength t bs
    ⟨t, bs.take n, a⟩ :: objectsFrom f ts.tail (a + n) (bs.drop n)

def segObjects (g : Segment) : List LoadObject :=
  if g.kind = 6 then objectsFrom (g.bytes.length / 32 + 1) g.tables g.target g.bytes else []
def imageObjects (m : Manifest) : List LoadObject := (m.segments.map segObjects).flatten

/-- R56: a scale table as its bytes give it. -/
def tableOfBytes (bs : List Byte) : ScaleTable :=
  let h := leValue (bs.take 8)
  let n := bits h 47 24
  { tableId := bits h 63 48, channels := n, scales := (leWords 4 n (bs.drop 32)).map (BitVec.ofNat 32),
    flags := (leWords 4 ((n + 31) / 32) (bs.drop (32 + 4 * n))).map (BitVec.ofNat 32), length := bs.length }

def objectId (o : LoadObject) : Nat := if o.isTable then (tableOfBytes o.bytes).tableId else (codebookOfBytes o.bytes).cbId

/-- R55, R57: one object, after the objects before it. -/
def objectFault (seen : List LoadObject) (o : LoadObject) : Option Half :=
  let same := seen.filter fun x => x.isTable == o.isTable
  if o.isTable then
    match scaleTableCheck (tableOfBytes o.bytes) with
    | some c => some c
    | none => if objectId o = 0 ∨ (same.map objectId).contains (objectId o) then some 0x1C25 else none
  else
    codebookFault (same.map objectId) (wholeCodebook o.bytes)

def objectsFault : List LoadObject → List LoadObject → Option Half
  | _, [] => none
  | seen, o :: t => match objectFault seen o with
    | some c => some c
    | none => objectsFault (seen ++ [o]) t

def imageDecls (m : Manifest) : List Decl := (m.segments.map (·.decls)).flatten

def pushesOf (ds : List Decl) (g : Nat) : List (Nat × Nat × Nat) :=
  ds.filterMap fun d => match d with
    | .pushes c e _ n w => if c = g then some (e, n, w) else none
    | _ => none

/-- R203: the entry addresses that an image declares for a core. -/
def declaredEntries (ds : List Decl) (g : Nat) : List Nat :=
  ds.filterMap fun d => match d with
    | .pushes c e _ _ _ => if c = g then some e else none
    | .coreEntry c e => if c = g then some e else none
    | _ => none

/-- R268: D and the header size of a page format. -/
def pageData (fmt h : Nat) : Nat := if fmt = 0 then 8192 * h else if fmt = 1 then 4096 * h else 16384 * h
def pageHeader (fmt h : Nat) : Nat := if fmt = 2 then 64 else 32 * ceilDiv (64 + 528 * h) 32

def pageFmtOk (c : CacheDecl) (f : PageFmt) : Bool :=
  decide (f.fmt ≤ 2) && (f.fmt == 2 || (decide (1 ≤ f.cb) && decide (f.cb ≤ 0xFFF))) && decide (1 ≤ f.table) &&
    decide (f.table ≤ 0xFFFF) && decide (f.scaleCtl < 16) && decide (pageData f.fmt c.heads ≤ c.pageBytes) &&
    decide (pageHeader f.fmt c.heads ≤ c.headerBytes)

def pageCodebooks (c : CacheDecl) : List Nat := c.pages.foldl (fun l f => if f.fmt = 2 then l else setInsert l f.cb) []

/-- Row 1 of R268. -/
def cacheRanges (c : CacheDecl) : Bool :=
  decide (1 ≤ c.layers) && decide (c.layers ≤ 2048) && decide (1 ≤ c.heads) && decide (c.heads ≤ 16) &&
    decide (2 ≤ c.qheads) && decide (c.qheads ≤ 16) && c.qheads % 2 == 0 && c.pages.length == 2 * c.layers &&
    decide (1 ≤ c.minWindow) && decide (c.minWindow ≤ 64) && c.decode.length == c.layers &&
    decide (16384 ≤ c.pageBytes) && decide (c.pageBytes ≤ 131072) && c.pageBytes % 2048 == 0 && c.headerBytes % 32 == 0 &&
    decide (1 ≤ c.sequences) && decide (c.sequences ≤ 65536) && decide (1 ≤ c.maxBlocks) && decide (c.maxBlocks ≤ 16384) &&
    decide (1 ≤ c.blocks) && !badScale c.attnFactor && !c.attnFactor.getLsbD 31 && decide (2 ≤ c.ssegBase) &&
    decide (c.ssegBase ≤ 14) && c.pages.all (pageFmtOk c) && decide ((pageCodebooks c).length ≤ 16)

/-- Words of an operation on the path of a phrase. -/
def pathWords (m : Mem) (op pc : Nat) : List Nat := ((phrasePath m pc).words.map (·.1)).filter fun w => opOf w == op

/-- Row 3 of R268: the phrases of one page codebook. -/
def attnPhrasesOk (c : CacheDecl) (micro codebooks : Mem) (p : AttnPhrases) : Bool :=
  let slotIs (w : Nat) := bits (slotHeader codebooks (bits w 53 50)) 63 48 == p.cb
  let score := pathWords micro 0x11 p.score
  let value (pc h sseg : Nat) : Bool :=
    let ws := pathWords micro 0x12 pc
    !ws.isEmpty && ws.all fun w => bits w 37 28 == 128 && bits w 49 46 + 1 == c.qheads / 2 && bits w 41 38 == h &&
      bits w 45 42 == sseg && slotIs w
  !score.isEmpty && (score.all fun w => bits w 37 28 == 0 && bits w 45 42 == 0 && bits w 49 46 + 1 == c.qheads && slotIs w) &&
    value p.value0 0 c.ssegBase && value p.value1 (c.qheads / 2) (c.ssegBase + 1)

/-- R274: the bytes of the directory. -/
def directoryBytes (c : CacheDecl) : Nat := 4 * c.sequences * c.maxBlocks + 256 * c.sequences + 16 * c.blocks + 16 * 1048576

/-- R268. -/
def cacheFault (m : Manifest) (micro codebooks : Mem) (c : CacheDecl) : Option Half :=
  if !cacheRanges c then some 0x4C30
  else if (List.range c.layers).any fun l => c.decode.getD l false && ((pageFmt c l 0).fmt == 2 || (pageFmt c l 1).fmt == 2) then
    some 0x4C31
  else if !c.phrases.all (attnPhrasesOk c micro codebooks) then some 0x4C32
  else if ((m.allocs[c.reserve]?).map (·.size)).getD 0 < c.blocks * blockBytes c + directoryBytes c then some 0x4C33
  else none

/-- R323. -/
def jobFault (m : Manifest) (j : JobDecl) : Option Half :=
  let area (t : Nat) := (imageDecls m).any fun d => match d with
    | .saveArea k r => k == t && (match m.allocs[r]? with
      | some a => decide (147865600 ≤ a.size) && a.isSealed && a.tenant == 0
      | none => false)
    | _ => false
  if j.steps.any (fun x => decide (158 * 256 < x)) || decide (4194304 < j.maxMove) || !(List.range 8).all area then some 0x4841
  else none

/-- R352: slices cover WIDTH once, every child appears, no path is longer than 32 stages. -/
def collFault (c : CollDecl) : Option Half :=
  let firsts := c.slices.map (·.first)
  let ok := decide (c.id < 64) && decide (c.members.length ≤ 256) && decide (c.slices.length ≤ 64) && firsts.contains 0 &&
    firsts.all (fun f => decide (f < c.width)) && (firsts.foldl setInsert []).length == firsts.length &&
    c.slices.all (fun s => s.children.all c.members.contains) && decide (c.maxPath ≤ 32)
  if ok then none else some 0x5041

/-- R347. -/
def windowFault (m : Manifest) (w : WindowDecl) : Option Half :=
  let inside := m.allocs.any fun a => a.scratch == w.scratch && decide (a.base ≤ w.base) &&
    decide (w.base + w.size ≤ a.base + a.size)
  let staging := w.scratch && bankOf w.base == 18 && bankOf (w.base + w.size - 1) == 18
  if inside && (!w.atomic || staging) then none else some 0x5042

/-- R349. -/
def exportFault (e : ExportDecl) : Option Half :=
  if e.tile < 8 ∧ e.offset % 2048 = 0 ∧ e.offset + e.size ≤ 0x800000 then none else some 0x5042

/-- R347, R349, R352: how many an image may declare. -/
def countsFault (ds : List Decl) : Option Half :=
  let count (p : Decl → Bool) := (ds.filter p).length
  if 256 < count (fun d => match d with | .window _ => true | _ => false) then some 0x5042
  else if (List.range 8).any fun t => decide (16 < count (fun d => match d with | .exportWindow e => e.tile == t | _ => false)) then
    some 0x5042
  else if 64 < count (fun d => match d with | .collective _ => true | _ => false) then some 0x5041
  else none

def declFault (m : Manifest) (micro codebooks : Mem) (d : Decl) : Option Half :=
  match d with
  | .cache c => cacheFault m micro codebooks c
  | .job j => jobFault m j
  | .collective c => collFault c
  | .window w => windowFault m w
  | .exportWindow e => exportFault e
  | _ => none

/-- R432: ALLOC of an image's descriptor is a record number + 1 with generation 0: the identifier takes its place. -/
def relocate (s : State) (allocs : List Nat) (d : BitVec 512) : BitVec 512 :=
  let r := (decodeDesc d).alloc
  let k := allocs.getD (r - 1) 0
  let id := if r = 0 then 0 else allocIdent k (tabGet {} s.tables.allocs k)
  let w := descWord d 1 % 2 ^ 44 + id * 2 ^ 44
  BitVec.ofNat 512 (leValue (((List.range 8).map fun i => leBytes 8 (if i = 1 then w else descWord d i)).flatten))

/-- R54, R242 for an image's descriptor: identifiers are scoped to the image. -/
def imageCodebookOk (m : Manifest) (d : Desc) : Bool :=
  let own := imageObjects m
  (isCoded d.fmt == (d.cbId != 0)) &&
    (d.cbId == 0 || own.any (fun o => !o.isTable && objectId o == d.cbId)) &&
    (d.tableId == 0 || own.any (fun o => o.isTable && objectId o == d.tableId))

def descriptorFault (s : State) (m : Manifest) (x : Nat × BitVec 512) : Option Half :=
  if x.1 = 0 ∨ 65535 < x.1 ∨ (descEntry s x.1).isSome then some 0x2002
  else descCheck s (imageCodebookOk m) (some m.tenant) (decodeDesc (relocate s s.load.allocs x.2))

/-- The micro-program and codebook stores as the transfer left them, of the first live unit. -/
def firstUnit (s : State) : Unit := unit s ((liveUnits s).headD 0)

/-- Row 16 of R435 for one segment; `seen` are the objects of the segments before it. -/
def segmentFault (s : State) (m : Manifest) (seen : List LoadObject) (g : Segment) : Option Half :=
  let v := firstUnit s
  match g.kind with
  | 6 => objectsFault seen (segObjects g)
  | 3 =>
    if g.target % 8 = 0 then
      let a := g.target / 256 % 2 ^ 24 * 32
      (phrasesIn v.micro a (g.length / 8)).findSome? (phraseCheck v.micro m.cbMask m.scaleBase m.scaleWords)
    else none
  | 5 =>
    let c := g.target % 128
    let ps := pushesOf (imageDecls m) c
    coreCheck (core s c).imem m.cbMask m.tableMask (g.target / 65536 % 4096) (g.length / 16) (declaredEntries (imageDecls m) c)
      (ps.map (·.2))
  | 7 => (segDescriptors g).findSome? (descriptorFault s m)
  | 8 => match g.decls.findSome? (declFault m v.micro v.codebooks) with
    | some c => some c
    | none => countsFault g.decls
  | _ => none

def contentFault (s : State) (m : Manifest) : Nat → List LoadObject → List Segment → Option Refuse
  | _, _, [] => none
  | i, seen, g :: t => match segmentFault s m seen g with
    | some c => some { code := 0x1021, cause := c, detail := BitVec.ofNat 16 i }
    | none => contentFault s m (i + 1) (seen ++ segObjects g) t

/-- Row 17: a forbidden rounding field on a path. -/
def roundingFault (s : State) (m : Manifest) : Bool :=
  let v := firstUnit s
  (phrasesIn v.micro m.mpBase m.mpWords).any fun pc => (phrasePath v.micro pc).words.any fun w => badRounding w.1

/-- Rows 15 to 17 of R435. -/
def contentCheck (s : State) (m : Manifest) : Option Refuse :=
  match firstBad (fun _ (g : Segment) => !g.hashOk) m.segments with
  | some i => some { code := 0x1020, detail := BitVec.ofNat 16 i }
  | none => match contentFault s m 0 [] m.segments with
    | some r => some r
    | none => if roundingFault s m then some { code := 0x1022 } else none

/-! Commit, undo, unload (R436, R438). -/

def clearSlots (mask : Nat) (size base : Nat) (n : Nat) (m : Mem) : Mem :=
  (List.range n).foldl (fun m k => if bit mask k then tabClear m (base + size * k) (base + size * k + size) else m) m

def clearTables (mask : Nat) (m : Mem) : Mem := clearSlots mask 16 16384 8 (clearSlots mask 2048 0 8 m)

/-- A byte of a unit's store that lies in a range of the image (R139: stores 0 to 5). -/
def clearedByte (m : Manifest) (store b : Nat) : Bool :=
  match store with
  | 0 => inRange (8 * m.mpBase) (8 * m.mpWords) b
  | 1 => decide (b < 8320) && m.cbMask.getLsbD (b / 520)
  | 2 => inRange (4 * m.scaleBase) (4 * m.scaleWords) b
  | 3 => if b < 16384 then m.tableMask.getLsbD (b / 2048) else decide (b < 16512) && m.tableMask.getLsbD ((b - 16384) / 16)
  | 4 => m.freq
  | 5 => inRange (32 * m.lbBase) (32 * m.lbSectors) b
  | _ => false

/-- A sector all of whose bytes are zeroed: its mark goes. -/
def clearedSector (m : Manifest) (store k : Nat) : Bool := (List.range 32).all fun i => clearedByte m store (32 * k + i)

/-- A byte of a core's or an owner's shared store (1 codebooks, 2 tables, 3 frequencies). -/
def clearedShared (m : Manifest) (store b : Nat) : Bool := store != 0 && clearedByte m ([0, 1, 3, 4].getD store 9) b

/-- The unit-store ranges of an image, zeroed. -/
def clearUnit (m : Manifest) (v : Unit) : Unit :=
  { v with
    micro := tabClear v.micro (8 * m.mpBase) (8 * (m.mpBase + m.mpWords))
    codebooks := clearSlots m.cbMask.toNat 520 0 16 v.codebooks
    tables := clearTables m.tableMask.toNat v.tables
    freqs := if m.freq then [] else v.freqs
    scales := tabClear v.scales (4 * m.scaleBase) (4 * (m.scaleBase + m.scaleWords))
    lb := tabClear v.lb (32 * m.lbBase) (32 * (m.lbBase + m.lbSectors))
    lbMarks := v.lbMarks.filter fun k => !inRange m.lbBase m.lbSectors k
    storeMarks := v.storeMarks.filter fun k => !clearedSector m (k / 4096) (k % 4096)
    bad := v.bad.filter fun b => !clearedByte m (b / 65536) (b % 65536) }

/-- R436, R438: unit-store, instruction-memory and shared ranges are zeroed. -/
def clearStores (m : Manifest) (s : State) : State :=
  let s1 := (liveUnits s).foldl (fun s u => onUnit u (clearUnit m) s) s
  let s2 := (List.range 8).foldl (fun s t => onOwner t (fun o => { o with
    codebooks := clearSlots m.cbMask.toNat 520 0 16 o.codebooks
    tables := clearTables m.tableMask.toNat o.tables
    freqs := if m.freq then [] else o.freqs }) s) s1
  let s3 := (List.range 128).foldl (fun s g => onCore g (fun c => { c with
    codebooks := clearSlots m.cbMask.toNat 520 0 16 c.codebooks
    tables := clearTables m.tableMask.toNat c.tables
    freqs := if m.freq then [] else c.freqs
    storeMarks := c.storeMarks.filter fun k => !(List.range 32).all fun i => clearedShared m (k / 32768) (k % 32768 * 32 + i)
    bad := c.bad.filter fun b => !clearedShared m (b / 1048576) (b % 1048576) }) s) s2
  (coresOf m).foldl (fun s g => onCore g (fun c => { c with
    imem := tabClear c.imem (16 * m.imBase) (16 * (m.imBase + m.imCount)) }) s) s3

def freeAllocs (l : List Nat) (s : State) : State := l.foldl (fun s i => freeAlloc i s) s

/-- R436: a load that fails is undone. -/
def undoLoad (r : Refuse) (o : ImageObject) (s : State) : State :=
  setLoad (fun l => { l with
      phase := .undo, object := none, allocs := [],
      op := { l.op with outcome := r.code }, cause := r.cause, detail := r.detail })
    (freeAllocs s.load.allocs (clearStores o.manifest s))

def buildDirectory (m : Manifest) (s : State) : State :=
  let micro := (firstUnit s).micro
  (phrasesIn micro m.mpBase m.mpWords).foldl (fun s pc => (List.range 8).foldl (fun s t =>
    { s with near.directory := tabSet 0 s.near.directory (512 * t + pc) (directoryEntry (microAt micro pc)) }) s) s

/-- R436: what a declaration installs. -/
def installDecl (n tenant : Nat) (d : Decl) (s : State) : State :=
  match d with
  | .cache c => { s with kv := { s.kv with total := c.blocks } }
  | .collective c => { s with fabric.colls := tabPut s.fabric.colls c.id { image := n, decl := c } }
  | .window w => { s with fabric.inbound := s.fabric.inbound ++ [{ image := n, decl := w }] }
  | .exportWindow e => { s with fabric.exports := s.fabric.exports ++ [{ image := n, tenant := tenant, decl := e }] }
  | .expert t e => onOwner t (fun o => { o with experts := tabPut o.experts e.expert e }) s
  | .destination t k ws => onOwner t (fun o => { o with dest := tabPut o.dest k (destWords ws) }) s
  | .mvsRecord k bs => (liveUnits s).foldl (fun s u => onUnit u (fun v => { clearBad 5 (32 * k) bs.length v with
      lb := memWriteL v.lb (32 * k) bs
      lbMarks := v.lbMarks.filter fun j => !inRange k (bs.length / 32) j }) s) s
  | _ => s

def objectMap (tables : Bool) (l : List LoadObject) : Tab Nat :=
  (l.filter fun o => o.isTable == tables).foldl (fun t o => tabPut t (objectId o) o.address) []

/-- R406: a measurement entry. -/
def addEntry (type : Byte) (tenant index version : Nat) (digest : BitVec 384) (s : State) : State :=
  { s with lut.measurements := s.lut.measurements ++
      [{ type := type, tenant := BitVec.ofNat 8 tenant, index := BitVec.ofNat 16 index, version := BitVec.ofNat 16 version,
         digest := digest }] }

/-- R406: the entry of an item whose bytes the model does not hold whole: its digest is free. -/
def addMeasurement (type : Byte) (tenant index version : Nat) (s : State) : State :=
  addEntry type tenant index version (Config.freeDigest (takeFree s).1) (takeFree s).2

/-- R436: the commit. -/
def commitLoad (o : ImageObject) (s : State) : State :=
  let m := o.manifest
  let n := freeImage s
  let ds := imageDescriptors m
  let s1 := ds.foldl (fun s d => addDesc d.1 (relocate s s.load.allocs d.2) (some n) s) s
  let s2 := (imageDecls m).foldl (fun s d => installDecl n m.tenant d s) (buildDirectory m s1)
  let image : Image := {
    version := o.hdr.version, manifest := { m with segments := [] }, allocs := s.load.allocs, descs := ds.map (·.1),
    decls := imageDecls m, codebooks := objectMap false (imageObjects m), scaleTables := objectMap true (imageObjects m) }
  setLoad (fun l => { l with
      phase := .commit, object := none, allocs := [], index := BitVec.ofNat 3 n, images := tabPut l.images n image })
    (addMeasurement 0x10 m.tenant n 0 s2)

/-- LOAD_COMMIT (R434-R436): the transfer, rows 15 to 17, and the commit or the undoing. -/
def execLoadCommit (s : State) : Out :=
  match s.load.object with
  | none => .next s
  | some o =>
    if o.manifest.segments.any (segmentWaits s) then .next (deferCommand .loadCommit s)
    else
      let s1 := transferAll o s
      match contentCheck s1 o.manifest with
      | some r => .next (undoLoad r o s1)
      | none => .next (commitLoad o s1)

/-! Unload (R327, R360, R438). -/

def jobDone (j : Job) : Bool := j.state == .idle || j.state == .done || j.state == .failed

/-- The job entries of an image. -/
def jobEntries (i : Image) : List Nat := i.decls.filterMap fun d => match d with | .job j => some j.entry | _ => none

/-- JOB_HOLDS_CORES (R335): the states in which a job holds the cores. -/
def holdsCores (x : JobState) : Bool := x == .running || x == .saving || x == .restoring

/-- JOB_US, with the time since the job took the cores. -/
def jobUs (s : State) (v : Job) : Quad :=
  if holdsCores v.state then v.us + BitVec.ofNat 64 (s.us - v.heldSince) else v.us

/-- R327: the image's jobs fail with 0x4843, and the save area of one that has it is released. -/
def failJobs (i : Image) (s : State) : State :=
  let hit (j : Job) := !jobDone j && (jobEntries i).contains j.entry
  let hits := s.tenancy.jobs.filter fun e => hit e.2
  let jobs := s.tenancy.jobs.map fun e =>
    if hit e.2 then (e.1, { e.2 with state := .failed, code := 0x4843, us := jobUs s e.2 }) else e
  let s1 : State := { s with
    tenancy.jobs := jobs
    saved := if hits.any fun e => [JobState.saving, .saved, .restoring].contains e.2.state then none else s.saved }
  (List.range hits.length).foldl (fun s _ => reportFree 0x4843 subjServing subjServing s) s1

/-- R438: sequences and adapter slots of a serving image. -/
def clearServing (s : State) : State :=
  let s1 := s.kv.seqs.foldl (fun s e => if e.2.state = .free then s else freeSeq e.1 s) s
  { s1 with
    kv.blocks := [], kv.filling := [], kv.prefixes := [], kv.pageOpen := [], kv.total := 0
    tenancy.adapters := []
    lut.measurements := s1.lut.measurements.filter fun m => m.type != 0x11 }

def dropDecl (d : Decl) (s : State) : State :=
  match d with
  | .expert t e => onOwner t (fun o => { o with experts := tabDel o.experts e.expert }) s
  | .destination t k _ => onOwner t (fun o => { o with dest := tabDel o.dest k }) s
  | _ => s

/-- R438: an accepted unload of image `n`. -/
def dropImage (n : Nat) (i : Image) (s : State) : State :=
  let s1 := failJobs i s
  let s2 := if i.manifest.serves then clearServing s1 else s1
  let s3 := i.decls.foldl (fun s d => dropDecl d s) (i.descs.foldl (fun s k => dropDesc k s) s2)
  let s4 := clearStores i.manifest { s3 with
    fabric.inbound := s3.fabric.inbound.filter fun w => w.image != n
    fabric.exports := s3.fabric.exports.filter fun w => w.image != n
    fabric.colls := s3.fabric.colls.filter fun c => c.2.image != n
    near.directory := s3.near.directory.filter fun e =>
      !inRange i.manifest.mpBase i.manifest.mpWords (e.1 % 512)
    lut.measurements := s3.lut.measurements.filter fun m =>
      !((m.type == 0x10 || m.type == 0x13 || m.type == 0x14) && m.index == BitVec.ofNat 16 n) }
  freeAllocs i.allocs (setLoad (fun l => { l with images := tabDel l.images n }) s4)

/-- Row 4 of R438: a descriptor created by the host names an allocation of the image. -/
def hostNames (s : State) (i : Image) : Bool :=
  s.tables.descs.any fun e => e.2.image.isNone && i.allocs.contains ((decodeDesc e.2.words).alloc % 16384)

/-- UNLOAD (R438). -/
def unloadImage (s : State) : State :=
  if s.load.op.busy then { s with load.op := s.load.op.refuse 0x1011 }
  else match tabFind? s.load.images s.load.index.toNat with
    | none => setLoad (fun l => { l with op := l.op.begin 0x1030 }) s
    | some i =>
      if (i.manifest.serves && s.serve.requests.any fun e => e.2.state != .free) then
        setLoad (fun l => { l with op := l.op.begin 0x1031 }) s
      else if hostNames s i then setLoad (fun l => { l with op := l.op.begin 0x1032 }) s
      else dropImage s.load.index.toNat i (setLoad (fun l => { l with op := l.op.begin 0, phase := .undo }) s)

end Sys2Proof.Machine
end

