-- ==== Sys2Proof/Machine/Jobs.lean ====
section
/-! DEFINITION. Jobs: the eight slots, pre-emption and the save area (R323-R327, R336). -/
namespace Sys2Proof.Machine

def job (s : State) (j : Nat) : Job := tabGet {} s.tenancy.jobs j
def setJob (j : Nat) (v : Job) (s : State) : State := { s with tenancy.jobs := tabPut s.tenancy.jobs j v }

/-- A slot moves to another state; the time it held the cores is added as it leaves them. -/
def moveJob (j : Nat) (next : JobState) (s : State) : State :=
  let v := job s j
  setJob j { v with
    state := next
    us := if holdsCores next then v.us else jobUs s v
    heldSince := if holdsCores v.state then v.heldSince else s.us } s

/-- The declaration of a job entry among the loaded images. -/
def jobDecl (s : State) (entry : Nat) : Option JobDecl :=
  (s.load.images.map fun e => e.2.decls).flatten.findSome? fun d => match d with
    | .job x => if x.entry = entry then some x else none
    | _ => none

/-! START and STOP (R324). -/

def beginJob (code : Half) (s : State) : State := { s with tenancy.jobOp := s.tenancy.jobOp.begin code }
def refuseJob (s : State) : State := { s with tenancy.jobOp := s.tenancy.jobOp.refuse 0x4846 }

/-- JOB_OP START. -/
def jobStart (s : State) : State :=
  let j := s.tenancy.jobSlot.toNat
  if s.tenancy.jobOp.busy then refuseJob s
  else if !jobDone (job s j) ∨ !tenantValid s s.tenancy.jobTenant.toNat then beginJob 0x4842 s
  else beginJob 0 (setJob j
    { state := .waiting, tenant := s.tenancy.jobTenant.toNat, entry := s.tenancy.jobEntry.toNat,
      args := s.tenancy.jobArgs, code := (job s j).code } s)

/-- JOB_OP STOP. -/
def jobStop (s : State) : State :=
  let j := s.tenancy.jobSlot.toNat
  let v := job s j
  if s.tenancy.jobOp.busy then refuseJob s
  else match v.state with
    | .idle | .done | .failed => beginJob 0x4844 s
    | .running | .saving => beginJob 0 (setJob j { v with stopTaken := true } s)
    | .saved | .restoring => beginJob 0 { moveJob j .done s with saved := none }
    | .waiting => beginJob 0 (moveJob j .done s)

/-! The cores (R321, R324). -/

/-- A fault stops the job with its first code. -/
def failJob (j : Nat) (code : Half) (s : State) : State :=
  let s1 := moveJob j .failed s
  setJob j { job s1 j with code := code } { s1 with saved := none }

/-- The cores that the steps of a job need. -/
def jobCores (s : State) (j : Nat) : List Nat := ((jobDecl s (job s j).entry).map (·.cores)).getD []

/-- R212, R390: a step of the job starts; it fails where it needs a fenced core or a tripped tile. -/
def startJobStep (j : Nat) (s : State) : State :=
  match planFault s (jobCores s j) with
  | some c => failJob j c s
  | none => s

/-- JOB_RUN (R324). -/
def execJobRun (j : Fin 8) (s : State) : Out :=
  if (job s j).state == .waiting && !jobHolds s && (chunkRequest s).isNone && s.serve.chunk.isNone &&
      !(s.tenancy.jobs.any fun e => e.2.state == .saved) then
    .next (startJobStep j (moveJob j .running s))
  else .next s

/-- A step of the job ends well: the job is done, or gives way to a latency-critical prompt, or its next step starts. -/
def jobStepOver (givesWay : Bool) (j : Nat) (s : State) : State :=
  let v := job s j
  let n := ((jobDecl s v.entry).map (·.steps.length)).getD 0
  let s1 := setJob j { v with step := v.step + 1 } s
  if v.stopTaken ∨ n ≤ v.step + 1 then moveJob j .done s1
  else if givesWay then moveJob j .saving s1 else startJobStep j s1

/-- R206, R324: the fault that stops a job: what its cores have returned, else `code`, the code of a phrase's fault. -/
def stoppedBy (j : Nat) (code : Half) (s : State) : Option Half :=
  (coresCode s (jobCores s j)).or (if failureCode code then some code else none)

/-- JOB_STEP_END (R324, R327): `code` is the code of a phrase's fault that stopped the step, 0 for none. -/
def execJobStepEnd (j : Fin 8) (code : Half) (s : State) : Out :=
  match stoppedBy j code s, (job s j).state with
  | some c, .running | some c, .saving => .next (failJob j c (clearCodes (jobCores s j) s))
  | none, .running => .next (if code = 0 then jobStepOver false j s else s)
  | _, _ => .next s

/-! Pre-emption (R325, R326). -/

/-- The banks that are saved: core banks, DMA and collectors' staging; fabric and host staging if declared. -/
def savedBanks (d : Option JobDecl) : List Nat :=
  List.range 18 ++ (if (d.map (·.savesStaging)).getD false then [18, 19] else [])

def inBanks (banks : List Nat) (a : Nat) : Bool := banks.contains (bankOf a)

/-- The read of a unit's burst 13 in a save: its list goes to the controller and clears (R118, R140). -/
def handErrors (u : Nat) (s : State) : State :=
  let v := unit s u
  let s1 := onUnit u (fun v => { v with errors := [], listOverflow := false }) (queueRereads u v.errors s)
  if v.listOverflow then onChan (u / 16) (fun h => { h with dronePairs := h.dronePairs ++ [40960 * (u % 16)] }) s1 else s1

def jobSavesUnits (d : Option JobDecl) : Bool := (d.map (·.savesUnits)).getD false

/-- R34, R64, R119: an accumulator file and its statistics in the layout in which they are saved. -/
def saveFile (accs : Tab Acc) (stats : Tab Stats) (statMarks : List Nat) : SavedFile :=
  { accs := accs.map fun e => (e.1, e.2.toBits)
    accMarks := accs.foldl (fun l e => if e.2.poison then setInsert l (e.1 / 2) else l) []
    spilled := (accs.filter fun e => !e.2.spilled.isEmpty).map fun e => (e.1, e.2.spilled)
    stats := stats.map fun e => (e.1, e.2.toBits)
    statMarks := statMarks }

/-- What a saved file gives back: an accumulator takes the mark of the sector that held it. -/
def SavedFile.readAccs (f : SavedFile) : Tab Acc :=
  f.accs.map fun e => (e.1, { Acc.ofBits e.2 (f.accMarks.contains (e.1 / 2)) with spilled := tabGet [] f.spilled e.1 })

def SavedFile.readStats (f : SavedFile) : Tab Stats := f.stats.map fun e => (e.1, Stats.ofBits e.2)

/-- The marks of a core's statistics (store 5, R116). -/
def statMarksOf (c : Core) : List Nat := c.storeMarks.filter fun k => k / 32768 == 5

def saveCore (c : Core) : SavedCore :=
  { file := saveFile c.accs c.stats (statMarksOf c), regs := c.regs, counters := c.counters, pc := c.pc, lastPc := c.lastPc }

def saveCollector (q : Collector) : SavedCollector :=
  { file := saveFile q.accs q.stats [], maxes := q.maxes, partials := q.partials }

/-- R140: the 144 bursts of a unit's saved state. -/
def saveUnit (v : Unit) : List (List Sector) := (List.range 144).map (savedBurst v)

/-- R325: the parts of the table as they stand. -/
def saveParts (d : Option JobDecl) (s : State) : SaveArea :=
  let banks := savedBanks d
  { cores := s.dense.cores.map fun e => (e.1, saveCore e.2)
    collectors := s.near.collectors.map fun e => (e.1, saveCollector e.2)
    banks := banks
    bytes := s.scratch.bytes.filter fun e => inBanks banks e.1
    marks := s.scratch.marks.filter fun k => inBanks banks (32 * k)
    units := if jobSavesUnits d then some (s.near.units.map fun e => (e.1, saveUnit e.2)) else none }

/-- What a save area puts back of a core (R212). -/
def restoreCore (x : SaveArea) (g : Nat) (c : Core) : Core :=
  let v := tabGet {} x.cores g
  { c with
    accs := v.file.readAccs
    stats := v.file.readStats
    storeMarks := (c.storeMarks.filter fun k => k / 32768 != 4 && k / 32768 != 5) ++ v.file.statMarks
    bad := c.bad.filter fun k => k / 1048576 != 4 && k / 1048576 != 5
    regs := v.regs
    counters := v.counters
    pc := v.pc
    lastPc := v.lastPc }

/-- What a save area puts back of a collector. -/
def restoreCollector (x : SaveArea) (kk : Nat) (q : Collector) : Collector :=
  let v := tabGet {} x.collectors kk
  { q with accs := v.file.readAccs, stats := v.file.readStats, maxes := v.maxes, partials := v.partials }

/-- What a save area writes down to a unit: its bursts through STORE 110 (R140). -/
def restoreUnit (t : Tab (List (List Sector))) (u : Nat) (w : Unit) : Unit :=
  let bursts := (tabFind? t u).getD (saveUnit {})
  ((List.range 144).zip bursts).foldl (fun v e => restoreBurst e.1 e.2 v) w

/-- R325: the parts of the table are put back, marks and poison with them (R327). -/
def restoreParts (x : SaveArea) (s : State) : State :=
  let s1 : State := { s with
    scratch.bad := s.scratch.bad.filter fun a => !inBanks x.banks a
    scratch.bytes := x.bytes.foldl (fun m e => memWrite m e.1 e.2) (s.scratch.bytes.filter fun e => !inBanks x.banks e.1)
    scratch.marks := x.marks.foldl setInsert (s.scratch.marks.filter fun k => !inBanks x.banks (32 * k)) }
  let s2 := (List.range 32).foldl (fun s kk => onCollector kk (restoreCollector x kk) s)
    ((List.range 128).foldl (fun s g => onCore g (restoreCore x g) s) s1)
  match x.units with
  | none => s2
  | some t => (liveUnits s2).foldl (fun s u => onUnit u (restoreUnit t u) s) s2

/-- R326: the switch times. -/
def noteSwitch (ticks : Half) (s : State) : State :=
  { s with
    tenancy.preemptions := s.tenancy.preemptions + 1
    tenancy.lastSwitch := ticks
    tenancy.maxSwitch := if s.tenancy.maxSwitch.toNat < ticks.toNat then ticks else s.tenancy.maxSwitch }

/-- JOB_PREEMPT (R324, R325): the step that runs ends at its boundary, which may be the job's end; a restore stops after its
current granule. `ticks` is the switch time of that last case, in 100 ns. -/
def execJobPreempt (j : Fin 8) (ticks : Half) (s : State) : Out :=
  if !lcPromptReady s then .next s
  else match (job s j).state with
    | .running => .next (match stoppedBy j 0 s with
      | some c => failJob j c (clearCodes (jobCores s j) s)
      | none => jobStepOver true j s)
    | .restoring => .next (noteSwitch ticks (moveJob j .saved s))
    | _ => .next s

/-- JOB_SAVE_DONE (R324-R327): every part is saved; `ticks` is the switch time in 100 ns. -/
def execJobSaveDone (j : Fin 8) (ticks : Half) (s : State) : Out :=
  let v := job s j
  if v.state == .saving then
    let d := jobDecl s v.entry
    let x := saveParts d s
    let s1 := if jobSavesUnits d then (liveUnits s).foldl (fun s u => handErrors u s) s else s
    let s2 := noteSwitch ticks { s1 with order.moduleReleases := s1.order.moduleReleases + 1 }
    .next (if v.stopTaken then { moveJob j .done s2 with saved := none } else { moveJob j .saved s2 with saved := some x })
  else .next s

/-- JOB_RESTORE (R324): RESUME_HOLD has passed at time `at_` with no latency-critical prompt position. -/
def execJobRestore (j : Fin 8) (at_ : Nat) (s0 : State) : Out :=
  let s := advanceTo at_ s0
  if (job s j).state == .saved && !lcPromptReady s && !jobHolds s &&
      decide (s.tenancy.lastLcPrompt + s.tenancy.resumeHold.toNat ≤ s.us) then .next (moveJob j .restoring s)
  else .next s

/-- JOB_RESTORE_DONE (R324). -/
def execJobRestoreDone (j : Fin 8) (s : State) : Out :=
  if (job s j).state == .restoring then
    let s1 := match s.saved with | some x => restoreParts x s | none => s
    .next (startJobStep j { moveJob j .running s1 with saved := none })
  else .next s

end Sys2Proof.Machine
end

