-- ==== Sys2Proof/Machine/Adapters.lean ====
section
/-! DEFINITION. Adapter operations (R330-R334, R437). -/
namespace Sys2Proof.Machine

/-- SLOT_BYTES and the allocation records of the slots (R330). -/
def adapterDecl : List Decl → Option (Nat × List Nat)
  | [] => none
  | .adapters n l :: _ => some (n, l)
  | _ :: t => adapterDecl t

def slotSize (s : State) : Nat := ((adapterDecl (servingDecls s)).map (·.1)).getD 0

/-- The allocation of slot `a`. -/
def slotAlloc (s : State) (a : Nat) : Alloc :=
  match servingImage s, adapterDecl (servingDecls s) with
  | some (_, i), some (_, l) => tabGet {} s.tables.allocs (i.allocs.getD (l.getD a 0) 0)
  | _, _ => {}

def beginAdapter (code cause : Half) (s : State) : State :=
  { s with
    tenancy.adapterOp := s.tenancy.adapterOp.begin code
    tenancy.adapterCause := if code = 0x4833 then cause else s.tenancy.adapterCause }

/-- The registers that LOAD and INSTALL take as they stand (R333, R453). -/
def adapterArgs (s : State) : List Nat :=
  [s.tenancy.adapterSource.toNat, s.tenancy.adapterTenant.toNat, bitNat s.tenancy.predValid, s.tenancy.predecessor.toNat]

def withAdapterArgs (l : List Nat) (s : State) : State :=
  { s with
    tenancy.adapterSource := BitVec.ofNat 64 (l.getD 0 0)
    tenancy.adapterTenant := BitVec.ofNat 8 (l.getD 1 0)
    tenancy.predValid := l.getD 2 0 == 1
    tenancy.predecessor := BitVec.ofNat 10 (l.getD 3 0) }

def refuseAdapter (s : State) : State := { s with tenancy.adapterOp := s.tenancy.adapterOp.refuse 0x4832 }

def freeAdapter (s : State) : Option Nat := lowestFree s.tenancy.adapters (fun e => e.state != .free) (adapterSlots s) 0

def isCurrent (s : State) (a : Nat) : Bool := decide (a < adapterSlots s) && (adapter s a).state == .current

/-- Rows 2 and 4 to 7 of R333; `job` is row 6. -/
def adapterCheck (s : State) (job : Bool) : Option Half :=
  let t := s.tenancy.adapterTenant.toNat
  let p := s.tenancy.predecessor.toNat
  if t ≠ 0 ∧ tenantValid s t = false then some 0x4801
  else if s.tenancy.predValid ∧ (!isCurrent s p ∨ (adapter s p).tenant ≠ t) then some 0x4831
  else if freeAdapter s = none then some 0x4830
  else if !job then some 0x4835
  else if 65535 ≤ s.tenancy.nextVersion then some 0x4837
  else none

/-- R98, R105, R437: the degraded state, then rows 4 to 7, 10, 15 and 16 of R435 for an adapter image. -/
def adapterImageCheck (s : State) (ended : ReadEnd) (o : ImageObject) : Option Half :=
  let m := o.manifest
  if s.spread.degraded then some 0x3C20
  else if s.tenancy.adapterSource.toNat % 4096 ≠ 0 then some 0x1012
  else if ended ≠ .ok then some 0x1013
  else if !imageVerifies s 5 o then some 0x1014
  else if !headerOk m ∨ m.allocs.length ≠ 1 ∨ (badSegment o [1, 6]).isSome then some 0x1015
  else if (tenantRow s m).isSome then some 0x1018
  else if m.segments.any fun g => !g.hashOk then some 0x1020
  else if (objectsFault [] (imageObjects m)).isSome then some 0x1021
  else none

/-- The free slot is taken (R333): LOADING for the tenant, with the predecessor it will retire. -/
def takeSlot (a : Nat) (s : State) : State :=
  onAdapter a (fun _ =>
    { state := .loading, tenant := s.tenancy.adapterTenant.toNat,
      replaces := if s.tenancy.predValid then some s.tenancy.predecessor.toNat else none }) s

/-- The image's segments by their offset in its own allocation record. -/
def slotParts (m : Manifest) : List (Nat × List Byte) :=
  m.segments.map fun g => (g.target - ((m.allocs[0]?).map (·.base)).getD 0, g.bytes)

/-- The slot of the operation that runs takes what the operation brings. -/
def fillSlot (a : Nat) (s : State) : State :=
  { s.tenancy.adapterBytes.foldl
      (fun s x => writeSectors ((slotAlloc s a).base + x.1) (sectorsOfBytes (ceilDiv x.2.length 32) x.2) s) s with
    tenancy.adapterBytes := [] }

/-- R29: the slot's writes wait for a pair or channel that is held. -/
def slotWaits (a : Nat) (s : State) : Bool :=
  s.tenancy.adapterBytes.any fun x => rangeWaits s ((slotAlloc s a).base + x.1) x.2.length

/-- ADAPTER_OP LOAD (R333): rows 2 to 9. -/
def adapterObject (ended : ReadEnd) (o : ImageObject) (s0 : State) : State :=
  match adapterCheck s0 true, freeAdapter s0 with
    | some c, _ => beginAdapter c 0 s0
    | none, none => beginAdapter 0x4830 0 s0
    | none, some a =>
      let s := takeSlot a s0
      match adapterImageCheck s ended o with
      | some c => beginAdapter 0x4833 c (if c = 0x1013 then noteRead ended s else s)
      | none =>
        if slotSize s < ((o.manifest.allocs[0]?).map (·.size)).getD 0 then beginAdapter 0x4834 0 s
        else beginAdapter 0 0 { s with tenancy.adapterBytes := slotParts o.manifest }

/-- The object arrives for a LOAD that ADAPTER_OP started, or with a LOAD of its own (R453). -/
def adapterLoad (ended : ReadEnd) (o : ImageObject) (s : State) : State :=
  match s.tenancy.adapterOp.taken with
  | some l => withAdapterArgs (adapterArgs s) (adapterObject ended o (withAdapterArgs l s))
  | none => if s.tenancy.adapterOp.busy then refuseAdapter s else adapterObject ended o s

/-! INSTALL (R66, R69, R333). -/

/-- The training declaration of a job's entry, with its image. -/
def trainDecl (s : State) (entry : Nat) : Option (TrainDecl × Image) :=
  s.load.images.findSome? fun e => e.2.decls.findSome? fun d => match d with
    | .training x => if x.entry = entry then some (x, e.2) else none
    | _ => none

/-- The master weights of one channel. -/
def masterChannel (s : State) (x : TrainDecl) (j : Nat) : List Val :=
  (List.range x.perChannel).map fun i =>
    ofBf16 (BitVec.ofNat 16 (leValue (peekBytes s (x.source + 2 * (j * x.perChannel + i)) 2)))

/-- R333: one channel under R60, with rounding field 00, AUTO and HEADROOM 0: its scale, its flag and its codes. -/
def convertChannel (cb : Codebook) (vs : List Val) : (Word × Bool) × List Nat :=
  let z := autoScale 0 (cb.value cb.anchorIndex) (vs.foldl Stats.observe {})
  (z, vs.map fun v => (encodeCode cb z.1 z.2 .nearest v).code)

/-- The codes of the slot in order, 4-bit codes two to a byte, the first in the low nibble. -/
def packCodes (cb : Codebook) (cs : List Nat) : List Byte :=
  if cb.entriesLog2 = 4 then
    (List.range (ceilDiv cs.length 2)).map fun i => BitVec.ofNat 8 (cs.getD (2 * i) 0 + 16 * cs.getD (2 * i + 1) 0)
  else cs.map (BitVec.ofNat 8)

/-- The flag words of R56. -/
def flagWords (fs : List Bool) : List Nat :=
  (List.range (ceilDiv fs.length 32)).map fun w => sumNat ((List.range 32).map fun j => bitNat (fs.getD (32 * w + j) false) * 2 ^ j)

/-- R333: the converted adapter, by offset in its slot. -/
def convertedParts (s : State) (x : TrainDecl) (i : Image) : List (Nat × List Byte) :=
  let cb := memCodebook s ((tabFind? i.codebooks x.codebook).getD 0)
  let r := (List.range x.channels).map fun j => convertChannel cb (masterChannel s x j)
  [(x.codesAt, packCodes cb (r.flatMap (·.2))),
   (x.scalesAt, (r.flatMap fun c => leBytes 4 c.1.1.toNat) ++ (flagWords (r.map (·.1.2))).flatMap (leBytes 4))]

/-- Row 6: the job is DONE or SAVED, of the same tenant. -/
def installJobOk (s : State) : Bool :=
  let v := job s (s.tenancy.adapterSource.toNat % 8)
  (v.state == .done || v.state == .saved) && v.tenant == s.tenancy.adapterTenant.toNat

/-- What INSTALL brings: the converted master weights of the job in ADAPTER_SOURCE. -/
def installParts (s : State) : List (Nat × List Byte) :=
  match trainDecl s (job s (s.tenancy.adapterSource.toNat % 8)).entry with
  | some (x, i) => convertedParts s x i
  | none => []

/-- ADAPTER_OP INSTALL (R333). -/
def adapterInstall (s0 : State) : State :=
  if s0.tenancy.adapterOp.busy then refuseAdapter s0
  else match adapterCheck s0 (installJobOk s0), freeAdapter s0 with
    | some c, _ => beginAdapter c 0 s0
    | none, none => beginAdapter 0x4830 0 s0
    | none, some a =>
      let s := takeSlot a s0
      let ps := installParts s
      if ps.any fun x => decide (slotSize s < x.1 + x.2.length) then beginAdapter 0x4834 0 s
      else beginAdapter 0 0 { s with tenancy.adapterBytes := ps }

/-- ADAPTER_OP RETIRE (R330, R333). -/
def adapterRetire (s : State) : State :=
  let t := s.tenancy.adapterTenant.toNat
  let a := s.tenancy.adapterArg.toNat
  if s.tenancy.adapterOp.busy then refuseAdapter s
  else if t ≠ 0 ∧ tenantValid s t = false then beginAdapter 0x4801 0 s
  else if !isCurrent s a then beginAdapter 0x4836 0 s
  else beginAdapter 0 0 (retireIdle (onAdapter a (fun x => { x with state := .retiring, successor := none }) s))

/-- The slot that a LOAD or INSTALL in progress holds. -/
def loadingSlot (s : State) : Option Nat := (s.tenancy.adapters.find? fun e => e.2.state == .loading).map (·.1)

/-- R330, R331: the commit of a slot, and the retirement of its predecessor in the same cycle. -/
def commitAdapter (a : Nat) (s : State) : State :=
  let v := s.tenancy.nextVersion
  let x := adapter s a
  let s1 := onAdapter a (fun x => { x with state := .current, version := v, replaces := none }) s
  let s2 := match x.replaces with
    | some p => onAdapter p (fun y => { y with state := .retiring, successor := some a }) s1
    | none => s1
  retireIdle (addMeasurement 0x11 x.tenant a v
    { s2 with tenancy.nextVersion := v + 1, tenancy.adapterArg := BitVec.ofNat 10 a })

/-- The end of an adapter operation: LOADING becomes CURRENT or FILLING (R330), and the outcome is written. -/
def endAdapterOp (s : State) : State :=
  if s.tenancy.adapterOp.taken.isSome then s
  else if (loadingSlot s).any fun a => slotWaits a s then deferCommand (.operationEnd .adapter) s
  else
    let s1 := match loadingSlot s with
      | some a => if s.tenancy.adapterOp.outcome = 0 then commitAdapter a (fillSlot a s) else onAdapter a (fun x => { x with state := .filling }) s
      | none => s
    { s1 with tenancy.adapterOp := s.tenancy.adapterOp.finish }

/-- ADAPTER_FILL_DONE (R129, R330, R406): the slot's measurement goes with it. -/
def execAdapterFillDone (a : Fin 1024) (s : State) : Out :=
  if (adapter s a).state == .filling then
    let r := slotAlloc s a
    let s1 := zeroRange r.base r.size s
    .next { s1 with
      tenancy.adapters := tabDel s1.tenancy.adapters a
      protect.freeFills := s1.protect.freeFills + 1
      lut.measurements := s1.lut.measurements.filter fun m => !(m.type == 0x11 && m.index == BitVec.ofNat 16 a) }
  else .next s

end Sys2Proof.Machine
end

