-- ==== Sys2Proof/Machine/CoreVector.lean ====
section
/-! DEFINITION. The vector unit of a core (R201, R207, R208). -/
namespace Sys2Proof.Machine

/-- The VOP at the core's program counter, if its function is `fn`. -/
def issueVop (fn g : Nat) (bad : Bool) (f : CoreWord → State → State) (s : State) : Out :=
  if (coreWord (core s g) (core s g).pc).ext % 256 ≠ fn then .next s else issue 0x18 g bad f s

/-- The codebook of EXT[13:10]. -/
def vopCodebook (s : State) (g : Nat) (w : CoreWord) : Codebook := slotCodebook (core s g).codebooks (bits w.ext 13 10)

/-- EXT[9:8] as a format of `elemWidth`. -/
def formatOf (s : State) (g : Nat) (w : CoreWord) (n : Nat) : Nat :=
  if n % 4 < 3 then n % 4 else if (vopCodebook s g w).entriesLog2 = 4 then 3 else 4

def vopFormat (s : State) (g : Nat) (w : CoreWord) : Nat := formatOf s g w (bits w.ext 9 8)

/-- `n` elements of a vector in a format at a bank address; coded ones through the codebook slot, whose marks they share. -/
def vecElems (s : State) (g a fmt slot n : Nat) : List (Val × Bool) :=
  let cb := slotCodebook (core s g).codebooks slot
  let dead := decide (3 ≤ fmt) && coreMarked (core s g) 1 (520 * slot) 520
  (List.range n).map fun i =>
    let o := bankAddress g a + i * elemWidth fmt / 8
    let x := leValue (memReadN s.scratch.bytes o ((elemWidth fmt + 7) / 8))
    let v :=
      if fmt = 0 then ofFp32 (BitVec.ofNat 32 x)
      else if fmt = 1 then ofBf16 (BitVec.ofNat 16 x)
      else if fmt = 2 then ofF16 (BitVec.ofNat 16 x)
      else if fmt = 3 then cb.value (x / 16 ^ (i % 2) % 16)
      else cb.value x
    (v, dead || marked s o || marked s (o + (elemWidth fmt + 7) / 8 - 1))

/-- A source of a vector function: the register of its address, its format and its count. -/
structure VopSource where
  reg : Nat
  fmt : Nat
  count : Nat
  deriving DecidableEq, Repr

/-- A vector function: its sources, its result's format and count at S[RC], its cost, the table slot it reads; `exact` where one
rounding leads from the exact result to the destination, not through the FP32 of the lanes (R201). -/
structure VopPlan where
  srcs : List VopSource
  fmt : Nat
  count : Nat
  cost : Nat
  table : Option Nat := none
  exact : Bool := false
  deriving DecidableEq, Repr

/-- What a vector function reads: its sources in the bank, the codebook of coded ones, its table. -/
def meetVop (g slot : Nat) (p : VopPlan) (s : State) : State :=
  let s1 := p.srcs.foldl (fun s r => meetBank g (regN s g r.reg) (bytesOf r.fmt r.count) s) s
  let s2 := if p.srcs.any fun r => decide (3 ≤ r.fmt) then coreMeet g 1 (520 * slot) 520 s1 else s1
  match p.table with
  | some k => coreMeet g 2 (2048 * k) 2048 (coreMeet g 2 (16384 + 16 * k) 16 s2)
  | none => s2

def tableDead (s : State) (g : Nat) (p : VopPlan) : Bool :=
  match p.table with
  | some k => coreMarked (core s g) 2 (2048 * k) 2048 || coreMarked (core s g) 2 (16384 + 16 * k) 16
  | none => false

/-- R201: results leave the FP32 lanes and are rounded to the result's format. A coded block is a window of its own (R67); no field
names its statistics entry, the model takes entry 0, nor its scale where AUTO is clear (DESIGN CHOICE, log entry 94). -/
def writeVec (g : Nat) (w : CoreWord) (p : VopPlan) (xs : List (Val × Bool)) (s : State) : State :=
  let ys := if p.exact then xs else xs.map fun x => (roundFp32 x.1, x.2)
  writeBlock g w { fmt := p.fmt, slot := bits w.ext 13 10, dest := regN s g w.rc, entry := 0, position := none,
                   opens := decide (3 ≤ p.fmt) } ys s

/-- A vector function: `f` of its sources' elements. -/
def vopOver (g : Nat) (w : CoreWord) (p : VopPlan) (f : State → List (List (Val × Bool)) → List (Val × Bool)) (s : State) : State :=
  if p.srcs.any (fun r => !bankFits (regN s g r.reg) (bytesOf r.fmt r.count)) || !bankFits (regN s g w.rc) (bytesOf p.fmt p.count) then
    coreFault 0x9041 g s
  else
    let slot := bits w.ext 13 10
    let s1 := meetVop g slot p s
    let ins := p.srcs.map fun r => vecElems s1 g (regN s1 g r.reg) r.fmt slot r.count
    let dead := tableDead s1 g p
    addGap g p.cost (writeVec g w p ((f s1 ins).map fun x => (x.1, x.2 || dead)) s1)

def zipWith2 (f : Val → Val → Val) (xs ys : List (Val × Bool)) : List (Val × Bool) :=
  (xs.zip ys).map fun p => (f p.1.1 p.2.1, p.1.2 || p.2.2)

/-- Functions of one and of two vectors of IMM elements. -/
def vop1 (fn g : Nat) (bad : Bool) (table : CoreWord → Option Nat) (f : State → CoreWord → Val → Val) (s : State) : Out :=
  issueVop fn g bad (fun w s =>
    let fmt := vopFormat s g w
    vopOver g w { srcs := [⟨w.ra, fmt, w.imm⟩], fmt := fmt, count := w.imm, cost := ceilDiv w.imm 64, table := table w }
      (fun s ls => (ls.getD 0 []).map fun x => (f s w x.1, x.2)) s) s

def vop2 (fn g : Nat) (bad : Bool) (f : Val → Val → Val) (s : State) : Out :=
  issueVop fn g bad (fun w s =>
    let fmt := vopFormat s g w
    vopOver g w { srcs := [⟨w.ra, fmt, w.imm⟩, ⟨w.rb, fmt, w.imm⟩], fmt := fmt, count := w.imm, cost := ceilDiv w.imm 64 }
      (fun _ ls => zipWith2 f (ls.getD 0 []) (ls.getD 1 [])) s) s

/-- VOP_ADD (R201). -/
def execVopAdd (g : Fin 128) (bad : Bool) (s : State) : Out := vop2 0x01 g bad Val.add s

/-- VOP_MUL (R201). -/
def execVopMul (g : Fin 128) (bad : Bool) (s : State) : Out := vop2 0x02 g bad Val.mul s

/-- VOP_FMA (R201): a × b + c, c the vector at S[RC], one rounding. -/
def execVopFma (g : Fin 128) (bad : Bool) (s : State) : Out :=
  issueVop 0x03 g bad (fun w s =>
    let fmt := vopFormat s g w
    vopOver g w { srcs := [⟨w.ra, fmt, w.imm⟩, ⟨w.rb, fmt, w.imm⟩, ⟨w.rc, fmt, w.imm⟩], fmt := fmt, count := w.imm,
                  cost := ceilDiv w.imm 64, exact := true }
      (fun _ ls => zipWith2 Val.add (zipWith2 Val.mul (ls.getD 0 []) (ls.getD 1 [])) (ls.getD 2 [])) s) s

/-- VOP_MAX (R201). -/
def execVopMax (g : Fin 128) (bad : Bool) (s : State) : Out := vop2 0x04 g bad Val.max s

/-- VOP_TABLE (R201, R46). -/
def execVopTable (g : Fin 128) (bad : Bool) (s : State) : Out :=
  vop1 0x05 g bad (fun w => some (bits w.ext 18 16)) (fun s w x => (storeTable (core s g).tables (bits w.ext 18 16)).eval x) s

/-- R48: the exponential of a − m; above zero its value is open. -/
def expSub (a m : Val) : Val :=
  let d := roundFp32 (a.sub m)
  if Val.zero.lt d then ofFp32 (Config.expAbove (toFp32 d)) else mergeExp d

/-- VOP_EXPSUB (R201, R207): m is the FP32 value at S[RB]. R207 and its example form bfloat16 p from FP32 scores in one EXPSUB, and the
word has one format field: the model takes it as the format of p and reads the scores as FP32, as m (DESIGN CHOICE, log entry 95). -/
def execVopExpsub (g : Fin 128) (bad : Bool) (s : State) : Out :=
  issueVop 0x06 g bad (fun w s =>
    vopOver g w { srcs := [⟨w.ra, 0, w.imm⟩, ⟨w.rb, 0, 1⟩], fmt := vopFormat s g w, count := w.imm, cost := ceilDiv w.imm 64 }
      (fun _ ls =>
      let m := (ls.getD 1 []).getD 0 (.zero, false)
      (ls.getD 0 []).map fun x => (expSub x.1 m.1, x.2 || m.2)) s) s

/-- Whole rows of `n` elements. -/
def rowsOf (n : Nat) (xs : List (Val × Bool)) : List (List (Val × Bool)) :=
  (List.range (xs.length / n)).map fun i => (xs.drop (n * i)).take n

def rowMax : List (Val × Bool) → Val × Bool
  | [] => (.inf true, false)
  | x :: t => t.foldl (fun a y => (a.1.max y.1, a.2 || y.2)) x

/-- A row summed in a block-exact accumulator, one rounding (R35). -/
def rowSum (xs : List (Val × Bool)) : Val × Bool :=
  let a := applyAll xs {}
  (a.value, a.poison)

def rowLength (w : CoreWord) : Nat := bits w.ext 31 24 + 1

/-- VOP_ROWMAX (R201): one FP32 value a row. -/
def execVopRowmax (g : Fin 128) (bad : Bool) (s : State) : Out :=
  issueVop 0x07 g bad (fun w s =>
    vopOver g w { srcs := [⟨w.ra, vopFormat s g w, w.imm⟩], fmt := 0, count := w.imm / rowLength w, cost := ceilDiv w.imm 64 }
      (fun _ ls => (rowsOf (rowLength w) (ls.getD 0 [])).map rowMax) s) s

/-- VOP_ROWSUM (R201): one rounding, to the vectors' format. -/
def execVopRowsum (g : Fin 128) (bad : Bool) (s : State) : Out :=
  issueVop 0x08 g bad (fun w s =>
    let fmt := vopFormat s g w
    vopOver g w { srcs := [⟨w.ra, fmt, w.imm⟩], fmt := fmt, count := w.imm / rowLength w, cost := ceilDiv w.imm 64, exact := true }
      (fun _ ls => (rowsOf (rowLength w) (ls.getD 0 [])).map rowSum) s) s

/-- VOP_CAUSAL (R201): the block at S[RB] to S[RC], S[RA] is QPOS itself. -/
def execVopCausal (g : Fin 128) (bad : Bool) (s : State) : Out :=
  issueVop 0x09 g bad (fun w s =>
    let fmt := vopFormat s g w
    let side := w.imm % 65536
    let kpos := w.imm / 65536
    let qpos := regN s g w.ra
    vopOver g w { srcs := [⟨w.rb, fmt, side * side⟩], fmt := fmt, count := side * side, cost := ceilDiv (side * side) 64 } (fun _ ls =>
      ((List.range (side * side)).zip (ls.getD 0 [])).map fun p =>
        if qpos + p.1 / side < kpos + p.1 % side then (.inf true, p.2.2) else p.2) s) s

/-- VOP_RSQRT (R201, R47). -/
def execVopRsqrt (g : Fin 128) (bad : Bool) (s : State) : Out :=
  vop1 0x0A g bad (fun _ => some 6) (fun s _ x => rsqrt (core s g).tables x) s

/-- VOP_CONVERT (R201): a, in the source format, rewritten in the format of EXT[9:8]. -/
def execVopConvert (g : Fin 128) (bad : Bool) (s : State) : Out :=
  issueVop 0x0B g bad (fun w s =>
    let src := formatOf s g w (Config.convertSource (BitVec.ofNat 64 w.ext) w.sub)
    vopOver g w { srcs := [⟨w.ra, src, w.imm⟩], fmt := vopFormat s g w, count := w.imm, cost := ceilDiv w.imm 64 }
      (fun _ ls => ls.getD 0 []) s) s

end Sys2Proof.Machine
end

