-- ==== Sys2Proof/Machine/Sensors.lean ====
section
/-! DEFINITION. Luthier's housekeeping round: sensors, broken sensors, heat, power, trips, held NVM writes (R384-R393). -/
namespace Sys2Proof.Machine

def reading (s : State) (k : Nat) : Reading := tabGet {} s.lut.readings k
def onReading (k : Nat) (f : Reading → Reading) (s : State) : State :=
  { s with lut.readings := tabPut s.lut.readings k (f (reading s k)) }

def heat (s : State) (t : Nat) : TileHeat := tabGet {} s.lut.heat t
def onHeat (t : Nat) (f : TileHeat → TileHeat) (s : State) : State :=
  { s with lut.heat := tabPut s.lut.heat t (f (heat s t)) }

/-- Degrees in units of 1/16 °C (R385). -/
def deg (n : Int) : Int := 16 * n

inductive SensorClass | compute (tile : Nat) | dram (tile : Nat) | hub | carrier | regulator | supply
  deriving DecidableEq, Repr

/-- R384. -/
def sensorClass (k : Nat) : SensorClass :=
  if k < 64 then .compute (k / 8)
  else if k < 192 then .dram ((k - 64) / 16)
  else if k < 198 then .hub
  else if k < 200 then .carrier
  else if k < 216 then .regulator
  else .supply

/-- R386: neighbours in a grid of `cols` columns that begins at `base`. -/
def gridNeighbours (base rows cols k : Nat) : List Nat :=
  let r := (k - base) / cols
  let c := (k - base) % cols
  (List.range (rows * cols)).filterMap fun i =>
    let r' := i / cols
    let c' := i % cols
    if base + i ≠ k ∧ r ≤ r' + 1 ∧ r' ≤ r + 1 ∧ c ≤ c' + 1 ∧ c' ≤ c + 1 then some (base + i) else none

/-- R386. -/
def neighbours (k : Nat) : List Nat :=
  match sensorClass k with
  | .compute t => gridNeighbours (8 * t) 2 4 k
  | .dram t =>
    let b := 64 + 16 * t
    let d := k - b
    (List.range 16).filterMap fun e => if e ≠ d ∧ e ≤ d + 2 ∧ d ≤ e + 2 then some (b + e) else none
  | .hub => gridNeighbours 192 2 3 k
  | .carrier => [397 - k, 207, 215]
  | .regulator => gridNeighbours 200 2 8 k
  | .supply => []

/-- R387 step 4: the sensors of the same class, in the same tile or across the module. -/
def sameClass (k : Nat) : List Nat := (List.range 216).filter fun j => sensorClass j == sensorClass k

def working (s : State) (k : Nat) : Bool := (reading s k).valid && !(reading s k).broken

/-- The value the round-end evaluations use (R385): the substitute of a broken sensor (R387). -/
def sensorValue (s : State) (k : Nat) : Option Int :=
  let r := reading s k
  if r.broken then some r.substitute else if r.valid then some r.raw.toInt else none

def maxInt : List Int → Option Int
  | [] => none
  | x :: t => match maxInt t with
    | none => some x
    | some y => some (max x y)

/-- Twice the median (R387). -/
def medianTwice (l : List Int) : Int :=
  let m := sortList (fun a b => decide (a < b)) l
  let n := m.length
  if n % 2 = 1 then 2 * m.getD (n / 2) 0 else m.getD (n / 2 - 1) 0 + m.getD (n / 2) 0

def workingReadings (s : State) (ks : List Nat) : List Int := (ks.filter (working s)).map fun k => (reading s k).raw.toInt

/-- R387 steps 1 and 2: the sensor deviates in this round; none where it is not checked. -/
def deviates (s : State) (k : Nat) : Option Bool :=
  let ns := workingReadings s (neighbours k)
  if working s k ∧ 2 ≤ ns.length then
    let d := 2 * (reading s k).raw.toInt - medianTwice ns
    some (decide (256 < d) || decide (d < -256))
  else none

/-- R387 steps 3 to 5. -/
def substituteOf (s : State) (k : Nat) : Int :=
  match maxInt (workingReadings s (neighbours k)) with
  | some v => v + deg 2
  | none => match maxInt (workingReadings s (sameClass k)) with
    | some v => v + deg 2
    | none => match sensorClass k with
      | .compute _ => deg 110
      | _ => deg 100

/-- One sensor judged by the verdict of the round's readings. -/
def judgeSensor (s0 : State) (k : Nat) (s : State) : State :=
  match deviates s0 k with
  | none => s
  | some false => onReading k (fun r => { r with deviating := 0 }) s
  | some true =>
    let s1 := onReading k (fun r => { r with deviating := r.deviating + 1 }) s
    if (reading s1 k).deviating < 3 then s1
    else report 0x7010 (subjSensor k) subjLuthier ((reading s k).raw.zeroExtend 32)
      (onReading k (fun r => { r with broken := true }) s1)

/-- R387: every temperature sensor against the readings of this round, then the substitutes. -/
def checkSensors (s : State) : State :=
  let s1 := (List.range 216).foldl (fun x k => judgeSensor s k x) s
  (List.range 216).foldl (fun x k =>
    if (reading x k).broken then onReading k (fun r => { r with substitute := substituteOf s1 k }) x else x) s1

/-! Heat (R388, R389). -/

def hottest (s : State) (ks : List Nat) : Option Int := maxInt (ks.filterMap (sensorValue s))
def dramSensors (t : Nat) : List Nat := (List.range 16).map (64 + 16 * t + ·)
def computeSensors (t : Nat) : List Nat := (List.range 8).map (8 * t + ·)

/-- R388: an excess over an onset, in whole degrees, rounded up. -/
def excess (v : Option Int) (onset : Int) : Nat :=
  match v with
  | none => 0
  | some v => ((v - deg onset + 15) / 16).toNat

def clipHeat (v : Option Int) : BitVec 12 := BitVec.ofNat 12 (min 4095 (v.getD 0).toNat)

/-- R388: the thermal target. -/
def thermalTarget (ed ec : Nat) : Nat := max 4 (16 - max ed ec)

/-- R388: it falls at once and rises by at most one. -/
def nextFraction (old target : Nat) : Nat := if target < old then target else min target (old + 1)

/-- The issue fraction of a tile as 0x7011 and 0x7012 judge it. -/
def heatTile (oldPower : Nat) (t : Nat) (s : State) : State :=
  let td := hottest s (dramSensors t)
  let tc := hottest s (computeSensors t)
  let h := heat s t
  let f0 := min h.fraction oldPower
  let s1 := onHeat t (fun h => { h with
    hotDram := clipHeat td, hotCompute := clipHeat tc,
    fraction := nextFraction h.fraction (thermalTarget (excess td 88) (excess tc 98)) }) s
  let f1 := min (heat s1 t).fraction s1.lut.powerFraction
  if f0 = 16 ∧ f1 < 16 then reportFree 0x7011 (subjTile t) subjLuthier s1
  else if f0 < 16 ∧ f1 = 16 then reportFree 0x7012 (subjTile t) subjLuthier s1
  else s1

def rawNat (s : State) (k : Nat) : Nat := (reading s k).raw.toNat

/-- R385: the module input power of a round, in units of 10 µW. -/
def inputPower (s : State) : Nat := rawNat s 216 * rawNat s 217 + rawNat s 218 * rawNat s 219

/-- R389. -/
def powerRound (s : State) : State :=
  let w := inputPower s
  let limit := 100000 * s.lut.powerLimit.toNat
  let s1 : State := { s with lut.modulePower := BitVec.ofNat 16 (min 65535 (w / 100000)) }
  if limit < w then
    let s2 : State := { s1 with lut.powerFraction := max 4 (s.lut.powerFraction - 1) }
    if s.lut.powerFraction = 16 then reportFree 0x7013 subjModule subjLuthier s2 else s2
  else if 100 * w < 95 * limit then { s1 with lut.powerFraction := min 16 (s.lut.powerFraction + 1) }
  else s1

/-! Refresh and retuning (R79, R99). -/

/-- R79: the four channels of one die. -/
def refreshDie (d : Nat) (s : State) : State :=
  match sensorValue s (64 + d) with
  | none => s
  | some v =>
    (List.range 4).foldl (fun s j => onChan (4 * d + j) (fun h => { h with
      hot := if deg 85 < v then true else if v ≤ deg 83 then false else h.hot }) s) s

/-- R99: a compute-die, DRAM-die or hub-die sensor rose by 2 °C. -/
def rose (s : State) : Bool :=
  (List.range 198).any fun k => match (reading s k).previous, sensorValue s k with
    | some p, some v => decide (p + deg 2 ≤ v)
    | _, _ => false

def wavePeriodRound (s : State) : State :=
  let s1 : State :=
    if rose s then { s with spread.wavePeriod := 125, lut.roundsNoRise := 0 }
    else
      let n := s.lut.roundsNoRise + 1
      { s with lut.roundsNoRise := n, spread.wavePeriod := if 8 ≤ n then 500 else s.spread.wavePeriod }
  (List.range 198).foldl (fun x k => onReading k (fun r => { r with previous := sensorValue s k }) x) s1

/-! The NVM (R382, R393, R404, R405). -/

/-- The operating-hours and power-cycle counters are written. -/
def programHours (s : State) : State :=
  { s with
    nvm.opHours := s.lut.opHours
    nvm.powerCycles := s.lut.powerCycles
    lut.held := s.lut.held.filter (· != .hours) }

/-- R382, R393: the counters fall due. -/
def writeHours (s : State) : State := if flashOk 0 s then programHours s else holdWrite .hours s

/-- OP_HOURS_WRITE (R382). -/
def execOpHoursWrite (s : State) : Out := .next (if luthierRuns s then writeHours s else s)

def firmwareSlot (n : Nvm) (b : Bool) : FwSlot := if b then n.slotB else n.slotA
def setSlot (b : Bool) (v : FwSlot) (s : State) : State :=
  if b then { s with nvm.slotB := v } else { s with nvm.slotA := v }

/-- R405 steps 3 to 5 for firmware, into the slot that is not running. -/
def programFirmware (s : State) : State :=
  match s.lut.pendingFirmware with
  | none => s
  | some o =>
    let b := !s.lut.runningSlotB
    let seq := (firmwareSlot s.nvm s.lut.runningSlotB).updateSeq + 1
    let s1 : State := { s with lut.pendingFirmware := none, lut.held := s.lut.held.filter (· != .firmware) }
    if s.lut.readBackOk then
      let s2 := setSlot b { object := some o, updateSeq := seq, tried := false, bootOk := false } s1
      if luthierRuns s then reportFree 0x7065 subjModule subjLuthier s2 else s2
    else setSlot b { object := none } { s1 with lut.mbox := { s1.lut.mbox with outcome := 0x7061 } }

/-- R405 steps 3 and 4 for the configuration image. -/
def programConfig (s : State) : State :=
  match s.lut.pendingConfig with
  | none => s
  | some o =>
    let s1 : State := { s with lut.pendingConfig := none, lut.held := s.lut.held.filter (· != .config) }
    if s.lut.readBackOk then { s1 with nvm.config := some o }
    else { s1 with lut.mbox := { s1.lut.mbox with outcome := 0x7061 } }

/-- The flash that holds the firmware slot to be written. -/
def updateFlash (s : State) : Nat := if s.lut.runningSlotB then 0 else 1

/-- R393: held writes are tried again, in their order. -/
def retryHeld (s : State) : State :=
  let s1 := retryMapWrite s
  let s2 := if s1.lut.held.contains .log && flashOk 0 s1 then startFlush s1 else s1
  let s2 := if s2.lut.held.contains .clear && flashOk 0 s2 then programClear s2 else s2
  let s3 := if s2.lut.held.contains .hours && flashOk 0 s2 then programHours s2 else s2
  let s4 := if s3.lut.held.contains .firmware && flashOk (updateFlash s3) s3 then programFirmware s3 else s3
  if s4.lut.held.contains .config && flashOk 0 s4 then programConfig s4 else s4

/-- R384: the rounds of the housekeeping sequencer, from step 5 of start-up on. -/
def roundsRun (s : State) : Bool := luthierRuns s && decide (5 ≤ s.start.state)

/-- ROUND_END (R79, R99, R385, R387-R389, R393). -/
def execRoundEnd (s : State) : Out :=
  if roundsRun s then
    let p := s.lut.powerFraction
    let s1 := powerRound (checkSensors s)
    let s2 := (List.range 8).foldl (fun s t => heatTile p t s) s1
    let s3 := (List.range 128).foldl (fun s d => refreshDie d s) s2
    let s4 := retryHeld (wavePeriodRound s3)
    .next { s4 with lut.rounds := s4.lut.rounds + 1 }
  else .next s

/-! Trips (R390, R391). -/

/-- R205, R390: the tile's running core programs stop. -/
def stopCores (t : Nat) (s : State) : State :=
  (List.range 16).foldl (fun s i => if (core s (16 * t + i)).busy then coreStop 0x7020 (16 * t + i) s else s) s

/-- R390: the steps in flight that need a tripped tile fail. -/
def failTripped (s : State) : State :=
  [StepId.lc, .be, .chunk].foldl (fun s w => if launchFault s w = some 0x7020 then failStep w 0x7020 s else s) s

def tripOne (t : Nat) (s : State) : State := stopCores t (onHeat t (fun h => { h with tripped := true }) s)

/-- R390. -/
def tripTile (t : Nat) (s : State) : State :=
  if tileTripped s t then s else reportFree 0x7020 (subjTile t) subjLuthier (failTripped (tripOne t s))

/-- R390, R391, R409: every tile trips, once until restart. -/
def tripAll (s : State) : State :=
  if s.lut.allTripped then s
  else reportFree 0x7021 subjModule subjLuthier
    (failTripped ((List.range 8).foldl (fun s t => tripOne t s) { s with lut.allTripped := true }))

/-- R391: the warning at a limit, once, re-armed by a sample below it. -/
def warnSensor (k : Nat) (v limit : Int) (s : State) : State :=
  if v < limit then onReading k (fun r => { r with warned := false }) s
  else if (reading s k).warned then s
  else reportFree 0x7014 (subjSensor k) subjLuthier (onReading k (fun r => { r with warned := true }) s)

/-- R390: a working sensor of a tile. -/
def tileSample (t : Nat) (v trip all : Int) (s : State) : State :=
  if tileTripped s t then (if all ≤ v then tripAll s else s)
  else if trip ≤ v then tripTile t s else s

/-- SENSOR_SAMPLE (R384, R385, R390, R391). -/
def execSensorSample (k : Fin 256) (value : Half) (s0 : State) : Out :=
  if roundsRun s0 then
    let s := onReading k (fun r => { r with raw := value, valid := true }) s0
    let ok := !(reading s k).broken
    let v := value.toInt
    match sensorClass k with
    | .compute t => .next (if ok then tileSample t v (deg 110) (deg 120) s else s)
    | .dram t => .next (if ok then tileSample t v (deg 105) (deg 115) s else s)
    | .hub =>
      let s1 := warnSensor k v (deg 100) s
      .next (if ok && decide (deg 110 ≤ v) then tripAll s1 else s1)
    | .regulator =>
      let s1 := warnSensor k v (deg 120) s
      .next (if ok && decide (deg 135 ≤ v) then tripAll s1 else s1)
    | .carrier => .next (warnSensor k v (deg 95) s)
    | .supply => .next s
  else .next s0

/-! The entropy source (R383). -/

/-- ENTROPY_FAIL (R383). -/
def execEntropyFail (s : State) : Out :=
  if s.lut.entropyOk then
    let s1 : State := { s with lut.entropyOk := false }
    .next (if luthierRuns s then reportFree 0x7001 subjLuthier subjLuthier s1 else s1)
  else .next s

/-- ENTROPY_TESTS_PASS (R383, R430): a missing tenant key is drawn. -/
def execEntropyTestsPass (s : State) : Out :=
  .next { s with lut.entropyOk := true, lut.keysDrawn := s.lut.keysDrawn || decide (7 ≤ s.start.state) }

end Sys2Proof.Machine
end

