-- ==== Sys2Proof/Machine/SelfTest.lean ====
section
/-! DEFINITION. In-service tests, fencing, parts that do not answer (R394-R401). -/
namespace Sys2Proof.Machine

/-- The key of a subject's last pass: a channel, or 512 + core; a test of one unit passes no channel. -/
def passKey : TestSubject → Option Nat
  | .channel c => some c
  | .core g => some (512 + g)
  | .unit _ => none

/-- The units, or the core, that a test judges. -/
def partSubject (x : TestSubject) (i : Nat) : Half :=
  match x with
  | .channel c => subjUnit (16 * c + i)
  | .unit u => subjUnit u
  | .core g => subjCore g

/-- R396: a part is fenced until restart, and 0x7030 recorded. -/
def fencePart (x : TestSubject) (i : Nat) (s : State) : State :=
  let unitFence (u : Nat) (s : State) : State :=
    onUnit u (fun v => { v with fenced := true }) { s with lut.fencedUnits := setInsert s.lut.fencedUnits u }
  let s1 := match x with
    | .channel c => unitFence (16 * c + i) s
    | .unit u => unitFence u s
    | .core g => onCore g (fun c => { c with fenced := true }) s
  reportFree 0x7030 (partSubject x i) subjLuthier s1

/-- R401: units that passed answer again. -/
def releaseIsolated (x : TestSubject) (s : State) : State :=
  match x with
  | .channel c => (List.range 16).foldl (fun s i => onUnit (16 * c + i) (fun v => { v with isolated := false }) s) s
  | .unit u => onUnit u (fun v => { v with isolated := false }) s
  | .core _ => s

def notePass (x : TestSubject) (s : State) : State :=
  match passKey x with
  | some k => { s with lut.lastPass := tabPut s.lut.lastPass k s.lut.opHours }
  | none => s

/-- A subject that can be tested: a live channel, a unit of one, a core that is not fenced (R394, R408). -/
def testable (s : State) (x : TestSubject) : Bool :=
  match x with
  | .channel c => (chan s c).live && !(chan s c).failed
  | .unit u => (chan s (u / 16)).live && !(chan s (u / 16)).failed
  | .core g => !(core s g).fenced

/-- R395: nothing runs on the subject: no phrase on the channel or unit, the core is not BUSY. -/
def quiet (s : State) (x : TestSubject) : Bool :=
  match x with
  | .channel c => (List.range 16).all fun i => (unit s (16 * c + i)).run.isNone
  | .unit u => (unit s u).run.isNone
  | .core g => !(core s g).busy

/-- R395: 50 µs have passed since the instant, or it never was. -/
def longAgo (s : State) (at_ : Option Nat) : Bool := match at_ with | some t => decide (t + 50 ≤ s.us) | none => true

/-- R395: the idle window: no phrase issued on the channel for 50 µs, the core not BUSY for 50 µs. -/
def windowOpen (s : State) (x : TestSubject) : Bool :=
  quiet s x && match x with
    | .channel c => longAgo s (chan s c).issuedAt
    | .unit u => longAgo s (chan s (u / 16)).issuedAt
    | .core g => longAgo s (core s g).idleSince

/-- Operating hours when the subject was last tested; the start test counts. -/
def testedAt (s : State) (x : TestSubject) : Nat :=
  match passKey x with
  | some k => (tabGet s.lut.startTest s.lut.lastTest k).toNat
  | none => 0

/-- R395: the channels and cores among which Luthier picks. -/
def testSubjects : List TestSubject := (List.range 512).map .channel ++ (List.range 128).map .core

/-- R395: Luthier picks this channel or core: of those with an open window none was tested longer ago (DEDUCED, log entry 64). -/
def picked (s : State) (x : TestSubject) : Bool :=
  (passKey x).isSome && windowOpen s x &&
    testSubjects.all fun y => !testable s y || !windowOpen s y || decide (testedAt s x ≤ testedAt s y)

/-- TEST_START (R395): a forced test, once nothing runs on its subject, or one that Luthier picks in an idle window. -/
def execTestStart (x : TestSubject) (s : State) : Out :=
  let isForced := s.lut.forced.any fun r => r.subject == x
  if luthierRuns s && testable s x && (if isForced then quiet s x else picked s x) && !(s.lut.tests.any fun r => r.subject == x) then
    let run := (s.lut.forced.find? fun r => r.subject == x).getD { subject := x, reason := 0, isRepeat := false, byMailbox := false }
    .next { s with lut.tests := s.lut.tests ++ [run], lut.forced := removeFirst (fun r => r.subject == x) s.lut.forced }
  else .next s

/-- TEST_FORCE (R395): 23 operating hours since the last pass. -/
def execTestForce (x : TestSubject) (s : State) : Out :=
  match passKey x with
  | none => .next s
  | some k =>
    if luthierRuns s && testable s x &&
        decide ((tabGet s.lut.startTest s.lut.lastPass k).toNat + 23 * 65536 ≤ s.lut.opHours.toNat) then
      .next (forceWindow x 1 false s)
    else .next s

/-- R396: a repeat ends: parts that failed twice are fenced, parts that passed now are recorded with 0x7032. -/
def endRepeat (x : TestSubject) (first failed : List Nat) (s : State) : State :=
  first.foldl (fun s i =>
    if failed.contains i then fencePart x i s else reportFree 0x7032 (partSubject x i) subjLuthier s) s

/-- R396: a part of the subject that is already fenced; it stays fenced until the next start judges it. -/
def partFenced (s : State) (x : TestSubject) (i : Nat) : Bool :=
  match x with
  | .channel c => (unit s (16 * c + i)).fenced
  | .unit u => (unit s u).fenced
  | .core g => (core s g).fenced

/-- The end of one run of a test: TESTS_RUN counts it. -/
def noteRun (x : TestSubject) (s : State) : State :=
  { s with
    lut.testsRun := s.lut.testsRun + 1
    lut.tests := removeFirst (fun r => r.subject == x) s.lut.tests
    lut.lastTest := match passKey x with
      | some k => tabPut s.lut.lastTest k s.lut.opHours
      | none => s.lut.lastTest }

/-- TEST_END (R396): `fails` are the units of the channel (0 to 15) that failed; any entry fails a unit or core. -/
def execTestEnd (x : TestSubject) (fails : List Nat) (s : State) : Out :=
  match s.lut.tests.find? fun r => r.subject == x with
  | none => .next s
  | some r =>
    let failed := fails.filter fun i => !partFenced s x i
    let s1 := noteRun x s
    if r.isRepeat then
      let s2 := endRepeat x r.firstFailed failed s1
      .next (releaseIsolated x (if r.firstFailed.any failed.contains then s2 else notePass x s2))
    else if failed.isEmpty then .next (releaseIsolated x (notePass x s1))
    else .next { s1 with lut.tests := s1.lut.tests ++ [{ r with isRepeat := true, firstFailed := failed }] }

/-! Parts that do not answer (R400). -/

def failNamed (w : Option StepId) (s : State) : State := match w with | some w => failStep w 0x7041 s | none => s

/-- R399: what a report about unit `u` names: its channel where that has failed. -/
def silentSubject (s : State) (u : Nat) : Half := if (chan s (u / 16)).failed then subjChannel (u / 16) else subjUnit u

/-- UNIT_UNRESPONSIVE (R400): all that the unit owes is supplied as poisoned zeros; `w` is the step that it works for. -/
def execUnitUnresponsive (u : Fin 8192) (w : Option StepId) (s : State) : Out :=
  let s1 := onUnit u (fun v => { v with isolated := true }) (writeOffUnit u s)
  .next (reportFree 0x7041 (silentSubject s u) (subjChannel (u.val / 16)) (failNamed w s1))

/-- CORE_UNRESPONSIVE (R400): a core that owes pushes. -/
def execCoreUnresponsive (g : Fin 128) (w : Option StepId) (s : State) : Out :=
  if (core s g).owed.any fun e => e.2 != 0 then
    .next (reportFree 0x7041 (subjCore g) (subjTile (g.val / 16)) (failNamed w s))
  else .next s

end Sys2Proof.Machine
end

