-- ==== Sys2Proof/Machine/Mailbox.lean ====
section
/-! DEFINITION. Luthier's mailbox and sideband commands: attestation, updates, log clear, telemetry (R402-R409, R421). -/
namespace Sys2Proof.Machine

/-! Verification (R403). -/

/-- R403: an object against the fuse entries and the two signatures. -/
def verifies (s : State) (kind : Nat) (h : SignedHdr) (k : SigChecks) : Bool :=
  h.kind == kind && k.payloadHash && k.rsa && k.slh &&
    (match s.nvm.fuseKeys[h.keyIndex]? with
     | some (digest, revoked) => digest == h.keysDigest && !revoked
     | none => false)

def svnOk (s : State) (h : SignedHdr) : Bool := decide (s.nvm.fusesBlown ≤ h.svn)

/-- R403: the code of a firmware object, 0 when it verifies. -/
def firmwareCode (s : State) (o : FirmwareObject) : Half :=
  if !verifies s 1 o.hdr o.checks then 0x7061 else if !svnOk s o.hdr then 0x7062 else 0

/-- R402: the length of an object of KIND 1 to 3. -/
def plainLength (h : SignedHdr) : Nat := 1024 + h.length + 16608

/-! The mailbox (R408). -/

def beginMbox (code : Half) (s : State) : State := { s with lut.mbox := s.lut.mbox.begin code }

/-- GO with a command's code in MBOX_CMD; while the start is stopped the boot ROM takes FW_UPDATE only (R430). -/
def mailbox (code : Byte) (f : State → State) (s0 : State) : State :=
  let s : State := { s0 with lut.mboxCmd := code }
  if s.lut.mbox.busy then { s with lut.mbox := s.lut.mbox.refuse 0x7063 }
  else if s.start.stopped ∧ code ≠ 0x10 then beginMbox 0x7063 s
  else f s

/-- The registers that a mailbox command takes as they stand (R408, R453), after its code. -/
def mboxArgs (s : State) : List Nat :=
  [s.lut.mboxArg0.toNat, s.lut.mboxArg1.toNat, s.lut.mboxArg2.toNat, s.lut.mboxArg3.toNat]

def withMboxArgs (l : List Nat) (s : State) : State :=
  { s with
    lut.mboxArg0 := BitVec.ofNat 64 (l.getD 0 0)
    lut.mboxArg1 := BitVec.ofNat 64 (l.getD 1 0)
    lut.mboxArg2 := BitVec.ofNat 64 (l.getD 2 0)
    lut.mboxArg3 := BitVec.ofNat 64 (l.getD 3 0) }

/-- A command whose object comes from host memory: for the GO that awaits it, or with a GO of its own (R453). -/
def mailboxObject (code : Byte) (f : State → State) (s : State) : State :=
  match s.lut.mbox.taken with
  | some (c :: l) => if c = code.toNat then withMboxArgs (mboxArgs s) (f (withMboxArgs l s)) else mailbox code f s
  | _ => mailbox code f s

def runningFirmware (s : State) : Option FirmwareObject := (firmwareSlot s.nvm s.lut.runningSlotB).object

/-- R406: one entry as it stands in a report. -/
def measurementBytes (m : Measurement) : List Byte :=
  [m.type, m.tenant] ++ leBytes 2 m.index.toNat ++ leBytes 2 m.version.toNat ++ List.replicate 10 0 ++ leBytes 48 m.digest.toNat

/-- The data window (R410). -/
def dataBytes (n : Nat) (s : State) : List Byte := memReadN s.lut.data 0 n

/-- A list as exactly `n` bytes. -/
def exactly (n : Nat) (l : List Byte) : List Byte := l.take n ++ List.replicate (n - l.length) 0

/-- R407: header, entries, the two signatures. -/
def attestation (s : State) : List Byte × State :=
  let f := takeFree s
  let entries := s.lut.measurements
  let fw := runningFirmware s
  let head := Config.reportHeader (dataBytes 32 s)
    [128 + 64 * entries.length + 16608, entries.length, s.nvm.serial.toNat, s.lut.powerCycles.toNat, s.lut.opHours.toNat,
     ((fw.map (·.hdr.version.toNat)).getD 0), ((fw.map (·.hdr.svn)).getD 0), s.nvm.fusesBlown, bitNat s.order.orderMode]
  (exactly 128 head ++ (entries.map measurementBytes).flatten ++ exactly 16608 (Config.freeSignature f.1), f.2)

/-- R407, R408: bytes written to host memory where ARG1 is enough, else 0x7070. -/
def deliver (bs : List Byte) (s : State) : State :=
  if s.lut.mboxArg1.toNat < bs.length then beginMbox 0x7070 s
  else sendMsg (.write s.lut.mboxArg0 bs false) (beginMbox 0 s)

/-- GET_ATTESTATION (R407). -/
def getAttestation (s : State) : State :=
  mailbox 0x01 (fun s =>
    let r := attestation s
    deliver r.1 r.2) s

/-- GET_CERTS (R407). -/
def getCerts (s : State) : State := mailbox 0x02 (deliver Config.certificates) s

/-- FW_UPDATE (R405): how the read of host memory ended, the object, and whether it verifies when read back. -/
def fwUpdate (ended : ReadEnd) (o : FirmwareObject) (readBack : Bool) (s : State) : State :=
  mailboxObject 0x10 (fun s =>
    let code := if s.lut.mboxArg1.toNat < plainLength o.hdr then 0x7061 else firmwareCode s o
    if ended ≠ .ok then beginMbox 0x7064 (noteRead ended s)
    else if code ≠ 0 then beginMbox code s
    else
      let s1 : State := beginMbox 0 { s with lut.pendingFirmware := some o, lut.readBackOk := readBack }
      if flashOk (updateFlash s1) s1 then programFirmware s1 else holdWrite .firmware s1) s

/-- CONFIG_UPDATE (R405). -/
def configUpdate (ended : ReadEnd) (o : ConfigObject) (readBack : Bool) (s : State) : State :=
  mailboxObject 0x11 (fun s =>
    let bad := decide (s.lut.mboxArg1.toNat < plainLength o.hdr) || !verifies s 2 o.hdr o.checks
    if ended ≠ .ok then beginMbox 0x7064 (noteRead ended s)
    else if bad then beginMbox 0x7061 s
    else
      let s1 : State := beginMbox 0 { s with lut.pendingConfig := some o, lut.readBackOk := readBack }
      if flashOk 0 s1 then programConfig s1 else holdWrite .config s1) s

/-- SVN_COMMIT (R404). -/
def svnCommit (s : State) : State :=
  mailbox 0x12 (fun s => beginMbox 0 { s with
    nvm.fusesBlown := max s.nvm.fusesBlown ((runningFirmware s).map (·.hdr.svn) |>.getD 0) }) s

/-- R421: the authorisation is for this module and this start. -/
def clearOk (s : State) (o : ClearObject) : Bool :=
  verifies s 3 o.hdr o.checks && o.serial == s.nvm.serial && o.powerCycle == s.lut.powerCycles && o.reservedZero &&
    s.lut.mboxArg1.toNat == plainLength o.hdr

/-- LOG_CLEAR (R421, R422). -/
def logClear (ended : ReadEnd) (o : ClearObject) (s : State) : State :=
  mailboxObject 0x20 (fun s =>
    if ended ≠ .ok then beginMbox 0x7064 (noteRead ended s)
    else if !clearOk s o then beginMbox 0x7061 s
    else
      let s1 : State := beginMbox 0 { s with lut.pendingClear := some o.upTo }
      if flashOk 0 s1 then programClear s1 else holdWrite .clear s1) s

/-- The subject of TEST_NOW (R408): a live channel or a core that is not fenced. -/
def testNowSubject (s : State) : Option TestSubject :=
  let n := s.lut.mboxArg0.toNat % 65536
  let x : Option TestSubject :=
    if 0x0A00 ≤ n ∧ n < 0x0C00 then some (.channel (n - 0x0A00))
    else if 0x0D00 ≤ n ∧ n < 0x0D80 then some (.core (n - 0x0D00)) else none
  match x with
  | some x => if testable s x then some x else none
  | none => none

/-- TEST_NOW (R408). -/
def testNow (s : State) : State :=
  mailbox 0x30 (fun s => match testNowSubject s with
    | none => beginMbox 0x7063 s
    | some x => forceWindow x 2 true (beginMbox 0 s)) s

/-- GO (R408, R453): a command whose object is read from host memory is busy and awaits it; an unknown one returns 0x7063. -/
def mailboxGo (s : State) : State :=
  match s.lut.mboxCmd.toNat with
  | 0x01 => getAttestation s
  | 0x02 => getCerts s
  | 0x12 => svnCommit s
  | 0x30 => testNow s
  | 0x10 | 0x11 | 0x20 =>
    mailbox s.lut.mboxCmd (fun s => { s with lut.mbox := s.lut.mbox.await (s.lut.mboxCmd.toNat :: mboxArgs s) }) s
  | _ => mailbox s.lut.mboxCmd (beginMbox 0x7063) s

/-- R393, R408: what the running mailbox command still waits for. -/
def mboxWaits (s : State) : Bool :=
  ([HeldWrite.clear, .firmware, .config].any s.lut.held.contains) || (s.lut.tests ++ s.lut.forced).any (·.byMailbox)

/-! The sideband (R378, R409). -/

/-- A sideband command: NACKed where the PEC fails or Luthier does not run. -/
def sideband (pecOk : Bool) (f : State → State) (s : State) : Out :=
  if pecOk && luthierRuns s then .next (f s) else .next (answer .nack s)

/-- R409: an authenticated command. -/
def authenticated (counter : Nat) (hmacOk : Bool) (f : State → State) (s : State) : State :=
  if s.start.config.isSome && hmacOk && decide (s.lut.sidebandCounter < counter) then
    answer .done (f { s with lut.sidebandCounter := counter })
  else answer .nack (reportFree 0x7067 subjLuthier subjLuthier s)

def readingWord (s : State) (k : Nat) : Nat :=
  let r := reading s k
  bitNat r.broken * 2 ^ 31 + bitNat r.valid * 2 ^ 30 + r.raw.toNat

/-- TILE_THERMAL_t (R410). -/
def thermalWord (s : State) (t : Nat) : Nat :=
  let h := heat s t
  h.hotDram.toNat * 2 ^ 52 + h.hotCompute.toNat * 2 ^ 40 + bitNat h.tripped * 2 ^ 16 + s.lut.powerFraction * 2 ^ 8 + h.fraction

/-- READ_READING (R409): READING_k and BROKEN, placed as in the register of R410. -/
def execReadReading (k : Fin 256) (pecOk : Bool) (s : State) : Out :=
  sideband pecOk (fun s => answer (.data (leBytes 4 (bitNat (reading s k).broken * 2 ^ 31 + (reading s k).raw.toNat))) s) s

/-- READ_THERMAL (R409). -/
def execReadThermal (pecOk : Bool) (s : State) : Out :=
  sideband pecOk (fun s =>
    answer (.data (((List.range 8).map fun t => leBytes 8 (thermalWord s t)).flatten ++ leBytes 2 s.lut.modulePower.toNat)) s) s

/-- READ_REPORT (R409): page `p` of 240 bytes. -/
def execReadReport (p : Nat) (pecOk : Bool) (s : State) : Out :=
  sideband pecOk (fun s => answer (.data ((s.lut.report.drop (240 * p)).take 240)) s) s

/-- ATTEST (R409). -/
def execAttest (pecOk : Bool) (s : State) : Out :=
  sideband pecOk (fun s =>
    let r := attestation s
    answer .done { r.2 with lut.report := r.1 }) s

/-- R389: the power limit of the thermal class. -/
def classLimit (c : Nat) : Nat := if c = 0 then 2400 else if c = 1 then 2000 else 1600

/-- LOWER_LIMIT (R409): below the limit of the class, until restart. -/
def execLowerLimit (watts : Half) (counter : Nat) (hmacOk pecOk : Bool) (s : State) : Out :=
  sideband pecOk (authenticated counter hmacOk fun s =>
    if watts.toNat < classLimit s.start.thermalClass then { s with lut.powerLimit := watts } else s) s

/-- HALT (R409). -/
def execHalt (counter : Nat) (hmacOk pecOk : Bool) (s : State) : Out :=
  sideband pecOk (authenticated counter hmacOk tripAll) s

end Sys2Proof.Machine
end

