-- ==== Sys2Proof/Machine/Startup.lean ====
section
/-! DEFINITION. Reset, the ten steps of start-up, supplies and restarts (R94-R98, R365, R404, R424-R431, R443-R448). -/
namespace Sys2Proof.Machine

/-! Steps 2 and 3 (R404, R413, R424). -/

/-- R425: 00 low, 01 open, 10 high. -/
def strapCode : StrapLevel → Nat
  | .low => 0
  | .unconnected => 1
  | .high => 2

def strapBits (x : StartInput) : BitVec 10 :=
  BitVec.ofNat 10 (strapCode x.bootNvm * 256 + strapCode x.linkPlan * 64 + strapCode x.thermalClass * 16 +
    strapCode x.orderCompat * 4 + strapCode x.testMode)

/-- R404: a slot holds firmware that verifies. -/
def slotVerifies (s : State) (v : FwSlot) : Bool :=
  match v.object with
  | some o => firmwareCode s o == 0
  | none => false

/-- R404, R424: the slot tried first (true: slot B). -/
def firstSlot (s : State) (lowerFirst : Bool) : Bool :=
  let a := s.nvm.slotA
  let b := s.nvm.slotB
  if a.object.isNone then true
  else if b.object.isNone then false
  else
    let higher := decide (a.updateSeq < b.updateSeq)
    if lowerFirst then !higher
    else
      let v := firmwareSlot s.nvm higher
      if v.tried && !v.bootOk then !higher else higher

/-- R404: the slot that runs, and whether the boot fell back to the other; none where neither verifies. -/
def chooseSlot (s : State) (lowerFirst : Bool) : Option (Bool × Bool) :=
  let f := firstSlot s lowerFirst
  if slotVerifies s (firmwareSlot s.nvm f) then some (f, false)
  else if slotVerifies s (firmwareSlot s.nvm !f) then some (!f, true)
  else none

def strapCodes (x : StartInput) : List Half :=
  (if x.bootNvm = .low then [0x1005] else []) ++ (if x.linkPlan = .low then [0x1006] else [])

def reportModule (code : Half) (s : State) : State := reportFree code subjModule subjLuthier s

/-- Step 3 with firmware: counters, the START record, the events that arose before it (R382, R413). -/
def stepThree (x : StartInput) (b fell : Bool) (s : State) : State :=
  let v := firmwareSlot s.nvm b
  let s1 : State := setSlot b { v with tried := true } { s with
    lut.runningSlotB := b
    lut.powerCycles := s.nvm.powerCycles + 1
    lut.opHours := s.nvm.opHours
    start.state := 3 }
  let s2 := (strapCodes x ++ if fell then [0x7066] else []).foldl (fun s c => reportModule c s) (startRecord s1)
  addMeasurement 0x02 0 0 0 (addMeasurement 0x01 0 0 0 (writeHours s2))

/-- R430: neither slot verifies. -/
def stopStart (s : State) : State :=
  { s with
    start.state := 3
    start.starting := false
    start.stopped := true
    start.startCode := 0x1001 }

/-! Step 4: the configuration image (R425-R428). -/

def linkNumbersOk (q : Quad) : Bool :=
  !q.getLsbD 63 || (routeLinks q).all fun l => decide (l < 36)

/-- Two enabled links of one peer and peer link. -/
def sharesPeer (ls : Tab LinkPlan) : Bool :=
  ls.any fun a => a.2.enable && ls.any fun b => a.1 != b.1 && b.2.enable && a.2.peerNode == b.2.peerNode &&
    a.2.peerLink == b.2.peerLink

/-- Row 3 of R427. -/
def configRangesOk (c : ConfigImage) : Bool :=
  c.format == 1 && decide (1 ≤ c.node.toNat) && decide (c.node.toNat ≤ 0xFFFE) && decide (c.order.toNat ≤ 2) &&
    decide (c.thermal.toNat ≤ 3) && decide (c.dcClock.toNat ≤ 2) && c.reservedZero &&
    c.routes.all (fun e => linkNumbersOk e.2) && !sharesPeer c.links

/-- R427: the first failing row, 0 when all pass. -/
def configCode (s : State) (o : Option ConfigObject) : Half :=
  match o with
  | none => 0x1002
  | some o =>
    if !verifies s 2 o.hdr o.checks then 0x1002
    else if o.image.serial ≠ 0 ∧ o.image.serial ≠ s.nvm.serial then 0x1004
    else if !configRangesOk o.image then 0x1003
    else 0

/-- R424. -/
def strapClass : StrapLevel → Nat
  | .low => 2
  | .unconnected => 0
  | .high => 1

/-- R425: the class in force; R389: its limit. ORDER_MODE, IMAGE_OVERRIDE, STRAP_COMPAT (R262, R266). -/
def applyModes (x : StartInput) (c : Option ConfigImage) (s : State) : State :=
  let image := match c with | some c => c.thermal.toNat - 1 | none => 0
  let cls := max (strapClass x.thermalClass) image
  let strap := x.orderCompat == .high
  let named := match c with | some c => c.order.toNat | none => 0
  { s with
    start.thermalClass := cls
    lut.powerLimit := BitVec.ofNat 16 (classLimit cls)
    order.strapCompat := strap
    order.imageOverride := named != 0
    order.orderMode := if named = 0 then strap else named == 2 }

/-- The link plan of the image enters the links (R346, R426). -/
def planLinks (x : StartInput) (c : ConfigImage) (s : State) : State :=
  c.links.foldl (fun s e => onLink e.1 (fun k => { k with
    enabled := e.2.enable && x.linkPlan != .low, peerNode := e.2.peerNode, peerLink := e.2.peerLink.toNat }) s)
    { s with fabric.node := c.node, fabric.routes := c.routes }

/-- Step 4. -/
def stepFour (x : StartInput) (s0 : State) : State :=
  let code := configCode s0 s0.nvm.config
  let image : Option ConfigObject := if x.bootNvm = .low ∨ code ≠ 0 then none else s0.nvm.config
  let s : State := if x.bootNvm = .low ∨ code = 0 then s0 else reportModule code s0
  let c := image.map (·.image)
  let s1 := applyModes x c { s with
    start.state := 4
    start.config := c
    start.unconfigured := c.isNone
    start.configVersion := match image with | some o => o.hdr.version | none => 0
    start.dcClock := match c with | some c => c.dcClock.toNat | none => 0
    start.alignDefault := match c with | some c => c.alignDefault == 1 | none => false }
  match c with
  | some c => addMeasurement 0x03 0 0 0 (planLinks x c s1)
  | none => s1

/-! Steps 5 and 6: training and the channel map (R94-R98). -/

/-- R95: the copy used at start, and the code that the choice reports. -/
def startMap (n : Nvm) : List Nat × Bool × Half :=
  match inForce n.map0, inForce n.map1 with
  | some a, some b => if a.sequence < b.sequence then (b.mask, true, 0) else (a.mask, false, 0)
  | some a, none => (a.mask, false, 0x3C01)
  | none, some b => (b.mask, true, 0x3C01)
  | none, none => ([], false, 0x3C02)

def reportNonzero (code : Half) (s : State) : State := if code = 0 then s else reportModule code s

/-- The wires of channel `c` that fail training. -/
def wiresFailed (x : StartInput) (c : Nat) : List Nat :=
  ((((x.failedWires.filter fun e => e.1 == c).flatMap (·.2)).filter fun w => decide (w < 328)).foldl setInsert [])

/-- R74: training fails a channel whose training pattern fails, or on which more than 8 wires fail. -/
def trainingFails (x : StartInput) (c : Nat) : Bool := x.failedTraining.contains c || decide (8 < (wiresFailed x c).length)

/-- R74: each failed wire on the lowest spare that works and is not yet taken. -/
def mapSpares (ws : List Nat) (h : Channel) : Channel :=
  let good := (List.range 8).filter fun k => !ws.contains (320 + k)
  ((ws.filter fun w => decide (w < 320)).zip good).foldl (fun h p => assignSpare p.1 p.2 h) { h with wires := ws }

/-- Channel `c` after training: live with its spares mapped, or mapped out. -/
def trainChannel (x : StartInput) (applied : List Nat) (s : State) (c : Nat) : State :=
  onChan c (fun h =>
    if applied.contains c then { h with live := false, mappedOut := true, patrolStart := s.lut.opHours }
    else mapSpares (wiresFailed x c) { h with live := true, mappedOut := false, patrolStart := s.lut.opHours }) s

/-- R106, R406: the 64 bytes of APPLIED_MAP_0 to 7. -/
def appliedBytes (applied : List Nat) : List Byte :=
  leBytes 64 (sumNat ((applied.filter fun c => decide (c < 512)).eraseDups.map fun c => 2 ^ c))

/-- Steps 5 and 6. -/
def stepSix (x : StartInput) (s : State) : State :=
  let (held, copy1, code) := startMap s.nvm
  let image := match s.start.config with | some c => c.channelMap | none => []
  let released := match s.start.config with | some c => c.releaseMask | none => []
  let out := (image ++ held).filter fun c => !released.contains c
  let failed := (List.range 512).filter fun c => trainingFails x c && !out.contains c
  let applied := (out ++ failed).foldl setInsert []
  let persistent := ((held.filter fun c => !released.contains c) ++ failed).foldl setInsert []
  let s1 := reportNonzero code { s with
    us := 0
    start.state := 5
    spread.mapCopy := copy1
    spread.persistent := persistent }
  let s2 := failed.foldl (fun s c => report 0x3C10 (subjChannel c) (subjLuthier) (BitVec.ofNat 32 c) s) s1
  let s3 := if persistent = held then s2 else mapWrite s2
  let empty := (tileCounts applied).contains 0
  let s4 := (List.range 512).foldl (trainChannel x applied) { s3 with
    start.state := 6
    spread.applied := applied
    spread.units := if empty then 0 else liveUnitCount applied }
  let s5 := addEntry 0x04 0 0 0 (digestOf (appliedBytes applied)) s4
  if empty then reportModule 0x3C30 (raiseDegradedEvent { s5 with spread.degraded := true }) else s5

/-! Steps 7 to 10. -/

/-- R128: all live stacked memory becomes zeros with valid check bits, so that nothing in it is poisoned. -/
def fillStacks (s : State) : State :=
  let live (n : Nat) : Bool := (chan s (chanOfSector n)).live
  { s with
    dram.bytes := s.dram.bytes.filter fun e => !live (e.1 / 32)
    dram.checks := s.dram.checks.filter fun e => !live e.1
    dram.rereads := []
    protect.table := [] }

/-- R116, R128: every SRAM becomes zeros without marks; fences stay. -/
def zeroSram (s : State) : State :=
  { s with
    scratch.bytes := []
    scratch.marks := []
    scratch.bad := []
    scratch.fixing := []
    near.units := s.near.units.map fun e => (e.1, { fenced := e.2.fenced, isolated := e.2.isolated })
    near.collectors := []
    near.owners := []
    dense.cores := s.dense.cores.map fun e => (e.1, { fenced := e.2.fenced })
    dense.tiles := s.dense.tiles.map fun e => (e.1, { e.2 with lines := [] }) }

/-- Step 7: the fill zeroes all memory (R128); the tenant keys are drawn unless the entropy tests fail (R383). -/
def stepSeven (s0 : State) : State :=
  let s := zeroSram (fillStacks s0)
  let s1 : State := { s with
    start.state := 7
    protect.startFillDone := true
    lut.keysDrawn := s.lut.entropyOk }
  if s.lut.entropyOk then s1 else reportFree 0x7001 subjLuthier subjLuthier s1

/-- Step 8 (R395, R396, R410). -/
def stepEight (x : StartInput) (s : State) : State :=
  let live := (List.range 512).filter fun c => (chan s c).live
  let here (l : List Nat) := (l.filter fun u => live.contains (u / 16)).foldl setInsert []
  let once := here x.unitsOnce
  let twice := here x.unitsTwice
  let cores (l : List Nat) := (l.filter fun g => decide (g < 128)).foldl setInsert []
  let repeats := (((once ++ twice).map (· / 16)).foldl setInsert []).length +
    ((cores x.coresOnce ++ cores x.coresTwice).foldl setInsert []).length
  let n := live.length + 128 * (if x.testMode = .high then 8 else 1) + repeats
  let s1 : State := { s with
    start.state := 8
    lut.startTest := s.lut.opHours
    lut.testsRun := BitVec.ofNat 64 n }
  let s2 := twice.foldl (fun s u => fencePart (.unit u) 0 s) s1
  let s3 := (once.filter fun u => !twice.contains u).foldl (fun s u => reportFree 0x7032 (subjUnit u) subjLuthier s) s2
  let s4 := (cores x.coresTwice).foldl (fun s g => fencePart (.core g) 0 s) s3
  ((cores x.coresOnce).filter fun g => !x.coresTwice.contains g).foldl (fun s g => reportFree 0x7032 (subjCore g) subjLuthier s) s4

/-- Step 9 begins (R359); step 10 follows when no enabled link is in bring-up. -/
def stepNine (s : State) : State :=
  settleStart ((List.range 36).foldl (fun s l => if (link s l).enabled then startLink l s else s) s)

/-- The first step after reset release: a feed is good, the module is not in the service state, and does not run (R447). -/
def mayStart (s : State) : Bool :=
  (s.supply.feedA.accepted || s.supply.feedB.accepted) && !s.supply.service && decide (s.start.state ≤ 1)

/-- R429: steps 1 to 10. -/
def startModule (x : StartInput) (s0 : State) : State :=
  let s : State := { s0 with
    start.state := 2
    start.starting := true
    start.straps := strapBits x
    lut.bootSample0 := x.flash0
    lut.bootSample1 := x.flash1 }
  match chooseSlot s (x.bootNvm == .high) with
  | none => stopStart s
  | some (b, fell) => stepNine (stepEight x (stepSeven (stepSix x (stepFour x (stepThree x b fell s)))))

/-- RESET_RELEASE (R429, R447): without a feed the release waits. -/
def execResetRelease (x : StartInput) (s : State) : Out :=
  let s1 : State := { s with start.perstLow := false }
  .next (if mayStart s1 then startModule x s1 else s1)

/-! Restarts and the loss of power (R365, R392, R431, R448). -/

/-- What is left of the module when everything volatile is lost: the flashes, the fuses, the world outside. -/
def volatileLost (s : State) : State :=
  { State.reset with
    free := s.free
    nvm := s.nvm
    supply := s.supply
    start.perstLow := s.start.perstLow
    fabric.socketA := s.fabric.socketA
    fabric.socketB := s.fabric.socketB
    lut.entropyOk := s.lut.entropyOk
    port.sent := s.port.sent
    pending := s.pending }

/-- R365, R392: what Luthier does before it stops: aggregates, the map write, the flush. -/
def lastActs (feeds : Bool) (limit : Nat) (s : State) : State :=
  let s1 := retryMapWrite (commitAll s)
  lastFlush feeds limit (if feeds then reportFree 0x7052 subjModule subjLuthier s1 else s1)

/-- A restart from step 2: the start waits for the release of reset. -/
def restart (perst : Bool) (limit : Nat) (s : State) : State :=
  let s1 := volatileLost (if luthierRuns s then lastActs false limit s else s)
  { s1 with
    start.state := 1
    start.perstLow := perst }

/-- CONVENTIONAL_RESET (R365): PERST# asserted, or a Hot Reset or link that went down; `limit` records reach the flash. -/
def execConventionalReset (perst : Bool) (limit : Nat) (s : State) : Out :=
  if s.supply.service then .next { s with start.perstLow := perst }
  else if s.start.state = 0 then .next { s with start.perstLow := perst }
  else .next (restart perst limit s)

/-- LINK_DOWN (R365): recorded; the restart is the CONVENTIONAL_RESET that follows. -/
def execLinkDown (s : State) : Out :=
  if s.port.linkUp then
    let s1 : State := { s with port.linkUp := false }
    .next (if luthierRuns s1 then reportFree 0x6050 subjPort subjPort s1 else s1)
  else .next s

def feedOf (s : State) (b : Nat) : Feed := if b = 0 then s.supply.feedA else s.supply.feedB
def setFeed (b : Nat) (f : Feed) (s : State) : State :=
  if b = 0 then { s with supply.feedA := f } else { s with supply.feedB := f }

/-- R448: both feeds are lost. -/
def powerLost (limit : Nat) (s : State) : State :=
  let s1 := volatileLost (if luthierRuns s then lastActs true (max 192 limit) s else s)
  { s1 with supply := {} }

/-- BOTH_FEEDS_LOST (R392, R448): at least 192 records are written, `limit` where that is more (R416). -/
def execBothFeedsLost (limit : Nat) (s : State) : Out :=
  if s.supply.feedA.accepted || s.supply.feedB.accepted then .next (powerLost limit s) else .next s

/-- FEED_LOST (R446, R447): below 37 V or above 48 V; the loss of the last feed is the loss of both. -/
def execFeedLost (b : Fin 2) (limit : Nat) (s : State) : Out :=
  if (feedOf s b).accepted then
    if (feedOf s (1 - b.val)).accepted then
      let s1 := setFeed b { accepted := false, lostOnce := true } s
      .next (if luthierRuns s1 then report 0x7050 subjModule subjLuthier (BitVec.ofNat 32 b.val) s1 else s1)
    else .next (powerLost limit s)
  else .next s

/-- FEED_ACCEPTED (R443, R446, R447): SVC_EN is sampled at the first acceptance. -/
def execFeedAccepted (b : Fin 2) (svcEnHigh : Bool) (s : State) : Out :=
  let f := feedOf s b
  if f.accepted then .next s
  else
    let s1 := setFeed b { accepted := true, lostOnce := false } s
    let s2 : State := if s.supply.sampled then s1 else { s1 with supply.sampled := true, supply.service := svcEnHigh }
    .next (if f.lostOnce && luthierRuns s2 then report 0x7051 subjModule subjLuthier (BitVec.ofNat 32 b.val) s2 else s2)

/-! Pins (R442). -/

def feedAOk (s : State) : Bool := s.supply.feedA.accepted
def feedBOk (s : State) : Bool := s.supply.feedB.accepted

/-- MODULE_FAULT# driven low. -/
def moduleFault (s : State) : Bool := (List.range 8).any (tileTripped s) || s.start.stopped

end Sys2Proof.Machine
end

