-- ==== Sys2Proof/Machine/Port.lean ====
section
/-! DEFINITION. The host port: BAR2 and BAR4, refused traffic, configuration, completions, MSI-X, the swap registers
(R115, R121, R226, R316, R363-R373, R377). -/
namespace Sys2Proof.Machine

/-- A pure command as an outcome. -/
def done (s : State) : Out := .next s

/-- The codes of R381, with the host port as subject. -/
def portCode (code : Half) (s : State) : State := reportFree code subjPort subjPort s

/-! BAR2 (R115, R121, R316, R368). -/

/-- The allocation that seals a byte, if any. -/
def sealedAt (scratch : Bool) (a : Nat) (s : State) : Option Alloc :=
  match allocAt scratch a s with
  | some (_, x) => if x.sealed then some x else none
  | none => none

/-- One byte as BAR2 returns it: value, poison, and the codes that the access records. -/
structure HostByte where
  value : Byte := 0
  poison : Bool := false
  code : Half := 0
  deriving DecidableEq, Repr

/-- The bytes of one sector that a host read names. -/
def bar2Sector (k : Nat) (s : State) : Option Sector × State := readAddr (32 * k) s

/-- One sector read through BAR2: its bytes from `a` on. -/
def bar2Bytes (a n : Nat) (s : State) : List HostByte × State :=
  if capacity s ≤ a then (List.replicate n { code := 0x6020 }, s)
  else if (sealedAt false a s).isSome then (List.replicate n { code := 0x4820 }, s)
  else
    let r := bar2Sector (a / 32) s
    let x := r.1.getD .zero
    (((sectorBytes x.data).drop (a % 32)).take n |>.map fun b => { value := b, poison := x.poison }, r.2)

/-- A read of `n` bytes, sector by sector. -/
def bar2ReadFrom : Nat → Nat → Nat → State → List HostByte × State
  | 0, _, _, s => ([], s)
  | f + 1, a, n, s =>
    if n = 0 then ([], s)
    else
      let m := min n (32 - a % 32)
      let r := bar2Bytes a m s
      let t := bar2ReadFrom f (a + m) (n - m) r.2
      (r.1 ++ t.1, t.2)

/-- Each code once per request, `subject` naming who it concerns. -/
def noteCodes (cs : List Half) (subject : Half → Half) (bs : List HostByte) (s : State) : State :=
  cs.foldl (fun s c => if bs.any fun b => b.code == c then reportFree c (subject c) subjPort s else s) s

/-- R121: poison completes with EP and zero data. -/
def answerBytes (bs : List HostByte) (s : State) : State :=
  if bs.any (·.poison) then answer (.poisoned bs.length) s else answer (.data (bs.map (·.value))) s

def bar2Subject (c : Half) : Half := if c = 0x4820 then subjServing else subjPort

/-- BAR2_READ (R368): `n` bytes at BAR2 offset `o`. -/
def bar2Read (o n : Nat) (s : State) : State :=
  let r := bar2ReadFrom (n / 32 + 2) (s.port.bar2Base.toNat + o) n s
  answerBytes r.1 (noteCodes [0x6020, 0x4820] bar2Subject r.1 r.2)

/-- A byte of a host write: not enabled, or its value. -/
abbrev WriteData := List (Option Byte)

/-- The enabled bytes of one sector of a write that begins at address `a`. -/
def sectorPart (a : Nat) (d : WriteData) (k : Nat) : List (Option Byte) :=
  (List.range 32).map fun i => if a ≤ 32 * k + i then (d[32 * k + i - a]?).join else none

/-- One sector of a BAR2 write (R115, R316, R370): the codes it records, and the write. -/
def bar2PutSector (ep : Bool) (a : Nat) (d : WriteData) (r : List HostByte × State) (k : Nat) : List HostByte × State :=
  let part := sectorPart a d k
  let s := r.2
  if part.all (·.isNone) then r
  else if capacity s ≤ 32 * k then ({ code := 0x6020 } :: r.1, s)
  else if (match sealedAt false (32 * k) s with | some x => x.tenant == 0 | none => false) then ({ code := 0x4820 } :: r.1, s)
  else if ep then (r.1, writeAddr (32 * k) .poisoned s)
  else if part.any (·.isNone) then (r.1, portCode 0x3030 s)
  else (r.1, writeAddr (32 * k) { data := sectorOfBytes (part.map (·.getD 0)), poison := false } s)

/-- R370: a host write that carries EP. -/
def notePoisoned (ep : Bool) (s : State) : State :=
  if ep then portCode 0x6002 (sendAer .poisoned { s with port.poisonedIn := s.port.poisonedIn + 1 }) else s

/-- BAR2_WRITE (R368). -/
def bar2Write (o : Nat) (d : WriteData) (ep : Bool) (s : State) : State :=
  let a := s.port.bar2Base.toNat + o
  let r := ((List.range (d.length / 32 + 2)).map (a / 32 + ·)).foldl (bar2PutSector ep a d) ([], notePoisoned ep s)
  answer .done (noteCodes [0x6020, 0x4820] bar2Subject r.1 r.2)

/-! BAR4 (R217, R223, R226, R369). -/

/-- R226: the code of a byte that is not reached. -/
def bar4Code (s : State) (a : Nat) : Half :=
  match resolve a with
  | none => 0x9C01
  | some (_, b) => if (sealedAt true b s).isSome then 0x9C03 else 0

def bar4Byte (a : Nat) (r : List HostByte × State) : List HostByte × State :=
  let c := bar4Code r.2 a
  match c == 0, resolve a with
  | true, some (_, b) =>
    let x := scratchRead b 1 r.2
    ({ value := x.1.headD 0, poison := x.2.1 } :: r.1, x.2.2)
  | _, _ => ({ code := c } :: r.1, r.2)

/-- R219: host access uses the arbitrated port of every bank but its own. -/
def bar4Ports (a n : Nat) (s : State) : State :=
  match resolve a with
  | some (_, b) => if n = 0 ∨ bar4Code s a ≠ 0 then s else portAccess 19 b n s
  | none => s

/-- BAR4_READ (R226): `corrected` and `wrong` are bytes whose check bits are found in error (R116). -/
def bar4Read (a n : Nat) (corrected wrong : List Nat) (s : State) : State :=
  let s1 := bar4Ports a n (disturbSram corrected wrong a n s)
  let r := (List.range n).foldl (fun r i => bar4Byte (a + i) r) ([], s1)
  answerBytes r.1.reverse (noteCodes [0x9C01, 0x9C03] (fun _ => subjTile (tileOf a)) r.1 r.2)

/-- Runs of consecutive bytes. -/
def byteRuns : List (Nat × Byte) → List (Nat × List Byte)
  | [] => []
  | (a, b) :: t => match byteRuns t with
    | (a', bs) :: rest => if a + 1 = a' then (a, b :: bs) :: rest else (a, [b]) :: (a', bs) :: rest
    | [] => [(a, [b])]

/-- BAR4_WRITE (R226, R370). -/
def bar4Write (a : Nat) (d : WriteData) (ep : Bool) (s : State) : State :=
  let s1 := notePoisoned ep s
  let named : List (Nat × Byte) := ((List.range d.length).zip d).filterMap fun e => e.2.map fun b => (a + e.1, b)
  let codes : List HostByte := named.map fun e => { code := bar4Code s1 e.1 }
  let s2 := (byteRuns (named.filter fun e => bar4Code s1 e.1 == 0)).foldl
    (fun s r => (scratchStore (some 0) ep r.1 r.2 (bar4Ports r.1 r.2.length s)).1) s1
  answer .done (noteCodes [0x9C01, 0x9C03] (fun _ => subjTile (tileOf a)) codes s2)

/-! Refused traffic (R367, R370). -/

/-- BAR0_ACCESS_ERROR (R367). -/
def bar0AccessError (write : Bool) (s : State) : State :=
  portCode 0x6001 (answer .unsupported (if write then sendAer .unsupported s else s))

/-- MALFORMED_TLP (R370). -/
def execMalformedTlp (completion : Bool) (s : State) : Out :=
  .next (portCode 0x6003 (sendAer (if completion then .unexpectedCompletion else .malformed)
    { s with port.malformed := s.port.malformed + 1 }))

/-- UNSUPPORTED_REQUEST (R370). -/
def execUnsupportedRequest (s : State) : Out := .next (answer .unsupported (sendAer .unsupported s))

/-! MSI-X (R373). -/

/-- Every pending vector that is open sends one message. -/
def sendPending (s : State) : State :=
  s.port.pending.foldl (fun s v =>
    if vectorOpen s v then
      signalVector v { s with port.pending := setErase s.port.pending v }
    else s) s

/-- MSIX_UNMASK (R373). -/
def msixUnmask (v : Nat) (s : State) : State :=
  sendPending { s with port.msix := tabPut s.port.msix v { msixEntry s v with masked := false } }

/-! Configuration requests (R363-R366). -/

/-- R366: what waited is sent, in order. -/
def releaseWaiting (s : State) : State :=
  if s.port.busMasterEnable && !s.port.d3hot then
    { s with port.sent := s.port.sent ++ s.port.waiting, port.waiting := [] }
  else s

def answerWord (w : Word) (s : State) : State := answer (.data (leBytes 4 w.toNat)) s

/-- R14: size and Prefetchable of a memory BAR, by the double word of the header where it begins (4 BAR0, 6 BAR2, 8 BAR4). -/
def barShape (w : Nat) : Option (Nat × Bool) :=
  if w = 4 then some (2 ^ 24, false) else if w = 6 then some (2 ^ 36, true) else if w = 8 then some (2 ^ 32, false) else none

/-- A BAR double word as it reads: 64-bit memory BARs (R14, R368; PRESUMED for BAR0 and BAR4, log entry 97), the address bits above the
size as last written. -/
def barWord (s : State) (w : Nat) : Option Word :=
  match barShape w, barShape (w - 1) with
  | some (n, p), _ =>
    let v := (tabGet 0 s.port.bars w).toNat
    some (BitVec.ofNat 32 (v / n * n + bitNat p * 8 + 4))
  | none, some (n, _) => if w = 0 then none else
    let v := (tabGet 0 s.port.bars w).toNat * 2 ^ 32
    some (BitVec.ofNat 32 (v / n * n / 2 ^ 32))
  | none, none => none

/-- R14: a BAR takes the address bits above its size. -/
def writeBar (w : Nat) (v : Word) (s : State) : State :=
  if (barWord s w).isSome then { s with port.bars := tabSet 0 s.port.bars w v } else s

/-- A configuration request that is served (R14, R364). -/
def serveConfig (o : ConfigOp) (s : State) : State :=
  match o with
  | .readId => answerWord 0x86404B57 s
  | .readSubsystem => answerWord 0x86404B57 s
  | .readClass => answerWord 0x12000041 s
  | .readSerial => answer (.data (quadBytes s.nvm.serial)) s
  | .readOther w => answerWord ((barWord s w).getD (Config.pcieConfigWord w)) s
  | .busMaster b => answer .done (releaseWaiting { s with port.busMasterEnable := b })
  | .power d => answer .done (releaseWaiting { s with port.d3hot := d })
  | .msix e m => answer .done (sendPending { s with port.msixEnable := e, port.functionMask := m })
  | .writeOther w v => answer .done (writeBar w v s)

/-- CONFIG_REQUEST (R365): Request Retry Status until step 10, or until the start stops at step 3 (R430). -/
def execConfigRequest (o : ConfigOp) (s : State) : Out :=
  if s.port.ready || s.start.stopped then .next (serveConfig o s) else .next (answer .retryStatus s)

/-- LINK_TRAINED (R363, R380): width in lanes, speed 1 to 6, Flit Mode. -/
def execLinkTrained (width speed : Nat) (flit : Bool) (s : State) : Out :=
  if !s.supply.service && decide (2 ≤ s.start.state) && [1, 2, 4, 8, 16].contains width && decide (1 ≤ speed) && decide (speed ≤ 6) then
    .next { s with port.linkUp := true, port.linkWidth := width, port.linkSpeed := speed, port.flitMode := flit }
  else .next s

/-! Reads of host memory (R298, R372). -/

def readWords (k : Nat) (bs : List (Byte × Bool)) : List Nat := leWords k (bs.length / k) (bs.map (·.1))

/-- R298: the read for the prompt or the bias table has ended, well or not. -/
def endSlotRead (p : ReadFor) (ok : Bool) (data : List (Byte × Bool)) (s : State) : State :=
  match p with
  | .prompt i => onRequest i (fun x => { x with
      promptRead := some ok, prompt := if ok then (readWords 4 data).map (BitVec.ofNat 32) else [] }) s
  | .bias i => onRequest i (fun x => { x with
      biasRead := some ok,
      bias := if ok then (readWords 8 data).map fun w => (BitVec.ofNat 32 w, BitVec.ofNat 32 (w / 2 ^ 32)) else [] }) s
  | .dma _ => s

def isDma (p : ReadFor) : Bool := match p with | .dma _ => true | _ => false

/-- The requests of one read leave the port once all have ended; those of a DMA command stay until the command completes. -/
def settleReads (p : ReadFor) (s : State) : State :=
  let rs := s.port.reads.filter fun x => x.purpose == p
  if isDma p || rs.any (·.ended.isNone) then s
  else endSlotRead p (rs.all (·.ended == some .ok)) (rs.flatMap (·.data))
    { s with port.reads := s.port.reads.filter fun x => x.purpose != p }

/-- A request for host memory has ended. -/
def endRead (r : HostRead) (e : ReadEnd) (s : State) : State :=
  settleReads r.purpose
    { s with port.reads := s.port.reads.map fun x => if x.tag = r.tag then { r with ended := some e } else x }

def openRead (s : State) (tag : Nat) : Option HostRead := s.port.reads.find? fun r => r.tag == tag && r.ended.isNone

/-- COMPLETION_ARRIVE (R370, R372): data of a completion of an outstanding read, or its failure; data that arrives with EP
is marked. -/
def execCompletionArrive (tag : Nat) (e : ReadEnd) (bs : List Byte) (s : State) : Out :=
  match openRead s tag with
  | none => execMalformedTlp true s
  | some r =>
    let s1 := noteRead e s
    if e = .failed then .next (endRead r .failed s1)
    else
      let data := (r.data ++ bs.map fun b => (b, e == .poisoned)).take r.length
      let r1 := { r with data := data }
      if r.length ≤ data.length then .next (endRead r1 (if data.any (·.2) then .poisoned else .ok) s1)
      else .next { s1 with port.reads := s1.port.reads.map fun x => if x.tag = tag then r1 else x }

/-- HOST_READ_TIMEOUT (R372). -/
def execHostReadTimeout (tag : Nat) (s : State) : Out :=
  match openRead s tag with
  | none => .next s
  | some r => .next (endRead r .failed (noteRead .failed s))

/-! The swap registers (R377). -/

/-- No swap slot is used and no swap transfer is in flight. -/
def swapIdle (s : State) : Bool :=
  s.kv.slots.isEmpty && !(s.kv.seqs.any fun e => e.2.state == .swappingOut || e.2.state == .swappingIn)

/-- SWAP_REGISTER_WRITE (R377): SWAP_SIZE, at most 4 TiB, or SWAP_BASE. -/
def swapRegisterWrite (size : Bool) (v : Quad) (s : State) : State :=
  let w : Quad := if size then v &&& 0x000007FFFFFF0000 else v &&& 0xFFFFFFFFFFFF0000
  if !swapIdle s ∨ (size ∧ 2 ^ 42 < w.toNat) then portCode 0x6040 s
  else if size then { s with port.swapSize := w } else { s with port.swapBase := w }

end Sys2Proof.Machine
end

