-- ==== Sys2Proof/Machine/Dma.lean ====
section
/-! DEFINITION. The host port's DMA engine (R374-R376). -/
namespace Sys2Proof.Machine

def dmaSlot (s : State) (j : Nat) : DmaSlot := tabGet {} s.port.dma j
def onDma (j : Nat) (f : DmaSlot → DmaSlot) (s : State) : State := { s with port.dma := tabPut s.port.dma j (f (dmaSlot s j)) }

def DmaSlot.word (d : DmaSlot) (k : Nat) : Nat := (d.copied.getD k 0).toNat
def DmaSlot.desc (d : DmaSlot) : Nat := bits (d.word 0) 63 48
def DmaSlot.toHost (d : DmaSlot) : Bool := bit (d.word 0) 47
def DmaSlot.irq (d : DmaSlot) : Bool := bit (d.word 0) 46
def DmaSlot.vector (d : DmaSlot) : Nat := bits (d.word 0) 45 40

/-- R374: every field not named is zero. -/
def dmaReservedOk (d : DmaSlot) (arm : Quad) : Bool :=
  bits (d.word 0) 39 0 == 0 && d.word 5 == 0 && d.word 6 == 0 && bits arm.toNat 47 1 == 0

/-- R375: the first failing row, 0 when all pass. -/
def dmaCheck (s : State) (d : DmaSlot) (arm : Quad) : Half :=
  if !dmaReservedOk d arm then 0x6030
  else match descEntry s d.desc with
    | none => 0x2044
    | some e =>
      let x := decodeDesc e.words
      if (d.toHost ∧ x.read = false) ∨ (d.toHost = false ∧ x.write = false) then 0x2043
      else if d.word 3 ≠ x.packedBytes then 0x6031
      else if d.word 1 % 4 ≠ 0 ∨ d.word 2 % 16 ≠ 0 then 0x6032
      else 0

/-- R376 steps 2 and 3: the completion record and the vector. -/
def dmaRecord (j : Nat) (code : Half) (s : State) : State :=
  let d := dmaSlot s j
  let w0 : Quad := code ++ d.gen ++ (0 : Word)
  let s1 := sendMsg (.write (d.copied.getD 2 0) (quadBytes w0 ++ quadBytes (d.copied.getD 4 0)) false) s
  if d.irq then signalVector d.vector s1 else s1

/-- The slot is FREE with its last code. -/
def dmaFree (j : Nat) (code : Half) (s : State) : State := onDma j (fun d => { d with phase := .free, code := code }) s

/-- DMA_ARM (R375): a completed write of the arm word. -/
def dmaArm (j : Nat) (w : Quad) (s0 : State) : State :=
  let s := onDma j (fun d => { d with words := d.words.set 7 w }) s0
  let d0 := dmaSlot s j
  let gen : Half := w.extractLsb' 48 16
  if w.getLsbD 0 && gen == d0.gen + 1 && d0.phase == .free then
    let d := { d0 with gen := gen, copied := d0.words.take 7 }
    let s1 := onDma j (fun _ => d) s
    let code := dmaCheck s d w
    if code ≠ 0 then dmaRecord j code (dmaFree j code s1)
    else
      let e := descEntry s d.desc
      { onDma j (fun d => { d with
          phase := .queued, descriptor := (e.map (·.words)).getD 0, image := e.bind (·.image) }) s1 with port.dmaQueue := s1.port.dmaQueue ++ [j] }
  else { s with port.dmaArmsIgnored := s.port.dmaArmsIgnored + 1 }

def running (s : State) : Nat := (s.port.dma.filter fun e => e.2.phase == .running).length

/-- DMA_START (R375): the oldest queued command, while fewer than four run. -/
def execDmaStart (s : State) : Out :=
  match s.port.dmaQueue with
  | [] => .next s
  | j :: t =>
    if 4 ≤ running s then .next s
    else
      let d := dmaSlot s j
      let s1 : State := { onDma j (fun d => { d with phase := .running }) s with port.dmaQueue := t }
      .next (if d.toHost then s1 else addHostReads (.dma j) (d.word 3 / 4096 + 1) (d.copied.getD 1 0) (d.word 3) s1)

/-! Host to module. -/

def readsOf (s : State) (j : Nat) : List HostRead := s.port.reads.filter fun r => r.purpose == .dma j

/-- The bytes of a command as they arrived; none where a read failed. -/
def arrived (r : HostRead) : List (Option (Byte × Bool)) :=
  if r.ended = some .failed then List.replicate r.length none else r.data.map some

/-- Bytes `[n w / 2, …)` of an element of `w` half-bytes. -/
def packedElem (fmt : Nat) (bs : List (Option (Byte × Bool))) (n : Nat) : Option Elem :=
  let w := nibbles fmt
  let part := (bs.drop (n * w / 2)).take ((w + 1) / 2)
  if part.any (·.isNone) then none
  else
    let v := leValue (part.map fun b => (b.map (·.1)).getD 0)
    some { value := if fmt = 3 then (if n % 2 = 0 then v % 16 else v / 16) else v, poison := part.any fun b => (b.map (·.2)).getD false }

/-- An element that did not arrive beside elements of its sector that did: a free value. -/
def fillMissing : List (Option Elem) → State → List Elem × State
  | [], s => ([], s)
  | x :: t, s =>
    let f : Elem × State := match x with
      | some e => (e, s)
      | none => ({ value := (Config.freeWord s.free).toNat, poison := false }, { s with free := s.free + 1 })
    let r := fillMissing t f.2
    (f.1 :: r.1, r.2)

/-- R372: sectors that received no data are left unchanged. -/
def writeArrived (dst : Desc) (xs : List (Option Elem)) (s : State) : State :=
  let f := fillMissing xs s
  let w := (dst.tuples.zip f.1).foldl (fun w p => putElem dst p.1 p.2 w) []
  let got := ((dst.tuples.zip xs).filter fun p => p.2.isSome).filterMap fun p => dst.elementOffset p.1
  let sectors := sectorsOf ((got.map fun e => elementBytes dst.fmt (dst.byteAddress e)).flatten)
  if dst.scratch then flushScratch (aliasOf dst.view) (runsOf (w.filter fun e => sectors.contains (e.1 / 32))) f.2
  else flushStacked w sectors f.2

def dmaInCode (rs : List HostRead) : Half :=
  if rs.any fun r => r.ended == some .failed then 0x6010
  else if rs.any fun r => r.ended == some .poisoned then 0x6011 else 0

/-- R29: the module side of a running command names a pair or channel that is held. -/
def dmaWaits (s : State) (j : Nat) : Bool := sideWaits s (decodeDesc (dmaSlot s j).descriptor)

/-- R219: the host port's accesses to the banks that a command names. -/
def dmaPorts (d : Desc) (s : State) : State := if d.scratch then portRanges 19 (sectorRanges d.sectors) s else s

/-- DIR 0: every module write is performed (R376, R263, R349). -/
def dmaIn (j : Nat) (s : State) : Half × State :=
  let d := dmaSlot s j
  let rs := readsOf s j
  let dst := decodeDesc d.descriptor
  let bs := (rs.map arrived).flatten
  let n := dst.tuples.length
  let s1 := writeArrived dst ((List.range n).map (packedElem dst.fmt bs))
    (dmaPorts dst { s with port.reads := s.port.reads.filter fun r => r.purpose != .dma j })
  let moved := (bs.filter (·.isSome)).length
  (dmaInCode rs, compatFlush dst (exportDest none dst { s1 with port.dmaBytesIn := s1.port.dmaBytesIn + BitVec.ofNat 64 moved }))

/-! Module to host. -/

/-- Elements packed in index order (R374), poisoned elements as zeros. -/
def packElems (fmt : Nat) : List Elem → List (Byte × Bool)
  | [] => []
  | [x] => (leBytes ((nibbles fmt + 1) / 2) (if x.poison then 0 else x.value)).map fun b => (b, x.poison)
  | x :: y :: t =>
    if fmt = 3 then
      let v (e : Elem) := if e.poison then 0 else e.value % 16
      (BitVec.ofNat 8 (v x + 16 * v y), x.poison || y.poison) :: packElems fmt t
    else (leBytes (nibbles fmt / 2) (if x.poison then 0 else x.value)).map (fun b => (b, x.poison)) ++ packElems fmt (y :: t)

def dmaOut (j : Nat) (s : State) : Half × State :=
  let d := dmaSlot s j
  let src := decodeDesc d.descriptor
  let r := readElements src (padCode s d.image src) (dmaPorts src s)
  let bs := packElems src.fmt r.1
  let s1 := sendRuns (d.word 1) bs r.2
  let s2 : State := { s1 with port.dmaBytesOut := s1.port.dmaBytesOut + BitVec.ofNat 64 bs.length }
  if bs.any (·.2) then (0x3002, portCode 0x3002 s2) else (0, s2)

/-- DMA_COMPLETE (R376). -/
def execDmaComplete (j : Fin 64) (s : State) : Out :=
  let d := dmaSlot s j
  if d.phase == .running && (d.toHost || (readsOf s j).all (·.ended.isSome)) then
    if dmaWaits s j then .next (deferCommand (.dmaComplete j) s)
    else
      let r := if d.toHost then dmaOut j s else dmaIn j s
      .next (dmaFree j r.1 (dmaRecord j r.1 r.2))
  else .next s

end Sys2Proof.Machine
end

