-- ==== Sys2Proof/Machine/RegisterRead.lean ====
section
/-! DEFINITION. What every register of BAR0 reads (R3, R88, R106, R107, R130, R131, R160, R193, R214, R229, R231, R246, R266, R293,
R295, R311, R335, R336, R361, R373, R374, R380, R410, R423, R439). A register is read by its 8-byte-aligned slot of its block:
a 64-bit register, or two 32-bit registers side by side. -/
namespace Sys2Proof.Machine

/-- Two 32-bit registers in one 8-byte slot, the lower offset first. -/
def pair (lo hi : Nat) : Nat := lo + hi * 2 ^ 32

/-- Busy bit and result field of an operation (R453). -/
def opStatus (f : OpField) : Nat := bitNat f.busy * 2 ^ 31 + f.result.toNat

/-- The numbers of a set as the bits of word `w` of 64. -/
def setWord (l : List Nat) (w : Nat) : Nat := sumNat ((l.filter fun c => c / 64 == w).map fun c => 2 ^ (c % 64))

/-- Items of `n` for which `p` holds, as bits. -/
def flagBits (n : Nat) (p : Nat → Bool) : Nat := sumNat ((List.range n).map fun i => bitNat (p i) * 2 ^ i)

/-! Hub global block. -/

def startWord (s : State) : Nat :=
  s.start.state % 16 * 2 ^ 28 + bitNat s.start.unconfigured * 2 ^ 27 + s.start.thermalClass % 4 * 2 ^ 25 + s.start.dcClock % 4 * 2 ^ 23 +
    bitNat s.start.alignDefault * 2 ^ 22 + s.start.startCode.toNat

/-- R106: MAP_STATUS. -/
def mapWord (s : State) : Nat :=
  s.spread.failedCount % 1024 * 2 ^ 16 + s.spread.firstFailed % 512 * 2 ^ 7 + bitNat s.spread.mapCopy * 8 +
    bitNat (s.lut.held.contains .map) * 4 + bitNat (s.spread.persistent != s.spread.applied) * 2 + bitNat s.spread.degraded

/-- R106: the translation of the address that TRANSLATE_ADDR holds. -/
def translateWord (s : State) : Nat :=
  match place s s.spread.translateAddr.toNat with
  | none => 0
  | some p => 2 ^ 63 + p.index * 2 ^ 50 + p.tile * 2 ^ 47 + p.channel * 2 ^ 41 + p.unit * 2 ^ 37 + p.bank * 2 ^ 32 + p.row * 2 ^ 17 +
      p.column * 2 ^ 11 + s.spread.translateAddr.toNat % 2048

def leastNat (d : Nat) : List Nat → Nat
  | [] => d
  | x :: t => min x (leastNat d t)

/-- R130: the least progress of any live channel in its patrol, in 1/65,536. -/
def patrolFraction (s : State) : Nat :=
  match (s.dram.channels.filter fun e => e.2.live).map fun e => e.2.droneAt * 65536 / granuleCount with
  | [] => 0
  | x :: t => leastNat x t

def hostReleases (s : State) : Nat := (s.order.releases.filter fun r => r.agent == .host).length

def phaseCode : LoadPhase → Nat
  | .idle => 0
  | .verify => 1
  | .check => 2
  | .transfer => 3
  | .content => 4
  | .commit => 5
  | .undo => 6

/-- R439: the status of image `i`. -/
def imageWord (s : State) (i : Nat) : Nat :=
  match tabFind? s.load.images i with
  | none => 0
  | some x => 2 ^ 63 + bitNat x.manifest.serves * 2 ^ 62 + x.manifest.tenant % 256 * 2 ^ 54 + x.version.toNat

def hubStartRegs (s : State) (o : Nat) : Nat :=
  match o with
  | 0x000 => pair 0x4B578640 0x00414C00
  | 0x100 => pair (startWord s) s.start.straps.toNat
  | 0x108 => pair s.start.configVersion.toNat s.start.startMs.toNat
  | 0x700 => s.load.addr.toNat
  | 0x708 => s.load.len.toNat
  | 0x710 => s.load.index.toNat
  | 0x718 => pair (opStatus s.load.op + phaseCode s.load.phase * 2 ^ 27) (s.load.cause.toNat * 2 ^ 16 + s.load.detail.toNat)
  | 0x720 => s.load.bytes.toNat
  | _ => if 0x780 ≤ o ∧ o < 0x7C0 then imageWord s ((o - 0x780) / 8) else 0

def spreadRegs (s : State) (o : Nat) : Nat :=
  match o with
  | 0x200 => s.spread.units
  | 0x208 => capacity s
  | 0x210 => pair (mapWord s) (bitNat s.spread.degradedEvent)
  | 0x2A0 => s.spread.translateAddr.toNat
  | 0x2A8 => translateWord s
  | 0x2C0 => s.spread.wavePeriod
  | 0x2C8 => s.spread.waves.toNat
  | _ =>
    if 0x220 ≤ o ∧ o < 0x260 then setWord s.spread.applied ((o - 0x220) / 8)
    else if 0x260 ≤ o ∧ o < 0x2A0 then setWord s.spread.persistent ((o - 0x260) / 8) else 0

def protectRegs (s : State) (o : Nat) : Nat :=
  match o with
  | 0x300 => s.protect.patrolsDone.toNat
  | 0x308 => s.protect.droneCorrected.toNat
  | 0x310 => s.protect.droneUncorrectable.toNat
  | 0x318 => patrolFraction s
  | 0x400 => pair (poisonCount s) s.protect.dropped.toNat
  | 0x408 => bitNat s.protect.event
  | 0x500 => s.protect.repairAddr.toNat
  | 0x508 => s.protect.repairData0.toNat
  | 0x510 => s.protect.repairData1.toNat
  | 0x518 => s.protect.repairData2.toNat
  | 0x520 => s.protect.repairData3.toNat
  | 0x528 => pair 0 (opStatus s.protect.repair)
  | 0x540 => bitNat (!s.protect.fills.isEmpty || s.tenancy.adapters.any fun e => e.2.state == .filling) * 2 + bitNat s.protect.startFillDone
  | 0x548 => s.protect.freeFills.toNat
  | 0x580 => s.protect.hubCorrected.toNat
  | 0x588 => s.protect.hubUncorrectable.toNat
  | _ => 0

def orderRegs (s : State) (o : Nat) : Nat :=
  match o with
  | 0x600 => bitNat s.order.imageOverride * 4 + bitNat s.order.strapCompat * 2 + bitNat s.order.orderMode
  | 0x608 => pair 0 (hostReleases s % 65536)
  | 0x610 => s.order.moduleReleases.toNat
  | 0x618 => s.order.systemReleases.toNat
  | 0x620 => s.order.acquiresFailed.toNat
  | 0x628 => s.order.compatInvalidations.toNat
  | _ => 0

def hubRegs (s : State) (o : Nat) : Nat :=
  if 0x8000 ≤ o ∧ o < 0x10000 then (tabGet 0 s.protect.table ((o - 0x8000) / 8)).toNat
  else if 0x200 ≤ o ∧ o < 0x300 then spreadRegs s o
  else if 0x300 ≤ o ∧ o < 0x600 then protectRegs s o
  else if 0x600 ≤ o ∧ o < 0x700 then orderRegs s o
  else hubStartRegs s o

/-! Serving-engine block. -/

def jobCode : JobState → Nat
  | .idle => 0
  | .waiting => 1
  | .running => 2
  | .saving => 3
  | .saved => 4
  | .restoring => 5
  | .done => 6
  | .failed => 7

/-- R336. -/
def jobRegs (s : State) (o : Nat) : Nat :=
  let v := job s (o / 16)
  if o % 16 = 0 then jobCode v.state * 2 ^ 61 + v.tenant % 256 * 2 ^ 53 + v.entry % 4096 * 2 ^ 41 + v.code.toNat
  else (jobUs s v).toNat

def adapterCode : AdapterState → Nat
  | .free => 0
  | .loading => 1
  | .current => 2
  | .retiring => 3
  | .filling => 4

/-- R335: adapter slot `a`. -/
def adapterWord (s : State) (a : Nat) : Nat :=
  let v := adapter s a
  adapterCode v.state * 2 ^ 61 + bitNat v.successor.isSome * 2 ^ 60 + v.successor.getD 0 % 1024 * 2 ^ 50 + v.tenant % 256 * 2 ^ 42 +
    v.version % 65536 * 2 ^ 26 + inFlight s a % 8192 * 2 ^ 13

/-- R335: the registers of tenant `t`. -/
def tenantRegs (s : State) (t o : Nat) : Nat :=
  let v := tenantOf s t
  match o with
  | 0x00 => pair (bitNat v.valid * 2 ^ 31 + bitNat v.lcAllowed * 2 ^ 30 + v.maxActive % 8192) v.cap.toNat
  | 0x08 => pair v.refill.toNat v.balance.toNat
  | 0x10 => v.charged.toNat
  | 0x18 => v.generated.toNat
  | 0x20 => v.promptComputed.toNat
  | 0x28 => pair v.rejectedDrafts.toNat (v.slowdown.toNat * 2 ^ 16 + activeOf s t % 8192)
  | 0x30 => pair v.soloUs.toNat v.measuredUs.toNat
  | 0x38 => pair v.windowsClosed.toNat (v.satWindows.toNat * 2 ^ 16 + v.nanWindows.toNat)
  | _ => 0

def tenancyRegs (s : State) (o : Nat) : Nat :=
  let x := s.tenancy
  match o with
  | 0x000 => s.us % 2 ^ 64
  | 0x008 => pair (x.tenantArg.toNat * 2 ^ 8) (opStatus x.tenantOp)
  | 0x010 => pair (bitNat (x.jobs.any fun e => holdsCores e.2.state) * 4 + bitNat s.serve.beStep.isSome * 2 + bitNat s.serve.lcStep.isSome)
      x.resumeHold.toNat
  | 0x100 => x.adapterSource.toNat
  | 0x108 => pair (bitNat x.predValid * 2 ^ 26 + x.predecessor.toNat * 2 ^ 16 + x.adapterArg.toNat) (x.adapterTenant.toNat * 2 ^ 8)
  | 0x110 => pair (opStatus x.adapterOp) x.adapterCause.toNat
  | 0x118 => x.nextVersion % 65536
  | 0x200 => x.jobArgs.toNat
  | 0x208 => x.jobTenant.toNat * 2 ^ 16 + x.jobEntry.toNat * 2 ^ 4 + x.jobSlot.toNat
  | 0x210 => opStatus x.jobOp
  | 0x218 => x.preemptions.toNat
  | 0x220 => x.lastSwitch.toNat * 2 ^ 16 + x.maxSwitch.toNat
  | _ => if 0x300 ≤ o ∧ o < 0x380 then jobRegs s (o - 0x300) else 0

/-- R293. -/
def kvRegs (s : State) (o : Nat) : Nat :=
  let k := s.kv
  match o with
  | 0xC000 => pair ((cacheDecl s).map (·.blocks) |>.getD 0) (freeBlocks s)
  | 0xC008 => pair ((k.blocks.filter fun e => e.2.refs == 0 && e.2.tree).length) k.lowBlocks.toNat
  | 0xC010 => pair 0 (k.seqId.toNat * 2 ^ 16 + k.seqTenant.toNat)
  | 0xC018 => pair (opStatus k.op) k.swapCause.toNat
  | 0xC020 => (k.entry.getD 0 0).toNat
  | 0xC028 => (k.entry.getD 1 0).toNat
  | 0xC030 => (k.entry.getD 2 0).toNat
  | 0xC038 => (k.entry.getD 3 0).toNat
  | 0xC040 => bitNat s.events.kv
  | 0xC048 => k.lookups.toNat
  | 0xC050 => k.hits.toNat
  | 0xC058 => k.dropped.toNat
  | 0xC060 => k.copies.toNat
  | 0xC068 => k.swapOuts.toNat
  | 0xC070 => k.swapIns.toNat
  | 0xC078 => pair ((k.seqs.filter fun e => e.2.state != .free).length) ((k.seqs.filter fun e => e.2.state == .swapped).length)
  | _ => 0

def reqCode : ReqState → Nat
  | .free => 0
  | .admitting => 1
  | .ready => 2
  | .stepping => 3
  | .closing => 4

/-- R311: SLOT_STATUS of slot `i`. -/
def slotStatus (s : State) (i : Nat) : Nat :=
  let r := request s i
  r.code.toNat * 2 ^ 48 + r.gen.toNat * 2 ^ 32 + reqCode r.state * 2 ^ 29 + bitNat r.cancelled * 2 ^ 28 + endCode r.why * 2 ^ 25 +
    r.tokensOut % 2 ^ 21

def requestRegs (s : State) (o : Nat) : Nat :=
  match o with
  | 0xD000 => pair (bitNat s.serve.refused * 2 + bitNat s.serve.closed) s.serve.refusalVector
  | 0xD008 => (s.serve.requests.filter fun e => e.2.state != .free).length
  | 0xD010 => s.serve.requestsClosed.toNat
  | 0xD018 => s.serve.stepsFailed.toNat
  | 0xD020 => s.serve.draftsProposed.toNat
  | 0xD028 => s.serve.draftsAccepted.toNat
  | 0xD030 => s.serve.armsIgnored.toNat
  | 0xD038 => s.serve.samples.toNat
  | _ => if 0xE000 ≤ o ∧ o < 0x16000 then slotStatus s ((o - 0xE000) / 8) else 0

def servingRegs (s : State) (o : Nat) : Nat :=
  if o < 0x1000 then tenancyRegs s o
  else if o < 0x5000 then tenantRegs s ((o - 0x1000) / 64) (o % 64)
  else if o < 0x7000 then adapterWord s ((o - 0x5000) / 8)
  else if o < 0xD000 then kvRegs s o
  else requestRegs s o

/-! Descriptor and allocation block (R246). -/

def tableRegs (s : State) (o : Nat) : Nat :=
  let x := s.tables
  match o with
  | 0x040 => x.descIndex.toNat
  | 0x048 => pair (opStatus x.desc) x.descs.length
  | 0x100 => x.allocBase.toNat
  | 0x108 => x.allocSize.toNat
  | 0x110 => bitNat x.allocSpace * 2 ^ 31 + bitNat x.allocSealed * 2 ^ 8 + x.allocTenant.toNat
  | 0x118 => x.allocId.toNat
  | 0x120 => pair (opStatus x.alloc) ((x.allocs.filter fun e => e.2.valid).length)
  | _ =>
    if o < 0x40 then (x.stage.getD (o / 8) 0).toNat
    else if 0x140 ≤ o ∧ o < 0x160 then (x.entry.getD ((o - 0x140) / 8) 0).toNat else 0

/-! Tile blocks. -/

/-- R214: the tile's registers and those of core `c`. -/
def coreRegs (s : State) (t o : Nat) : Nat :=
  let x := coreTile s t
  let k (c : Nat) := core s (16 * t + c)
  match o with
  | 0x00 => pair (flagBits 16 (fun c => (k c).fenced) * 2 ^ 16 + flagBits 16 (fun c => (k c).busy)) (bitNat (s.events.core.contains t))
  | 0x08 => x.waitLimit.toNat
  | 0x10 => x.hits.toNat
  | 0x18 => x.misses.toNat
  | 0x20 => x.invalidations.toNat
  | 0x28 => x.refetch.toNat
  | _ =>
    if 0x1000 ≤ o ∧ o < 0x1400 then
      let c := k ((o - 0x1000) / 64)
      match o % 64 with
      | 0x00 => pair (c.lastPc % 4096 * 2 ^ 16 + bitNat c.fenced * 8 + bitNat c.error * 4 + bitNat c.busy * 2 + bitNat c.loaded) c.code.toNat
      | 0x08 => c.arrayCycles.toNat
      | 0x10 => c.throttleCycles.toNat
      | 0x18 => c.pushedSectors.toNat
      | 0x20 => c.moves.toNat
      | _ => 0
    else 0


/-- R88, R107: the channel's registers. -/
def channelRegs (s : State) (t c o : Nat) : Nat :=
  let h := chan s (64 * t + c)
  match o with
  | 0x00 => h.sparesUsed % 256 * 2 ^ 16 + h.debtMax % 16 * 2 ^ 8 + bitNat (doubled s (64 * t + c)) * 4 + bitNat h.mappedOut * 2 + bitNat h.live
  | 0x08 => h.refreshes.toNat
  | 0x10 => h.boundaryRefreshes.toNat
  | 0x18 => h.postponed.toNat
  | 0x20 => h.readBeats.toNat
  | 0x28 => h.writeBeats.toNat
  | 0x30 => h.slices.toNat
  | 0x38 => h.forcedSlices.toNat
  | _ => 0

/-- R88: channels live after the channel map is applied. -/
def liveChannels (s : State) (t : Nat) : Nat :=
  if s.start.state < 6 then 0 else 64 - (s.spread.applied.filter fun c => c / 64 == t).length

def stackRegs (s : State) (t o : Nat) : Nat :=
  if o = 0x80000 then
    pair (liveChannels s t * 2 ^ 8 + bitNat (decide (5 ≤ s.start.state)))
      (bitNat ((List.range 64).any fun c => doubled s (64 * t + c)) * 2 + bitNat (s.dram.forceDouble.contains t))
  else if 0x81000 ≤ o ∧ o < 0x82000 then channelRegs s t ((o - 0x81000) / 64) (o % 64)
  else 0

/-- R131. -/
def eccRegs (s : State) (t o : Nat) : Nat :=
  if o < 0x91000 then
    let h := chan s (64 * t + (o - 0x90000) / 64)
    match o % 64 with
    | 0x00 => h.innerCorrected.toNat
    | 0x08 => h.outerCorrected.toNat
    | 0x10 => h.outerRetried.toNat
    | 0x18 => h.uncorrectable.toNat
    | 0x20 => h.poisonDelivered.toNat
    | _ => 0
  else if o = 0x92000 then (tabGet 0 s.scratch.corrected t).toNat
  else if o = 0x92008 then (tabGet 0 s.scratch.uncorrectable t).toNat
  else 0

/-- R160: the registers of a channel's units. -/
def nearChannelRegs (v : NearChannel) (o : Nat) : Nat :=
  match o with
  | 0x00 => v.phrases.toNat
  | 0x08 => v.phraseCycles.toNat
  | 0x10 => pair v.relayed.toNat (sumNat (v.chainFaulted.map fun n => 2 ^ n) % 2 ^ 15)
  | 0x18 => v.outputSectors.toNat
  | _ => 0

def dieRegs (v : DieBus) (o : Nat) : Nat := if o = 0 then v.messages.toNat else pair v.corrected.toNat v.uncorrectable.toNat

def nearRegs (s : State) (t o : Nat) : Nat :=
  let die (d : Nat) := tabGet ({} : DieBus) s.near.dies (16 * t + d)
  if o = 0xA0000 then pair (flagBits 16 (fun d => (die d).faulted) * 2 ^ 16) (bitNat (s.events.unit.contains t))
  else if o = 0xA0008 then issueFraction s t
  else if 0xA1000 ≤ o ∧ o < 0xA1800 then
    nearChannelRegs (tabGet {} s.near.channels (64 * t + (o - 0xA1000) / 32)) (o % 32)
  else if 0xA1800 ≤ o ∧ o < 0xA1900 then dieRegs (die ((o - 0xA1800) / 16)) (o % 16)
  else if 0xA4000 ≤ o ∧ o < 0xA6000 then (tabGet ({} : Unit) s.near.units (1024 * t + (o - 0xA4000) / 8)).unitStatus.toNat
  else 0

/-- R193. -/
def ownerRegs (s : State) (t o : Nat) : Nat :=
  let v := tabGet ({} : Owner) s.near.owners t
  match o with
  | 0xD0000 => v.gathered.toNat
  | 0xD0008 => v.discarded.toNat
  | 0xD0010 => v.forwarded.toNat
  | 0xD0018 => pair v.probes.toNat v.probeHits.toNat
  | 0xD0020 => pair v.merges.toNat v.routes.toNat
  | 0xD0028 => v.decoded.toNat
  | _ =>
    if 0xB0000 ≤ o ∧ o < 0xD0000 then (destRead (tabGet [] v.dest ((o - 0xB0000) / 32)) (o % 32 / 8)).toNat else 0

/-- R229. -/
def scratchRegs (s : State) (t o : Nat) : Nat :=
  if o = 0xE0000 then bitNat (s.events.scratch.contains t)
  else if 0xE1000 ≤ o ∧ o < 0xE1280 then
    let p := bankPort s t ((o - 0xE1000) / 32)
    match o % 32 with
    | 0x00 => p.grants.toNat
    | 0x08 => p.waitCycles.toNat
    | 0x10 => p.conflicts.toNat
    | _ => p.aliasWrites.toNat
  else 0

def tileRegs (s : State) (t o : Nat) : Nat :=
  if o < 0x80000 then coreRegs s t o
  else if o < 0x90000 then stackRegs s t o
  else if o < 0xA0000 then eccRegs s t o
  else if o < 0xB0000 then nearRegs s t o
  else if o < 0xE0000 then ownerRegs s t o
  else scratchRegs s t o

/-! Fabric block (R361). -/

def linkCode : LinkState → Nat
  | .down => 0
  | .sweep => 1
  | .lock => 2
  | .align => 3
  | .hello => 4
  | .up => 5
  | .quarantined => 6

def socketCode : Socket → Nat
  | .empty => 0
  | .lasing => 1
  | .dark => 2

def linkRegs (s : State) (l o : Nat) : Nat :=
  let k := link s l
  match o with
  | 0x00 => k.quarantines.toNat * 2 ^ 8 + linkCode k.state
  | 0x08 => k.flitsTx.toNat
  | 0x10 => k.flitsRx.toNat
  | 0x18 => k.fecCorrected.toNat
  | 0x20 => k.fecUncorrectable.toNat
  | 0x28 => k.retries.toNat
  | 0x30 => k.violations.toNat
  | 0x38 => pair k.naksSent.toNat k.naksSuppressed.toNat
  | 0x40 => k.naksReceived.toNat
  | 0x48 => k.txHeater.toNat
  | 0x50 => k.rxHeater.toNat
  | _ => 0

def fabricRegs (s : State) (o : Nat) : Nat :=
  let f := s.fabric
  match o with
  | 0x00 => pair ((f.links.filter fun e => e.2.state == .up).length * 2 ^ 16 + f.node.toNat)
      (bitNat f.fenceFailed * 32 + bitNat s.events.fabric * 16 + socketCode f.socketB * 4 + socketCode f.socketA)
  | 0x08 => pair f.fenceLimit.toNat f.collLimit.toNat
  | 0x10 => pair f.violationLimit.toNat f.quarantineHold.toNat
  | 0x20 => f.rreadAddr.toNat
  | 0x28 => f.rreadNode.toNat * 2 ^ 16 + bitNat f.rreadSpace * 8 + f.rreadSectors.toNat
  | 0x30 => opStatus f.rread + f.rreadPoison.toNat * 2 ^ 16
  | _ =>
    if 0x40 ≤ o ∧ o < 0x120 then (tabGet 0 f.rreadData ((o - 0x40) / 8)).toNat
    else if 0x1000 ≤ o ∧ o < 0x2200 then linkRegs s ((o - 0x1000) / 128) (o % 128)
    else if 0x80000 ≤ o ∧ o < 0x100000 then (tabGet 0 f.routes ((o - 0x80000) / 8)).toNat
    else 0

/-! Host-port block (R373, R374, R380). -/

def dmaCode : DmaPhase → Nat
  | .free => 0
  | .queued => 1
  | .running => 2

def dmaStatus (s : State) (j : Nat) : Nat :=
  let d := dmaSlot s j
  d.code.toNat * 2 ^ 48 + d.gen.toNat * 2 ^ 32 + dmaCode d.phase * 2 ^ 30

/-- The MSI-X table in the layout of the PCI Express specification. -/
def msixRegs (s : State) (o : Nat) : Nat :=
  let e := msixEntry s (o / 16)
  if o % 16 = 0 then e.addr.toNat else pair e.data.toNat (bitNat e.masked)

/-- R9, R374: word `k` of a DMA slot as it reads: its reserved bits are zero. -/
def dmaSlotRead (d : DmaSlot) (k : Nat) : Quad :=
  d.words.getD k 0 &&&
    (if k = 0 then 0xFFFFFF0000000000 else if k = 5 ∨ k = 6 then 0 else if k = 7 then 0xFFFF000000000001 else BitVec.allOnes 64)

def portRegs (s : State) (o : Nat) : Nat :=
  let p := s.port
  match o with
  | 0x00 => pair (p.linkWidth % 32 * 2 ^ 6 + p.linkSpeed % 8 * 2 ^ 3 + bitNat p.flitMode * 4 + bitNat (p.busMasterEnable && !p.d3hot) * 2 +
      bitNat p.ready) (bitNat p.event)
  | 0x08 => bitNat p.eventIrqEnable * 2 ^ 8 + p.eventVector % 64
  | 0x10 => p.bar2Base.toNat
  | 0x18 => p.malformed.toNat
  | 0x20 => p.poisonedIn.toNat
  | 0x28 => p.readFailures.toNat
  | 0x40 => p.swapBase.toNat
  | 0x48 => p.swapSize.toNat
  | 0x50 => pair (slotCount s) s.kv.slots.length
  | 0x60 => p.dmaBytesIn.toNat
  | 0x68 => p.dmaBytesOut.toNat
  | 0x70 => p.dmaArmsIgnored.toNat
  | _ =>
    if 0x400 ≤ o ∧ o < 0x600 then dmaStatus s ((o - 0x400) / 8)
    else if 0x1000 ≤ o ∧ o < 0x2000 then (dmaSlotRead (dmaSlot s ((o - 0x1000) / 64)) (o % 64 / 8)).toNat
    else if 0x8000 ≤ o ∧ o < 0x8400 then msixRegs s (o - 0x8000)
    else if o = 0x9000 then setWord p.pending 0
    else 0

/-! Luthier block (R410) and the event recorder (R423). -/

def readingReg (s : State) (k : Nat) : Nat :=
  let r := reading s k
  bitNat r.broken * 2 ^ 31 + bitNat r.valid * 2 ^ 30 + r.raw.toNat

def luthierRegs (s : State) (o : Nat) : Nat :=
  let x := s.lut
  match o with
  | 0x00 => x.mboxCmd.toNat
  | 0x08 => opStatus x.mbox + bitNat (!x.held.isEmpty) * 2 ^ 30
  | 0x10 => x.mboxArg0.toNat
  | 0x18 => x.mboxArg1.toNat
  | 0x20 => x.mboxArg2.toNat
  | 0x28 => x.mboxArg3.toNat
  | 0x40 => pair (bitNat (decide (x.powerFraction < 16)) * 4 + bitNat x.recordEvent * 2 + bitNat x.aggEvent) x.aggWindow.toNat
  | 0x48 => x.folded.toNat
  | 0x50 => x.rounds.toNat
  | 0x58 => x.opHours.toNat
  | 0x60 => pair x.powerCycles.toNat (x.powerLimit.toNat * 2 ^ 16 + x.modulePower.toNat)
  | 0x68 => x.testsRun.toNat
  | _ =>
    if 0x200 ≤ o ∧ o < 0x240 then thermalWord s ((o - 0x200) / 8)
    else if 0x800 ≤ o ∧ o < 0xC00 then setWord x.fencedUnits ((o - 0x800) / 8)
    else if 0x1000 ≤ o ∧ o < 0x2000 then leValue (memReadN x.data (o - 0x1000) 8)
    else if 0x4000 ≤ o ∧ o < 0x4400 then pair (readingReg s ((o - 0x4000) / 4)) (readingReg s ((o - 0x4000) / 4 + 1))
    else 0

def recorderRegs (s : State) (o : Nat) : Nat :=
  match o with
  | 0x40 => pair s.log.cursor.toNat (windowStatus s).toNat
  | 0x48 => pair (oldestSeq s).toNat (newestSeq s).toNat
  | 0x50 => pair (bitNat s.log.flushHeld * 2 ^ 13 + (unflushed s).length) s.nvm.log.length
  | 0x58 => s.log.dropped.toNat
  | 0x60 => s.log.overwritten.toNat
  | 0x68 => s.log.flushes.toNat
  | 0x70 => s.log.merges.toNat
  | _ => if o < 0x40 then (windowWord (o / 8) s).toNat else 0

/-- R15: what the 8-byte slot at BAR0 offset `o` reads; 0 at an offset that no chapter assigns (R13). -/
def regRead (s : State) (o : Nat) : Nat :=
  let i := o % 0x100000
  match o / 0x100000 with
  | 0x0 => hubRegs s i
  | 0x1 => servingRegs s i
  | 0x2 => (tabGet 0 s.serve.slotWords (i / 8)).toNat
  | 0x3 => tableRegs s i
  | 0xC => fabricRegs s i
  | 0xD => portRegs s i
  | 0xE => luthierRegs s i
  | 0xF => recorderRegs s i
  | n => tileRegs s (n - 4) i

/-! Which slots hold one 64-bit register (R12). -/

def within (o lo hi : Nat) : Bool := decide (lo ≤ o) && decide (o < hi)

def wideHub (i : Nat) : Bool :=
  [0x208, 0x2C8, 0x300, 0x308, 0x310, 0x548, 0x580, 0x588, 0x700, 0x708, 0x720].contains i || within i 0x220 0x2B0 ||
    within i 0x500 0x528 || within i 0x610 0x630 || within i 0x780 0x7C0 || within i 0x8000 0x10000

def wideServing (i : Nat) : Bool :=
  [0x000, 0x100, 0x200, 0x218].contains i || within i 0x300 0x380 || (within i 0x1000 0x5000 && within (i % 64) 0x10 0x28) ||
    within i 0x5000 0x7000 || within i 0xC020 0xC040 || within i 0xC048 0xC078 || within i 0xD010 0xD040 || within i 0xE000 0x16000

def wideTables (i : Nat) : Bool := within i 0 0x40 || i == 0x100 || i == 0x108 || within i 0x140 0x160

def wideTile (i : Nat) : Bool :=
  within i 0x10 0x30 || (within i 0x1000 0x1400 && within (i % 64) 0x08 0x28) || (within i 0x81000 0x82000 && i % 64 != 0) ||
    within i 0x90000 0x91000 || within i 0x92000 0x92010 || (within i 0xA1000 0xA1800 && i % 32 != 0x10) ||
    (within i 0xA1800 0xA1900 && i % 16 == 0) || within i 0xA4000 0xA6000 || within i 0xB0000 0xD0000 ||
    within i 0xD0000 0xD0018 || i == 0xD0028 || within i 0xE1000 0xE1280

def wideFabric (i : Nat) : Bool :=
  i == 0x20 || within i 0x40 0x120 ||
    (within i 0x1000 0x2200 && [0x08, 0x10, 0x18, 0x20, 0x28, 0x30, 0x48, 0x50].contains (i % 128)) || within i 0x80000 0x100000

def widePort (i : Nat) : Bool :=
  [0x10, 0x18, 0x20, 0x28, 0x40, 0x48, 0x60, 0x68, 0x70].contains i || within i 0x400 0x600 || within i 0x1000 0x2000

def wideLuthier (i : Nat) : Bool :=
  within i 0x10 0x30 || [0x48, 0x50, 0x58, 0x68].contains i || within i 0x200 0x240 || within i 0x800 0xC00

def wideRecorder (i : Nat) : Bool := [0x58, 0x60, 0x68, 0x70].contains i

def wide (o : Nat) : Bool :=
  let i := o % 0x100000
  match o / 0x100000 with
  | 0x0 => wideHub i
  | 0x1 => wideServing i
  | 0x2 => true
  | 0x3 => wideTables i
  | 0xC => wideFabric i
  | 0xD => widePort i
  | 0xE => wideLuthier i
  | 0xF => wideRecorder i
  | _ => wideTile i

/-! Reads (R10, R12, R419). -/

/-- R10: what a read of the 32-bit register at `o` clears: DEBT_MAX (R88) and a core's CODE (R214). -/
def readClears (o : Nat) (s : State) : State :=
  let i := o % 0x100000
  let t := o / 0x100000 - 4
  if o / 0x100000 < 4 ∨ 11 < o / 0x100000 then s
  else if within i 0x81000 0x82000 && i % 64 == 0 then onChan (64 * t + (i - 0x81000) / 64) (fun h => { h with debtMax := 0 }) s
  else if within i 0x1000 0x1400 && i % 64 == 4 then onCore (16 * t + (i - 0x1000) / 64) (fun c => { c with code := 0 }) s
  else s

/-- One 32-bit register, or half of a 64-bit one: the value and the state after the read. The latch of a 64-bit register is
kept until a later read of its lower word (DEDUCED). -/
def readWord (o : Nat) (s : State) : Nat × State :=
  let b := o / 8 * 8
  if o = 0xF00000 then
    let s1 := latchWindow s
    (regRead s1 b % 2 ^ 32, s1)
  else
    let v := regRead s b
    if !wide b then (if o % 8 = 0 then v % 2 ^ 32 else v / 2 ^ 32, readClears o s)
    else if o % 8 = 0 then
      (v % 2 ^ 32, { s with port.latched := tabPut s.port.latched b (BitVec.ofNat 32 (v / 2 ^ 32)) })
    else (((tabFind? s.port.latched b).map (·.toNat)).getD (v / 2 ^ 32), s)

/-- R12: a read of 4 or 8 bytes at an aligned offset. -/
def regAccess (o : Nat) (eight : Bool) (s : State) : Nat × State :=
  if !eight then readWord o s
  else if o = 0xF00000 then
    let s1 := latchWindow s
    (regRead s1 o, s1)
  else (regRead s o, readClears (o + 4) (readClears o s))

/-- R430: all that BAR0 shows while the start is stopped. -/
def stoppedRead (o : Nat) (s : State) : Nat :=
  if o = 0x100 then startWord { start := { state := s.start.state, startCode := s.start.startCode } } else 0

/-- REGISTER_READ (R12). -/
def registerRead (o : BitVec 24) (eight : Bool) (s : State) : State :=
  let n := if eight then 8 else 4
  if o.toNat % n ≠ 0 then bar0AccessError false s
  else if s.start.stopped then answer (.data (leBytes n (stoppedRead o.toNat s))) s
  else
    let r := regAccess o.toNat eight s
    answer (.data (leBytes n r.1)) r.2

end Sys2Proof.Machine
end

