-- ==== Sys2Proof/Machine/RegisterWrite.lean ====
section
/-! DEFINITION. Writes of the registers of BAR0: access types and writes in halves (R9, R10, R12), and the end of a module
operation (R453). -/
namespace Sys2Proof.Machine

/-! One 32-bit register: `v` is the word written; a reserved bit is ignored (R9), a W1C bit written 0 is unaffected (R10). -/

def cleanHub : HubSram := { corrected := 0, bad := false }

/-- A W1C bit after a write. -/
def w1c (old : Bool) (v i : Nat) : Bool := old && !bit v i

/-- A tile's W1C bit after a write of its bit 0. -/
def w1cTile (l : List Nat) (t v : Nat) : List Nat := if bit v 0 then setErase l t else l

/-- HOST_RELEASE (R260): 01 MODULE, 10 SYSTEM, the others no effect. -/
def hostRelease (v : Nat) (s : State) : State :=
  if v % 4 = 1 then beginRelease .host .module s
  else if v % 4 = 2 then beginRelease .host .system s else s

/-- LOAD_OP (R439, R453); a load is busy from here on, and the LOAD command brings the object that it reads. -/
def loadOp (v : Nat) (s : State) : State :=
  if v % 4 = 2 then unloadImage s
  else if v % 4 ≠ 1 then s
  else if s.load.op.busy then { s with load.op := s.load.op.refuse 0x1011 }
  else { s with load.op := s.load.op.await (loadArgs s), load.phase := .verify, load.bytes := 0 }

def writeHub (i v : Nat) (s : State) : State :=
  match i with
  | 0x214 => { s with spread.degradedEvent := w1c s.spread.degradedEvent v 0 }
  | 0x408 => { s with protect.event := w1c s.protect.event v 0 }
  | 0x528 => if bit v 0 then repairGo s else s
  | 0x608 => hostRelease v s
  | 0x710 => { s with load.index := BitVec.ofNat 3 v }
  | 0x714 => loadOp v s
  | _ => s

/-- TENANT_ARG and TENANT_OP share a register: the operation takes the argument written with it. -/
def tenantOp (h : HubSram) (v : Nat) (s0 : State) : State :=
  let s : State := { s0 with tenancy.tenantArg := BitVec.ofNat 8 (v / 2 ^ 8) }
  if v % 4 = 1 then tenantEnable h s else if v % 4 = 2 then tenantDisable h s else s

/-- ADAPTER_TENANT and ADAPTER_OP share a register. -/
def setAdapterTenant (t : Byte) (s : State) : State := { s with tenancy.adapterTenant := t }

/-- ADAPTER_OP (R335, R453); a LOAD is busy from here on, and the ADAPTER_LOAD command brings the image that it reads. -/
def adapterOp (v : Nat) (s0 : State) : State :=
  let s := setAdapterTenant (BitVec.ofNat 8 (v / 2 ^ 8)) s0
  match v % 8 with
  | 1 =>
    if s.tenancy.adapterOp.busy then refuseAdapter s
    else { s with tenancy.adapterOp := s.tenancy.adapterOp.await (adapterArgs s) }
  | 2 => adapterInstall s
  | 3 => adapterRetire s
  | _ => s

def jobOp (v : Nat) (s : State) : State := if v % 4 = 1 then jobStart s else if v % 4 = 2 then jobStop s else s

def seqOp (h : HubSram) (v : Nat) (s : State) : State :=
  match v % 8 with
  | 1 => seqCreate h s
  | 2 => seqFork h s
  | 3 => seqRelease h s
  | 4 => seqQuery h s
  | _ => s

/-- R335: the writable fields of tenants 1 to 255. -/
def writeTenant (t o v : Nat) (s : State) : State :=
  if t = 0 then s
  else match o with
    | 0x00 => onTenant t (fun x => { x with lcAllowed := bit v 30, maxActive := v % 8192 }) s
    | 0x04 => onTenant t (fun x => { x with cap := BitVec.ofNat 32 v }) s
    | 0x08 => onTenant t (fun x => { x with refill := BitVec.ofNat 32 v }) s
    | _ => s

def writeServing (i v : Nat) (s : State) : State :=
  match i with
  | 0x0008 => tenantOp cleanHub v s
  | 0x0014 => { s with tenancy.resumeHold := BitVec.ofNat 32 v }
  | 0x0108 => { s with
      tenancy.predValid := bit v 26
      tenancy.predecessor := BitVec.ofNat 10 (v / 2 ^ 16)
      tenancy.adapterArg := BitVec.ofNat 10 v }
  | 0x010C => adapterOp v s
  | 0x0208 => { s with
      tenancy.jobTenant := BitVec.ofNat 8 (v / 2 ^ 16)
      tenancy.jobEntry := BitVec.ofNat 12 (v / 2 ^ 4)
      tenancy.jobSlot := BitVec.ofNat 3 v }
  | 0x020C => jobOp v s
  | 0xC00C => { s with kv.lowBlocks := BitVec.ofNat 32 v }
  | 0xC010 => seqOp cleanHub v s
  | 0xC014 => { s with kv.seqId := BitVec.ofNat 16 (v / 2 ^ 16), kv.seqTenant := BitVec.ofNat 8 v }
  | 0xC040 => { s with events.kv := w1c s.events.kv v 0 }
  | 0xD000 => { s with serve.refused := w1c s.serve.refused v 1, serve.closed := w1c s.serve.closed v 0 }
  | 0xD004 => { s with serve.refusalVector := v % 64 }
  | _ => if 0x1000 ≤ i ∧ i < 0x5000 then writeTenant ((i - 0x1000) / 64) (i % 64) v s else s

def descOp (v : Nat) (s : State) : State :=
  match v % 4 with
  | 1 => descCreate s
  | 2 => descDestroy s
  | 3 => descRead s
  | _ => s

def allocOp (v : Nat) (s : State) : State :=
  match v % 4 with
  | 1 => allocCreate s
  | 2 => allocFree s
  | 3 => allocQuery s
  | _ => s

def writeTables (i v : Nat) (s : State) : State :=
  match i with
  | 0x040 => { s with tables.descIndex := BitVec.ofNat 16 v }
  | 0x044 => descOp v s
  | 0x110 => { s with
      tables.allocSpace := bit v 31
      tables.allocSealed := bit v 8
      tables.allocTenant := BitVec.ofNat 8 v }
  | 0x118 => { s with tables.allocId := BitVec.ofNat 20 v }
  | 0x11C => allocOp v s
  | _ => s

def writeTile (t i v : Nat) (s : State) : State :=
  match i with
  | 0x00004 => { s with events.core := w1cTile s.events.core t v }
  | 0x00008 => onCoreTile t (fun x => { x with waitLimit := BitVec.ofNat 32 v }) s
  | 0x80004 => { s with
      dram.forceDouble := if bit v 0 then setInsert s.dram.forceDouble t else setErase s.dram.forceDouble t }
  | 0xA0004 => { s with events.unit := w1cTile s.events.unit t v }
  | 0xE0000 => { s with events.scratch := w1cTile s.events.scratch t v }
  | _ => s

def writeFabric (i v : Nat) (s : State) : State :=
  match i with
  | 0x04 => { s with fabric.fenceFailed := w1c s.fabric.fenceFailed v 5, events.fabric := w1c s.events.fabric v 4 }
  | 0x08 => { s with fabric.fenceLimit := BitVec.ofNat 32 v }
  | 0x0C => { s with fabric.collLimit := BitVec.ofNat 32 v }
  | 0x10 => { s with fabric.violationLimit := BitVec.ofNat 32 v }
  | 0x14 => { s with fabric.quarantineHold := BitVec.ofNat 32 v }
  | 0x28 => { s with
      fabric.rreadNode := BitVec.ofNat 16 (v / 2 ^ 16)
      fabric.rreadSpace := bit v 3
      fabric.rreadSectors := BitVec.ofNat 3 v }
  | 0x2C => if bit v 0 then rreadGo s else s
  | _ => if 0x1000 ≤ i ∧ i < 0x2200 ∧ i % 128 = 4 ∧ bit v 0 = true then linkRetry ((i - 0x1000) / 128) s else s

/-- R373: one 32-bit word of the MSI-X table; a vector that is unmasked sends what is pending. -/
def writeMsix (i v : Nat) (s : State) : State :=
  let n := i / 16
  let e := msixEntry s n
  let put (e : MsixEntry) (s : State) : State := { s with port.msix := tabPut s.port.msix n e }
  match i % 16 with
  | 0x0 => put { e with addr := e.addr.extractLsb' 32 32 ++ BitVec.ofNat 32 v } s
  | 0x4 => put { e with addr := BitVec.ofNat 32 v ++ e.addr.extractLsb' 0 32 } s
  | 0x8 => put { e with data := BitVec.ofNat 32 v } s
  | _ => if bit v 0 then put { e with masked := true } s else msixUnmask n s

def writePort (i v : Nat) (s : State) : State :=
  match i with
  | 0x04 => { s with port.event := w1c s.port.event v 0 }
  | 0x08 => { s with port.eventIrqEnable := bit v 8, port.eventVector := v % 64 }
  | _ => if 0x8000 ≤ i ∧ i < 0x8400 then writeMsix (i - 0x8000) v s else s

def writeLuthier (i v : Nat) (s : State) : State :=
  match i with
  | 0x00 => { s with lut.mboxCmd := BitVec.ofNat 8 v }
  | 0x04 => if bit v 0 then mailboxGo s else s
  | 0x40 => { s with lut.recordEvent := w1c s.lut.recordEvent v 1, lut.aggEvent := w1c s.lut.aggEvent v 0 }
  | 0x44 => { s with lut.aggWindow := BitVec.ofNat 32 v }
  | _ => if 0x1000 ≤ i ∧ i < 0x2000 then { s with lut.data := memWriteL s.lut.data (i - 0x1000) (leBytes 4 v) } else s

/-- A completed write of the 32-bit register at BAR0 offset `o`; discarded where no field is written (R10, R13). -/
def writeNarrow (o v : Nat) (s : State) : State :=
  let i := o % 0x100000
  match o / 0x100000 with
  | 0x0 => writeHub i v s
  | 0x1 => writeServing i v s
  | 0x2 => s
  | 0x3 => writeTables i v s
  | 0xC => writeFabric i v s
  | 0xD => writePort i v s
  | 0xE => writeLuthier i v s
  | 0xF => if i = 0x40 then { s with log.cursor := BitVec.ofNat 32 v } else s
  | n => writeTile (n - 4) i v s

/-! 64-bit registers. -/

def writeHubWide (i : Nat) (v : Quad) (s : State) : State :=
  match i with
  | 0x2A0 => { s with spread.translateAddr := v.extractLsb' 0 40 }
  | 0x500 => { s with protect.repairAddr := v.extractLsb' 0 40 &&& 0xFFFFFFFFE0 }
  | 0x508 => { s with protect.repairData0 := v }
  | 0x510 => { s with protect.repairData1 := v }
  | 0x518 => { s with protect.repairData2 := v }
  | 0x520 => { s with protect.repairData3 := v }
  | 0x700 => { s with load.addr := v }
  | 0x708 => { s with load.len := v }
  | _ => s

/-- R295: plain storage but for word 31. -/
def writeSlot (i : Nat) (v : Quad) (s : State) : State :=
  if i / 8 % 32 = 31 then armWord (i / 256) v cleanHub s
  else cleanEntry (.slot (i / 256)) { s with serve.slotWords := tabSet 0 s.serve.slotWords (i / 8) v }

def writeTablesWide (i : Nat) (v : Quad) (s : State) : State :=
  if i < 0x40 then { s with tables.stage := s.tables.stage.set (i / 8) v }
  else if i = 0x100 then { s with tables.allocBase := v.extractLsb' 0 40 }
  else if i = 0x108 then { s with tables.allocSize := v.extractLsb' 0 40 }
  else s

/-- R177, R193: entries 3,072 to 3,839 of the destination table. -/
def writeTileWide (t i : Nat) (v : Quad) (s : State) : State :=
  if 0xB0000 ≤ i ∧ i < 0xD0000 then
    let e := (i - 0xB0000) / 32
    if 3072 ≤ e ∧ e < 3840 then
      onOwner t (fun o => { o with dest := tabPut o.dest e ((tabGet [0, 0, 0, 0] o.dest e).set (i % 32 / 8) (destStored (i % 32 / 8) v)) }) s
    else s
  else s

def writePortWide (i : Nat) (v : Quad) (s : State) : State :=
  match i with
  | 0x10 => { s with port.bar2Base := v.extractLsb' 0 40 &&& 0xFFFFE00000 }
  | 0x40 => swapRegisterWrite false v s
  | 0x48 => swapRegisterWrite true v s
  | _ =>
    if 0x1000 ≤ i ∧ i < 0x2000 then
      let j := (i - 0x1000) / 64
      if i % 64 / 8 = 7 then dmaArm j v s
      else onDma j (fun d => { d with words := d.words.set (i % 64 / 8) v }) s
    else s

def writeLuthierWide (i : Nat) (v : Quad) (s : State) : State :=
  match i with
  | 0x10 => { s with lut.mboxArg0 := v }
  | 0x18 => { s with lut.mboxArg1 := v }
  | 0x20 => { s with lut.mboxArg2 := v }
  | 0x28 => { s with lut.mboxArg3 := v }
  | _ => s

/-- A completed write of the 64-bit register at `o`. -/
def writeWide (o : Nat) (v : Quad) (s : State) : State :=
  let i := o % 0x100000
  match o / 0x100000 with
  | 0x0 => writeHubWide i v s
  | 0x1 => if i = 0x100 then { s with tenancy.adapterSource := v } else if i = 0x200 then { s with tenancy.jobArgs := v.extractLsb' 0 40 } else s
  | 0x2 => writeSlot i v s
  | 0x3 => writeTablesWide i v s
  | 0xC => if i = 0x20 then { s with fabric.rreadAddr := v.extractLsb' 0 40 } else s
  | 0xD => writePortWide i v s
  | 0xE => writeLuthierWide i v s
  | 0xF => s
  | n => writeTileWide (n - 4) i v s

/-! Accesses (R12). -/

/-- A write of 4 bytes: the lower half of a 64-bit register is held, the upper half completes the write. -/
def writeWord (o v : Nat) (s : State) : State :=
  let b := o / 8 * 8
  if !wide b then writeNarrow o v s
  else if o % 8 = 0 then { s with port.held := tabPut s.port.held b (BitVec.ofNat 32 v) }
  else
    let lower : Word := (tabFind? s.port.held b).getD (BitVec.ofNat 32 (regRead s b))
    writeWide b (BitVec.ofNat 32 v ++ lower) { s with port.held := tabDel s.port.held b }

/-- A write of 4 or 8 bytes at an aligned offset. -/
def writeAccess (o : Nat) (v : Quad) (eight : Bool) (s : State) : State :=
  if !eight then writeWord o (v.toNat % 2 ^ 32) s
  else if wide o then writeWide o v s
  else writeNarrow (o + 4) (v.toNat / 2 ^ 32) (writeNarrow o (v.toNat % 2 ^ 32) s)

/-- R430: the mailbox is all that takes a write while the start is stopped. -/
def isMailbox (o : Nat) : Bool := within o 0xE00000 0xE00030 || within o 0xE01000 0xE02000

/-- REGISTER_WRITE (R10, R12); a write that carries EP is discarded (R370). -/
def registerWrite (o : BitVec 24) (v : Quad) (eight ep : Bool) (s : State) : State :=
  if o.toNat % (if eight then 8 else 4) ≠ 0 then bar0AccessError true s
  else if ep then answer .done (notePoisoned true s)
  else if s.start.stopped && !isMailbox o.toNat then answer .done s
  else answer .done (writeAccess o.toNat v eight s)

/-! The end of a module operation (R453). -/

/-- ALLOC_OP ends: a creation writes the new identifier (R246). -/
def endAlloc (s : State) : State :=
  let s1 : State := { s with tables.alloc := s.tables.alloc.finish }
  match s.tables.newAllocId with
  | some n => if s.tables.alloc.busy then { s1 with tables.allocId := n, tables.newAllocId := none } else s1
  | none => s1

/-- A mailbox command ends, unless it still waits; an update taken by the boot ROM restarts the module (R430). -/
def endMailbox (s : State) : State :=
  if mboxWaits s || s.lut.mbox.taken.isSome then s
  else
    let s1 : State := { s with lut.mbox := s.lut.mbox.finish }
    if s.start.stopped && s.lut.mbox.busy && s.lut.mbox.outcome == 0 then
      { volatileLost s1 with start.state := 1, start.perstLow := s1.start.perstLow }
    else s1

/-- OPERATION_END (R453): outcome to the result field, busy bit to 0. -/
def execOperationEnd (op : OpId) (s : State) : Out :=
  match op with
  | .repair => .next { s with protect.repair := s.protect.repair.finish }
  | .desc => .next { s with tables.desc := s.tables.desc.finish }
  | .alloc => .next (endAlloc s)
  | .seq => .next { s with kv.op := s.kv.op.finish }
  | .tenant => .next { s with tenancy.tenantOp := s.tenancy.tenantOp.finish }
  | .adapter => .next (endAdapterOp s)
  | .job => .next { s with tenancy.jobOp := s.tenancy.jobOp.finish }
  | .rread => .next (if s.fabric.rreadTag.isSome then s else { s with fabric.rread := s.fabric.rread.finish })
  | .mbox => .next (endMailbox s)
  | .load => .next (if s.load.object.isSome || s.load.op.taken.isSome then s else { s with load.op := s.load.op.finish, load.phase := .idle })

end Sys2Proof.Machine
end

