-- ==== Sys2Proof/Machine/HostAccess.lean ====
section
/-! DEFINITION. The host's accesses as the port takes them: not before step 10, not in D3hot, and behind a pending HOST_RELEASE
(R260, R365, R366, R430). -/
namespace Sys2Proof.Machine

/-- What each row of a host access does once the port performs it. -/
def hostEffect (c : Instr) (s : State) : State :=
  match c with
  | .registerWrite o v eight ep => registerWrite o v eight ep s
  | .bar0AccessError write => bar0AccessError write s
  | .bar2Read o n => bar2Read o.toNat n s
  | .bar2Write o d ep => bar2Write o.toNat d ep s
  | .bar4Read a n corrected wrong => bar4Read a.toNat n corrected wrong s
  | .bar4Write a d ep => bar4Write a.toNat d ep s
  | .msixUnmask v => msixUnmask v s
  | .dmaArm j w => dmaArm j w s
  | .swapRegisterWrite size v => swapRegisterWrite size v s
  | .repairGo => repairGo s
  | .descCreate => descCreate s
  | .descDestroy => descDestroy s
  | .descRead => descRead s
  | .allocCreate => allocCreate s
  | .allocFree => allocFree s
  | .allocQuery => allocQuery s
  | .hostReleaseModule => beginRelease .host .module s
  | .hostReleaseSystem => beginRelease .host .system s
  | .seqCreate h => seqCreate h s
  | .seqFork h => seqFork h s
  | .seqRelease h => seqRelease h s
  | .seqQuery h => seqQuery h s
  | .arm i w h => armWord i w h s
  | .cancel i w h => armWord i w h s
  | .tenantEnable t h => tenantEnable h { s with tenancy.tenantArg := t }
  | .tenantDisable t h => tenantDisable h { s with tenancy.tenantArg := t }
  | .jobStart => jobStart s
  | .jobStop => jobStop s
  | .adapterLoad t ended x => adapterLoad ended x (setAdapterTenant t s)
  | .adapterInstall t => adapterInstall (setAdapterTenant t s)
  | .adapterRetire t => adapterRetire (setAdapterTenant t s)
  | .linkRetry l => linkRetry l s
  | .rreadGo => rreadGo s
  | .windowLatch eight => windowLatch eight s
  | .getAttestation => getAttestation s
  | .getCerts => getCerts s
  | .fwUpdate ended x readBack => fwUpdate ended x readBack s
  | .configUpdate ended x readBack => configUpdate ended x readBack s
  | .svnCommit => svnCommit s
  | .logClear ended x => logClear ended x s
  | .testNow => testNow s
  | .load ended x => loadImage ended x s
  | .unload => unloadImage s
  | .registerRead o eight => registerRead o eight s
  | _ => s

/-- R365, R366, R430: the BARs answer: the start has passed step 10, or stopped at step 3, and the function is in D0. -/
def hostOpen (s : State) : Bool := (s.port.ready || s.start.stopped) && !s.port.d3hot

/-- R430: what the boot ROM takes while the start is stopped: BAR0, where the mailbox is. -/
def bootTakes (c : Instr) : Bool :=
  match c with
  | .registerRead _ _ => true
  | .registerWrite _ _ _ _ => true
  | .bar0AccessError _ => true
  | .getAttestation => true
  | .getCerts => true
  | .fwUpdate _ _ _ => true
  | .configUpdate _ _ _ => true
  | .svnCommit => true
  | .logClear _ _ => true
  | .testNow => true
  | _ => false

/-- A release of the host is pending (R260). -/
def hostPending (s : State) : Bool := s.order.releases.any fun r => r.agent == .host

/-- R260: the one access that a pending release does not hold: a 4-byte read of HOST_RELEASES_PENDING. -/
def exemptRead (c : Instr) : Bool :=
  match c with
  | .registerRead o eight => o == 0x60C && !eight
  | _ => false

/-- R29, R82, R84: the stacked memory that a host access reads or writes has to wait. -/
def accessWaits (c : Instr) (s : State) : Bool :=
  match c with
  | .bar2Read o n => rangeWaits s (s.port.bar2Base.toNat + o.toNat) n
  | .bar2Write o d _ => rangeWaits s (s.port.bar2Base.toNat + o.toNat) d.length
  | .repairGo => addressWaits s s.protect.repairAddr.toNat
  | .registerWrite o v _ _ => (o == 0x528 && v.getLsbD 0) && addressWaits s s.protect.repairAddr.toNat
  | _ => false

/-- An access of the host waits for stacked memory: the port takes its requests in arrival order (R368). -/
def hostBlocked (s : State) : Bool :=
  s.deferred.any fun c => match c with
    | .bar2Read _ _ => true
    | .bar2Write _ _ _ => true
    | .repairGo => true
    | .registerWrite _ _ _ _ => true
    | _ => false

/-- A host access: performed, held behind a pending release or an access that waits, in arrival order, or not decoded. -/
def hostAccess (c : Instr) (s : State) : Out :=
  if !hostOpen s then .next (answer .noDecode s)
  else if s.start.stopped && !bootTakes c then .next (answer .noDecode s)
  else if hostPending s && !exemptRead c then .next { s with heldHost := s.heldHost ++ [c] }
  else if accessWaits c s || hostBlocked s && !exemptRead c then .next (deferCommand c s)
  else .next (hostEffect c s)

/-- R260: held accesses performed in their order, until one of them is a release that is pending. -/
def drainList : List Instr → State → State
  | [], s => s
  | c :: t, s =>
    if hostPending s then { s with heldHost := c :: t }
    else drainList t (if accessWaits c s || hostBlocked s then deferCommand c s else hostEffect c s)

/-- What a release that ends lets through. -/
def drainHeld (s : State) : State :=
  if hostPending s then s else drainList s.heldHost { s with heldHost := [] }

/-- RELEASE_COMPLETE (R253, R264): the `i`-th pending release. -/
def execReleaseComplete (i : Nat) (s : State) : Out := .next (drainHeld (completeRelease i s))

/-- FENCE_TIMEOUT (R351): for the `i`-th pending release. -/
def execFenceTimeout (i : Nat) (s : State) : Out := .next (drainHeld (fenceTimeout i s))

/-- LINK_QUARANTINE (R358). -/
def execLinkQuarantine (l : Fin 36) (lockLost : Bool) (at_ : Nat) (s : State) : Out :=
  .next (drainHeld (linkQuarantine l lockLost at_ s))

/-- LASER_REMOVE (R339, R445). -/
def execLaserRemove (b : Fin 2) (failed : Bool) (s : State) : Out := .next (drainHeld (laserRemove b failed s))

/-- REGISTER_WRITE (R10). -/
def execRegisterWrite (o : BitVec 24) (v : Quad) (eight ep : Bool) (s : State) : Out :=
  hostAccess (.registerWrite o v eight ep) s

/-- BAR0_ACCESS_ERROR (R367). -/
def execBar0AccessError (write : Bool) (s : State) : Out := hostAccess (.bar0AccessError write) s

/-- BAR2_READ (R368). -/
def execBar2Read (o : BitVec 36) (n : Nat) (s : State) : Out := hostAccess (.bar2Read o n) s

/-- BAR2_WRITE (R368). -/
def execBar2Write (o : BitVec 36) (d : List (Option Byte)) (ep : Bool) (s : State) : Out := hostAccess (.bar2Write o d ep) s

/-- BAR4_READ (R226). -/
def execBar4Read (a : BitVec 32) (n : Nat) (corrected wrong : List Nat) (s : State) : Out :=
  hostAccess (.bar4Read a n corrected wrong) s

/-- BAR4_WRITE (R226). -/
def execBar4Write (a : BitVec 32) (d : List (Option Byte)) (ep : Bool) (s : State) : Out := hostAccess (.bar4Write a d ep) s

/-- MSIX_UNMASK (R373). -/
def execMsixUnmask (v : Fin 64) (s : State) : Out := hostAccess (.msixUnmask v) s

/-- DMA_ARM (R375). -/
def execDmaArm (j : Fin 64) (w : Quad) (s : State) : Out := hostAccess (.dmaArm j w) s

/-- SWAP_REGISTER_WRITE (R377). -/
def execSwapRegisterWrite (size : Bool) (v : Quad) (s : State) : Out := hostAccess (.swapRegisterWrite size v) s

/-- REPAIR_GO (R127). -/
def execRepairGo (s : State) : Out := hostAccess .repairGo s

/-- DESC_CREATE (R242). -/
def execDescCreate (s : State) : Out := hostAccess .descCreate s

/-- DESC_DESTROY (R242). -/
def execDescDestroy (s : State) : Out := hostAccess .descDestroy s

/-- DESC_READ (R242). -/
def execDescRead (s : State) : Out := hostAccess .descRead s

/-- ALLOC_CREATE (R232). -/
def execAllocCreate (s : State) : Out := hostAccess .allocCreate s

/-- ALLOC_FREE (R232). -/
def execAllocFree (s : State) : Out := hostAccess .allocFree s

/-- ALLOC_QUERY (R246). -/
def execAllocQuery (s : State) : Out := hostAccess .allocQuery s

/-- HOST_RELEASE_MODULE (R260). -/
def execHostReleaseModule (s : State) : Out := hostAccess .hostReleaseModule s

/-- HOST_RELEASE_SYSTEM (R260). -/
def execHostReleaseSystem (s : State) : Out := hostAccess .hostReleaseSystem s

/-- SEQ_CREATE (R277). -/
def execSeqCreate (h : HubSram) (s : State) : Out := hostAccess (.seqCreate h) s

/-- SEQ_FORK (R277). -/
def execSeqFork (h : HubSram) (s : State) : Out := hostAccess (.seqFork h) s

/-- SEQ_RELEASE (R276). -/
def execSeqRelease (h : HubSram) (s : State) : Out := hostAccess (.seqRelease h) s

/-- SEQ_QUERY (R277). -/
def execSeqQuery (h : HubSram) (s : State) : Out := hostAccess (.seqQuery h) s

/-- ARM (R296). -/
def execArm (i : Fin 4096) (w : Quad) (h : HubSram) (s : State) : Out := hostAccess (.arm i w h) s

/-- CANCEL (R306). -/
def execCancel (i : Fin 4096) (w : Quad) (h : HubSram) (s : State) : Out := hostAccess (.cancel i w h) s

/-- TENANT_ENABLE (R314). -/
def execTenantEnable (t : Byte) (h : HubSram) (s : State) : Out := hostAccess (.tenantEnable t h) s

/-- TENANT_DISABLE (R314). -/
def execTenantDisable (t : Byte) (h : HubSram) (s : State) : Out := hostAccess (.tenantDisable t h) s

/-- JOB_START (R324). -/
def execJobStart (s : State) : Out := hostAccess .jobStart s

/-- JOB_STOP (R324). -/
def execJobStop (s : State) : Out := hostAccess .jobStop s

/-- ADAPTER_LOAD (R333). -/
def execAdapterLoad (t : Byte) (ended : ReadEnd) (x : ImageObject) (s : State) : Out := hostAccess (.adapterLoad t ended x) s

/-- ADAPTER_INSTALL (R333). -/
def execAdapterInstall (t : Byte) (s : State) : Out := hostAccess (.adapterInstall t) s

/-- ADAPTER_RETIRE (R333). -/
def execAdapterRetire (t : Byte) (s : State) : Out := hostAccess (.adapterRetire t) s

/-- LINK_RETRY (R361). -/
def execLinkRetry (l : Fin 36) (s : State) : Out := hostAccess (.linkRetry l) s

/-- RREAD_GO (R361). -/
def execRreadGo (s : State) : Out := hostAccess .rreadGo s

/-- WINDOW_LATCH (R419). -/
def execWindowLatch (eight : Bool) (s : State) : Out := hostAccess (.windowLatch eight) s

/-- GET_ATTESTATION (R407). -/
def execGetAttestation (s : State) : Out := hostAccess .getAttestation s

/-- GET_CERTS (R407). -/
def execGetCerts (s : State) : Out := hostAccess .getCerts s

/-- FW_UPDATE (R405). -/
def execFwUpdate (ended : ReadEnd) (x : FirmwareObject) (readBack : Bool) (s : State) : Out :=
  hostAccess (.fwUpdate ended x readBack) s

/-- CONFIG_UPDATE (R405). -/
def execConfigUpdate (ended : ReadEnd) (x : ConfigObject) (readBack : Bool) (s : State) : Out :=
  hostAccess (.configUpdate ended x readBack) s

/-- SVN_COMMIT (R404). -/
def execSvnCommit (s : State) : Out := hostAccess .svnCommit s

/-- LOG_CLEAR (R422). -/
def execLogClear (ended : ReadEnd) (x : ClearObject) (s : State) : Out := hostAccess (.logClear ended x) s

/-- TEST_NOW (R408). -/
def execTestNow (s : State) : Out := hostAccess .testNow s

/-- LOAD (R435). -/
def execLoad (ended : ReadEnd) (x : ImageObject) (s : State) : Out := hostAccess (.load ended x) s

/-- UNLOAD (R438). -/
def execUnload (s : State) : Out := hostAccess .unload s

/-- REGISTER_READ (R12). -/
def execRegisterRead (o : BitVec 24) (eight : Bool) (s : State) : Out := hostAccess (.registerRead o eight) s

end Sys2Proof.Machine
end

