-- ==== Sys2Proof/Machine/Dispatch.lean ====
section
/-! DEFINITION. One arm for each command: a direct call of its meaning. -/
namespace Sys2Proof.Machine

def exec (i : Instr) (s : State) : Host.Outcome State Fault Refusal :=
  match i with
  | .registerWrite o v eight ep => Sys2Proof.Machine.execRegisterWrite o v eight ep s
  | .bar0AccessError write => Sys2Proof.Machine.execBar0AccessError write s
  | .bar2Read o n => Sys2Proof.Machine.execBar2Read o n s
  | .bar2Write o d ep => Sys2Proof.Machine.execBar2Write o d ep s
  | .bar4Read a n corrected wrong => Sys2Proof.Machine.execBar4Read a n corrected wrong s
  | .bar4Write a d ep => Sys2Proof.Machine.execBar4Write a d ep s
  | .arbGrant t b waited conflicts => Sys2Proof.Machine.execArbGrant t b waited conflicts s
  | .sramWriteback a => Sys2Proof.Machine.execSramWriteback a s
  | .configRequest o => Sys2Proof.Machine.execConfigRequest o s
  | .conventionalReset perst limit => Sys2Proof.Machine.execConventionalReset perst limit s
  | .linkDown => Sys2Proof.Machine.execLinkDown s
  | .malformedTlp completion => Sys2Proof.Machine.execMalformedTlp completion s
  | .unsupportedRequest => Sys2Proof.Machine.execUnsupportedRequest s
  | .completionArrive tag e bs => Sys2Proof.Machine.execCompletionArrive tag e bs s
  | .hostReadTimeout tag => Sys2Proof.Machine.execHostReadTimeout tag s
  | .msixUnmask v => Sys2Proof.Machine.execMsixUnmask v s
  | .dmaArm j w => Sys2Proof.Machine.execDmaArm j w s
  | .dmaStart => Sys2Proof.Machine.execDmaStart s
  | .dmaComplete j => Sys2Proof.Machine.execDmaComplete j s
  | .swapRegisterWrite size v => Sys2Proof.Machine.execSwapRegisterWrite size v s
  | .act c b row => Sys2Proof.Machine.execAct c b row s
  | .rd c b burst autoPrecharge inner arrayFlips wireFlips => Sys2Proof.Machine.execRd c b burst autoPrecharge inner arrayFlips wireFlips s
  | .wr c b burst mask autoPrecharge sectors => Sys2Proof.Machine.execWr c b burst mask autoPrecharge sectors s
  | .pre c b half => Sys2Proof.Machine.execPre c b half s
  | .ref c b => Sys2Proof.Machine.execRef c b s
  | .refreshDue c b odd => Sys2Proof.Machine.execRefreshDue c b odd s
  | .sectorReread index inner arrayFlips wireFlips => Sys2Proof.Machine.execSectorReread index inner arrayFlips wireFlips s
  | .repairGo => Sys2Proof.Machine.execRepairGo s
  | .droneRead c inner arrayFlips wireFlips => Sys2Proof.Machine.execDroneRead c inner arrayFlips wireFlips s
  | .patrolOverdue c => Sys2Proof.Machine.execPatrolOverdue c s
  | .freeFillDone => Sys2Proof.Machine.execFreeFillDone s
  | .waveStart => Sys2Proof.Machine.execWaveStart s
  | .sliceStart c enough => Sys2Proof.Machine.execSliceStart c enough s
  | .sliceEnd c unusable verified => Sys2Proof.Machine.execSliceEnd c unusable verified s
  | .enterTrain c inner => Sys2Proof.Machine.execEnterTrain c inner s
  | .patternWrite c wire seed => Sys2Proof.Machine.execPatternWrite c wire seed s
  | .patternRead c wire seed => Sys2Proof.Machine.execPatternRead c wire seed s
  | .setDelay c wire delay => Sys2Proof.Machine.execSetDelay c wire delay s
  | .spareMap c wire spare => Sys2Proof.Machine.execSpareMap c wire spare s
  | .exitTrain c => Sys2Proof.Machine.execExitTrain c s
  | .channelFail c cause => Sys2Proof.Machine.execChannelFail c cause s
  | .mapRegionErase => Sys2Proof.Machine.execMapRegionErase s
  | .startPhrase c all n addr p => Sys2Proof.Machine.execStartPhrase c all n addr p s
  | .argWrite c all n half skip lanes => Sys2Proof.Machine.execArgWrite c all n half skip lanes s
  | .bcast c all n mode slot dest p => Sys2Proof.Machine.execBcast c all n mode slot dest p s
  | .storeLoad c all n store burst src => Sys2Proof.Machine.execStoreLoad c all n store burst src s
  | .posWrite c all n lanes => Sys2Proof.Machine.execPosWrite c all n lanes s
  | .mailWrite c n slot => Sys2Proof.Machine.execMailWrite c n slot s
  | .obReadOutput c n count => Sys2Proof.Machine.execObReadOutput c n count s
  | .statusRead c n => Sys2Proof.Machine.execStatusRead c n s
  | .obReadSavedState c n burst => Sys2Proof.Machine.execObReadSavedState c n burst s
  | .obReadRelay c n => Sys2Proof.Machine.execObReadRelay c n s
  | .phraseCommit u => Sys2Proof.Machine.execPhraseCommit u s
  | .phraseHoldEnd u => Sys2Proof.Machine.execPhraseHoldEnd u s
  | .messageArrive index corrected badWords => Sys2Proof.Machine.execMessageArrive index corrected badWords s
  | .chainFallback index => Sys2Proof.Machine.execChainFallback index s
  | .dieBusGrantTimeout d => Sys2Proof.Machine.execDieBusGrantTimeout d s
  | .phrase u => Sys2Proof.Machine.execPhrase u s
  | .jump u => Sys2Proof.Machine.execJump u s
  | .ldl u corrected wrong => Sys2Proof.Machine.execLdl u corrected wrong s
  | .microLoop u => Sys2Proof.Machine.execMicroLoop u s
  | .microEnd u => Sys2Proof.Machine.execMicroEnd u s
  | .seti u => Sys2Proof.Machine.execSeti u s
  | .alu u => Sys2Proof.Machine.execAlu u s
  | .mvs u inner flips => Sys2Proof.Machine.execMvs u inner flips s
  | .score u inner flips => Sys2Proof.Machine.execScore u inner flips s
  | .value u inner flips => Sys2Proof.Machine.execValue u inner flips s
  | .pick u inner flips => Sys2Proof.Machine.execPick u inner flips s
  | .wstream u => Sys2Proof.Machine.execWstream u s
  | .addback u inner flips => Sys2Proof.Machine.execAddback u inner flips s
  | .sqsum u => Sys2Proof.Machine.execSqsum u s
  | .send u => Sys2Proof.Machine.execSend u s
  | .recv u => Sys2Proof.Machine.execRecv u s
  | .collectorSector kk tagPoisoned => Sys2Proof.Machine.execCollectorSector kk tagPoisoned s
  | .probeComplete kk e => Sys2Proof.Machine.execProbeComplete kk e s
  | .mergeComplete kk e => Sys2Proof.Machine.execMergeComplete kk e s
  | .collectorNarrow kk => Sys2Proof.Machine.execCollectorNarrow kk s
  | .ownerDeliver t d => Sys2Proof.Machine.execOwnerDeliver t d s
  | .scoreBurstSend kk g j layer p => Sys2Proof.Machine.execScoreBurstSend kk g j layer p s
  | .packetMerge index t total vector => Sys2Proof.Machine.execPacketMerge index t total vector s
  | .embeddingLookup entry tokens section_ base groups slot table reduction width => Sys2Proof.Machine.execEmbeddingLookup entry tokens section_ base groups slot table reduction width s
  | .expertSelect t k position vector first count => Sys2Proof.Machine.execExpertSelect t k position vector first count s
  | .coreStart g entry args reduction tenant => Sys2Proof.Machine.execCoreStart g entry args reduction tenant s
  | .move g bad => Sys2Proof.Machine.execMove g bad s
  | .moveComplete t => Sys2Proof.Machine.execMoveComplete t s
  | .waitc g bad => Sys2Proof.Machine.execWaitc g bad s
  | .salu g bad => Sys2Proof.Machine.execSalu g bad s
  | .br g bad => Sys2Proof.Machine.execBr g bad s
  | .coreEnd g bad => Sys2Proof.Machine.execCoreEnd g bad s
  | .wload g bad corrected wrong => Sys2Proof.Machine.execWload g bad corrected wrong s
  | .mma g bad => Sys2Proof.Machine.execMma g bad s
  | .push g bad => Sys2Proof.Machine.execPush g bad s
  | .storea g bad => Sys2Proof.Machine.execStorea g bad s
  | .clra g bad => Sys2Proof.Machine.execClra g bad s
  | .ldm g bad badLines => Sys2Proof.Machine.execLdm g bad badLines s
  | .vopAdd g bad => Sys2Proof.Machine.execVopAdd g bad s
  | .vopMul g bad => Sys2Proof.Machine.execVopMul g bad s
  | .vopFma g bad => Sys2Proof.Machine.execVopFma g bad s
  | .vopMax g bad => Sys2Proof.Machine.execVopMax g bad s
  | .xfer g bad corrected wrong => Sys2Proof.Machine.execXfer g bad corrected wrong s
  | .vopTable g bad => Sys2Proof.Machine.execVopTable g bad s
  | .vopExpsub g bad => Sys2Proof.Machine.execVopExpsub g bad s
  | .vopRowmax g bad => Sys2Proof.Machine.execVopRowmax g bad s
  | .vopRowsum g bad => Sys2Proof.Machine.execVopRowsum g bad s
  | .waitLimitExpiry g => Sys2Proof.Machine.execWaitLimitExpiry g s
  | .vopCausal g bad => Sys2Proof.Machine.execVopCausal g bad s
  | .vopRsqrt g bad => Sys2Proof.Machine.execVopRsqrt g bad s
  | .vopConvert g bad => Sys2Proof.Machine.execVopConvert g bad s
  | .stm g bad => Sys2Proof.Machine.execStm g bad s
  | .descCreate => Sys2Proof.Machine.execDescCreate s
  | .fenceRelease g bad => Sys2Proof.Machine.execFenceRelease g bad s
  | .fenceAcquire g bad => Sys2Proof.Machine.execFenceAcquire g bad s
  | .descDestroy => Sys2Proof.Machine.execDescDestroy s
  | .descRead => Sys2Proof.Machine.execDescRead s
  | .allocCreate => Sys2Proof.Machine.execAllocCreate s
  | .allocFree => Sys2Proof.Machine.execAllocFree s
  | .releaseComplete idx => Sys2Proof.Machine.execReleaseComplete idx s
  | .allocQuery => Sys2Proof.Machine.execAllocQuery s
  | .hostReleaseModule => Sys2Proof.Machine.execHostReleaseModule s
  | .hostReleaseSystem => Sys2Proof.Machine.execHostReleaseSystem s
  | .seqCreate h => Sys2Proof.Machine.execSeqCreate h s
  | .seqFork h => Sys2Proof.Machine.execSeqFork h s
  | .seqRelease h => Sys2Proof.Machine.execSeqRelease h s
  | .seqQuery h => Sys2Proof.Machine.execSeqQuery h s
  | .swapOut => Sys2Proof.Machine.execSwapOut s
  | .swapOutDone q => Sys2Proof.Machine.execSwapOutDone q s
  | .swapIn q x => Sys2Proof.Machine.execSwapIn q x s
  | .swapInDone q => Sys2Proof.Machine.execSwapInDone q s
  | .blockFillDone n => Sys2Proof.Machine.execBlockFillDone n s
  | .arm idx w h => Sys2Proof.Machine.execArm idx w h s
  | .cancel idx w h => Sys2Proof.Machine.execCancel idx w h s
  | .admissionDone idx h => Sys2Proof.Machine.execAdmissionDone idx h s
  | .stepSelect be h => Sys2Proof.Machine.execStepSelect be h s
  | .prefillChunkSelect count => Sys2Proof.Machine.execPrefillChunkSelect count s
  | .sample be p draft => Sys2Proof.Machine.execSample be p draft s
  | .stepComplete be badOutputs => Sys2Proof.Machine.execStepComplete be badOutputs s
  | .stepFail w code => Sys2Proof.Machine.execStepFail w code s
  | .deadline idx at_ => Sys2Proof.Machine.execDeadline idx at_ s
  | .closeRecordWritten idx => Sys2Proof.Machine.execCloseRecordWritten idx s
  | .tenantEnable t h => Sys2Proof.Machine.execTenantEnable t h s
  | .tenantDisable t h => Sys2Proof.Machine.execTenantDisable t h s
  | .refill => Sys2Proof.Machine.execRefill s
  | .slowdownWindowClose => Sys2Proof.Machine.execSlowdownWindowClose s
  | .jobStart => Sys2Proof.Machine.execJobStart s
  | .jobStop => Sys2Proof.Machine.execJobStop s
  | .jobRun j => Sys2Proof.Machine.execJobRun j s
  | .jobStepEnd j code => Sys2Proof.Machine.execJobStepEnd j code s
  | .jobPreempt j ticks => Sys2Proof.Machine.execJobPreempt j ticks s
  | .jobSaveDone j ticks => Sys2Proof.Machine.execJobSaveDone j ticks s
  | .jobRestore j at_ => Sys2Proof.Machine.execJobRestore j at_ s
  | .jobRestoreDone j => Sys2Proof.Machine.execJobRestoreDone j s
  | .adapterLoad t ended x => Sys2Proof.Machine.execAdapterLoad t ended x s
  | .adapterInstall t => Sys2Proof.Machine.execAdapterInstall t s
  | .adapterRetire t => Sys2Proof.Machine.execAdapterRetire t s
  | .adapterFillDone a => Sys2Proof.Machine.execAdapterFillDone a s
  | .fabricWrite l f at_ => Sys2Proof.Machine.execFabricWrite l f at_ s
  | .fabricRead l f at_ => Sys2Proof.Machine.execFabricRead l f at_ s
  | .readResponse l f at_ => Sys2Proof.Machine.execReadResponse l f at_ s
  | .atomicAdd l f at_ => Sys2Proof.Machine.execAtomicAdd l f at_ s
  | .retryReqRepeat l => Sys2Proof.Machine.execRetryReqRepeat l s
  | .fenceRequest l f at_ => Sys2Proof.Machine.execFenceRequest l f at_ s
  | .fenceAck l f at_ => Sys2Proof.Machine.execFenceAck l f at_ s
  | .collectiveSum l f at_ => Sys2Proof.Machine.execCollectiveSum l f at_ s
  | .collectiveMax l f at_ => Sys2Proof.Machine.execCollectiveMax l f at_ s
  | .replayTimeout l => Sys2Proof.Machine.execReplayTimeout l s
  | .collectiveResult l f at_ => Sys2Proof.Machine.execCollectiveResult l f at_ s
  | .hello l f at_ => Sys2Proof.Machine.execHello l f at_ s
  | .nak l f at_ => Sys2Proof.Machine.execNak l f at_ s
  | .tune l f at_ => Sys2Proof.Machine.execTune l f at_ s
  | .tunePeriod l corrected bad at_ => Sys2Proof.Machine.execTunePeriod l corrected bad at_ s
  | .drain l f at_ => Sys2Proof.Machine.execDrain l f at_ s
  | .idle l f at_ => Sys2Proof.Machine.execIdle l f at_ s
  | .linkQuarantine l lockLost at_ => Sys2Proof.Machine.execLinkQuarantine l lockLost at_ s
  | .quarantineHoldExpiry l => Sys2Proof.Machine.execQuarantineHoldExpiry l s
  | .sweepDone l tx rx => Sys2Proof.Machine.execSweepDone l tx rx s
  | .lockDone l => Sys2Proof.Machine.execLockDone l s
  | .alignDone l => Sys2Proof.Machine.execAlignDone l s
  | .bringupTimeout l => Sys2Proof.Machine.execBringupTimeout l s
  | .linkRetry l => Sys2Proof.Machine.execLinkRetry l s
  | .rreadGo => Sys2Proof.Machine.execRreadGo s
  | .fenceTimeout idx => Sys2Proof.Machine.execFenceTimeout idx s
  | .rreadTimeout => Sys2Proof.Machine.execRreadTimeout s
  | .collTimeout id => Sys2Proof.Machine.execCollTimeout id s
  | .laserRemove b failed => Sys2Proof.Machine.execLaserRemove b failed s
  | .laserInsert b => Sys2Proof.Machine.execLaserInsert b s
  | .sensorSample k value => Sys2Proof.Machine.execSensorSample k value s
  | .roundEnd => Sys2Proof.Machine.execRoundEnd s
  | .feedLost b limit => Sys2Proof.Machine.execFeedLost b limit s
  | .feedAccepted b svcEnHigh => Sys2Proof.Machine.execFeedAccepted b svcEnHigh s
  | .bothFeedsLost limit => Sys2Proof.Machine.execBothFeedsLost limit s
  | .entropyFail => Sys2Proof.Machine.execEntropyFail s
  | .opHoursWrite => Sys2Proof.Machine.execOpHoursWrite s
  | .testStart x => Sys2Proof.Machine.execTestStart x s
  | .testForce x => Sys2Proof.Machine.execTestForce x s
  | .testEnd x fails => Sys2Proof.Machine.execTestEnd x fails s
  | .unitUnresponsive u w => Sys2Proof.Machine.execUnitUnresponsive u w s
  | .coreUnresponsive g w => Sys2Proof.Machine.execCoreUnresponsive g w s
  | .report code subject reporter detail => Sys2Proof.Machine.execReport code subject reporter detail s
  | .aggWindowClose code subject => Sys2Proof.Machine.execAggWindowClose code subject s
  | .flush => Sys2Proof.Machine.execFlush s
  | .flushDone => Sys2Proof.Machine.execFlushDone s
  | .windowLatch eight => Sys2Proof.Machine.execWindowLatch eight s
  | .getAttestation => Sys2Proof.Machine.execGetAttestation s
  | .getCerts => Sys2Proof.Machine.execGetCerts s
  | .fwUpdate ended x readBack => Sys2Proof.Machine.execFwUpdate ended x readBack s
  | .configUpdate ended x readBack => Sys2Proof.Machine.execConfigUpdate ended x readBack s
  | .svnCommit => Sys2Proof.Machine.execSvnCommit s
  | .logClear ended x => Sys2Proof.Machine.execLogClear ended x s
  | .testNow => Sys2Proof.Machine.execTestNow s
  | .readReading k pecOk => Sys2Proof.Machine.execReadReading k pecOk s
  | .readThermal pecOk => Sys2Proof.Machine.execReadThermal pecOk s
  | .readReport p pecOk => Sys2Proof.Machine.execReadReport p pecOk s
  | .attest pecOk => Sys2Proof.Machine.execAttest pecOk s
  | .lowerLimit watts counter hmacOk pecOk => Sys2Proof.Machine.execLowerLimit watts counter hmacOk pecOk s
  | .halt counter hmacOk pecOk => Sys2Proof.Machine.execHalt counter hmacOk pecOk s
  | .resetRelease x => Sys2Proof.Machine.execResetRelease x s
  | .load ended x => Sys2Proof.Machine.execLoad ended x s
  | .loadCommit => Sys2Proof.Machine.execLoadCommit s
  | .unload => Sys2Proof.Machine.execUnload s
  | .registerRead o eight => Sys2Proof.Machine.execRegisterRead o eight s
  | .operationEnd op => Sys2Proof.Machine.execOperationEnd op s
  | .prefillChunkComplete => Sys2Proof.Machine.execPrefillChunkComplete s
  | .entropyTestsPass => Sys2Proof.Machine.execEntropyTestsPass s
  | .sourceOutputPower b => Sys2Proof.Machine.execSourceOutputPower b s
  | .linkTrained width speed flit => Sys2Proof.Machine.execLinkTrained width speed flit s
  | .droneGranuleOrder4 c => Sys2Proof.Machine.execDroneGranuleOrder4 c s

end Sys2Proof.Machine
end

