-- ==== Sys2Proof/Machine/Idle.lean ====
section
/-! DEFINITION. What a step does when no command waits: a microsecond passes. -/
namespace Sys2Proof.Machine

/-- An idle step: once the serving engine runs (step 5, R7), one microsecond passes; nothing else changes. -/
def idleStep (s : State) : State := if luthierRuns s && decide (5 ≤ s.start.state) then passTime 1 s else s

end Sys2Proof.Machine
end

