-- ==== Sys2Proof/WellFormed.lean ====
section
/-! DEFINITION. The operands that the rules allow, beyond what their types say. -/
namespace Sys2Proof

/-- A disturbed bit of a sector of 256 data and 64 check bits, of a burst or granule of `n` sectors (R112). -/
def BitFlip.wf (n : Nat) (f : BitFlip) : Bool := decide (f.sector < n) && decide (f.bit < 320)

def flipsWf (n : Nat) (l : List BitFlip) : Bool := l.all (BitFlip.wf n)

/-- R342: the fields of a flit's header, each with its width in bits. -/
def Flit.fields (f : Flit) : List (Nat × Nat) :=
  [f.type, f.op, f.hops, f.reserved0].map (·, 4) ++ [f.seq, f.ack].map (·, 12) ++ [f.dest, f.src].map (·, 16) ++
    [(f.sectors, 3), (f.creditClass, 2), (f.credits, 11), (f.tenant, 8), (f.tag, 24)]

/-- R342: every field within its width, and at most seven sectors of data. -/
def Flit.wf (f : Flit) : Bool := f.fields.all (fun e => decide (e.1 < 2 ^ e.2)) && decide (f.data.length ≤ 7)

/-- STORE_LOAD carries the eight sectors of a burst, from sector boundaries of memory (R139, R180). -/
def StoreSource.wf : StoreSource → Bool
  | .plan xs => decide (xs.length = 8)
  | .memory a => decide (a % 32 = 0)
  | .results _ _ _ => true

/-- The flit of a command that arrives on a link. -/
def Instr.flit? : Instr → Option Flit
  | .fabricWrite _ f _ | .fabricRead _ f _ | .readResponse _ f _ | .atomicAdd _ f _ => some f
  | .fenceRequest _ f _ | .fenceAck _ f _ => some f
  | .collectiveSum _ f _ | .collectiveMax _ f _ | .collectiveResult _ f _ => some f
  | .hello _ f _ | .nak _ f _ | .tune _ f _ | .drain _ f _ | .idle _ f _ => some f
  | _ => none

/-- Operands in the ranges of their rules. The first three are what a meaning itself stops on. -/
def Instr.wf (i : Instr) : Bool :=
  (match i.flit? with
   | some f => f.wf
   | none => true) &&
  match i with
  | .act _ _ row => decide (row.toNat < 20480)
  | .embeddingLookup entry tokens _ _ _ _ _ _ width =>
    decide (width ≤ 114688) && decide (3840 ≤ entry) && decide (entry + tokens.length ≤ 4096) && decide (1 ≤ tokens.length) && decide (tokens.length ≤ 8)
  | .expertSelect _ k position _ _ count => decide (1 ≤ k) && decide (k ≤ 8) && decide (position < 8) && decide (count ≤ 256)
  | .rd _ _ _ _ _ a w => flipsWf 8 a && flipsWf 8 w
  | .wr _ _ _ _ _ xs => decide (xs.length = 8)
  | .droneRead _ _ a w => flipsWf 64 a && flipsWf 64 w
  | .sectorReread _ _ a w => flipsWf 1 a && flipsWf 1 w
  | .mvs _ _ l => flipsWf 128 l
  | .score _ _ l => flipsWf 64 l
  | .value _ _ l => flipsWf 64 l
  | .pick _ _ l => flipsWf 64 l
  | .addback _ _ l => flipsWf 64 l
  | .startPhrase _ _ _ _ p => decide (p.width ≤ 114688)
  | .argWrite _ _ _ _ _ lanes => decide (lanes.length = 4)
  | .storeLoad _ _ _ _ _ src => src.wf
  | .posWrite _ _ _ lanes => decide (lanes.length = 8)
  | .sliceEnd _ wires _ => wires.all fun w => decide (w < 328)
  | .bar2Read _ n => decide (1 ≤ n) && decide (n ≤ 4096)
  | .bar2Write _ d _ => decide (1 ≤ d.length) && decide (d.length ≤ 4096)
  | .bar4Read _ n _ _ => decide (1 ≤ n) && decide (n ≤ 4096)
  | .bar4Write _ d _ => decide (1 ≤ d.length) && decide (d.length ≤ 4096)
  | .linkTrained w v _ => [1, 2, 4, 8, 16].contains w && decide (1 ≤ v) && decide (v ≤ 6)
  | .coreStart _ _ args _ tenant => decide (args.length ≤ 8) && decide (tenant < 256)
  | .registerWrite o _ eight _ => decide (o.toNat % (if eight then 8 else 4) = 0)
  | .registerRead o eight => decide (o.toNat % (if eight then 8 else 4) = 0)
  | _ => true

end Sys2Proof
end

