-- ==== Sys2Proof/Safety.lean ====
section
/-! DEFINITION. What statements say about a command: what it needs of the state before it, which one part of
the state it may change; and the invariant of the module that every step keeps. -/
namespace Sys2Proof.Machine

/-! Frames: everything but the part named is unchanged, and of a table only the entry named may differ. -/

/-- Only channel `c` may differ. -/
def OnlyChan (c : Nat) (s t : State) : Prop :=
  t = { s with dram.channels := t.dram.channels } ∧ ∀ k, k ≠ c → chan t k = chan s k

/-- Only bank `b` of channel `c` may differ. -/
def OnlyBank (c b : Nat) (s t : State) : Prop :=
  OnlyChan c s t ∧ chan t c = { chan s c with banks := (chan t c).banks } ∧
    ∀ k, k ≠ b → bank (chan t c) k = bank (chan s c) k

/-- Only unit `u` may differ. -/
def OnlyUnit (u : Nat) (s t : State) : Prop :=
  t = { s with near.units := t.near.units } ∧ ∀ k, k ≠ u → unit t k = unit s k

/-- Only core `g` may differ. -/
def OnlyCore (g : Nat) (s t : State) : Prop :=
  t = { s with dense.cores := t.dense.cores } ∧ ∀ k, k ≠ g → core t k = core s k

/-- Only collector `k` may differ. -/
def OnlyCollector (k : Nat) (s t : State) : Prop :=
  t = { s with near.collectors := t.near.collectors } ∧ ∀ j, j ≠ k → collector t j = collector s j

/-- Only the owner side of tile `k` may differ. -/
def OnlyOwner (k : Nat) (s t : State) : Prop :=
  t = { s with near.owners := t.near.owners } ∧ ∀ j, j ≠ k → owner t j = owner s j

/-- Only link `l` may differ. -/
def OnlyLink (l : Nat) (s t : State) : Prop :=
  t = { s with fabric.links := t.fabric.links } ∧ ∀ j, j ≠ l → link t j = link s j

/-- Only tenant `k` may differ. -/
def OnlyTenant (k : Nat) (s t : State) : Prop :=
  t = { s with tenancy.tenants := t.tenancy.tenants } ∧ ∀ j, j ≠ k → tenantOf t j = tenantOf s j

/-- Only job slot `k` may differ. -/
def OnlyJob (k : Nat) (s t : State) : Prop :=
  t = { s with tenancy.jobs := t.tenancy.jobs } ∧ ∀ j, j ≠ k → job t j = job s j

/-- Only what a report of a status code may touch differs (R373, R398-R401, R412-R417, R430): the recorder and the
aggregator, the event bits, START_CODE, a forced test, and the messages to the host. -/
def ReportFrame (s t : State) : Prop :=
  t = { s with
    free := t.free
    log := t.log
    events := t.events
    start.startCode := t.start.startCode
    port.event := t.port.event
    port.pending := t.port.pending
    port.waiting := t.port.waiting
    port.sent := t.port.sent
    lut.recordEvent := t.lut.recordEvent
    lut.aggEvent := t.lut.aggEvent
    lut.aggregates := t.lut.aggregates
    lut.folded := t.lut.folded
    lut.forced := t.lut.forced }

/-! What runs. -/

/-- R164, R165: the phrase `r` runs on unit `u`, the word at its program counter is `w` with this OP, and an operation of
this cost fits the cycles that the phrase declared. -/
def MicroReady (op cost u : Nat) (r : PhraseRun) (w : Nat) (s : State) : Prop :=
  (unit s u).run = some r ∧ r.ended = false ∧ microWord (unit s u) r.pc = w ∧ bits w 63 58 = op ∧
    r.elapsed + cost ≤ r.cycles

/-- R116, R119: nothing that the unit holds came from poison or has uncorrectable check bits, the local buffer apart. -/
def CleanUnit (v : Unit) : Prop :=
  v.bad = [] ∧ v.storeMarks = [] ∧ v.xMarks = [] ∧ v.run.any (·.tainted) = false

/-- As MicroReady, in a unit that no error has reached. -/
def MicroClean (op cost u : Nat) (r : PhraseRun) (w : Nat) (s : State) : Prop :=
  MicroReady op cost u r w s ∧ CleanUnit (unit s u)

/-- A sector queued by the phrase `r` (R137): of its reduction, under its plan. -/
def ofRun (r : PhraseRun) (o : OutSector) : OutSector := { o with reduction := r.reduction, plan := r.plan }

/-- Physical sector `n`, the `i`-th of a read inside the die, as its decoder delivers it (R111, R118). -/
def asStored (fs : List BitFlip) (n i : Nat) (s : State) : SectorRead :=
  decodeSector (flipBits fs i (storedData s n, storedChecks s n)).1 (flipBits fs i (storedData s n, storedChecks s n)).2

/-- Physical sector `n` as it is stored. -/
def sectorAt (s : State) (n : Nat) : Sector := (decodeSector (storedData s n) (storedChecks s n)).sector

/-- What a core's issue of the word at its program counter changes by itself (R199, R203): LAST_PC and the counter. -/
def issuedCore (c : Core) : Core := { c with lastPc := c.pc, pc := (c.pc + 1) % 4096 }

/-- The state in which an instruction of core `g` acts: the word is issued. -/
def issued (g : Nat) (s : State) : State := onCore g issuedCore s

/-- Core `g` runs, waits for nothing, and the word at its program counter is `w` with this OP. -/
def CoreReady (op g : Nat) (w : CoreWord) (s : State) : Prop :=
  (core s g).busy = true ∧ (core s g).waiting = .none ∧ coreWord (core s g) (core s g).pc = w ∧ w.op = op

/-- R116, R119: nothing that the core's stores or the scratchpads hold has uncorrectable check bits, and no store of the core came
from poison. -/
def CleanCore (g : Nat) (s : State) : Prop := (core s g).bad = [] ∧ (core s g).storeMarks = [] ∧ s.scratch.bad = []

/-- Sector `i` of `n` from module address `a` is read without a new error, over wires that are all in use (R112). -/
def CleanSectors (s : State) (a n : Nat) : Prop :=
  ∀ i, i < n → ∃ p, place s (a + 32 * i) = some p ∧ (chan s (globalChannel p)).failed = false ∧
    openWires (chan s (globalChannel p)) = [] ∧ chanOfSector p.sector = globalChannel p ∧
    (decodeSector (storedData s p.sector) (storedChecks s p.sector)).uncorrectable = false

/-- As CleanSectors, sectors of a failed channel apart: nothing is found uncorrectable by the read. -/
def ReadsWell (s : State) (a n : Nat) : Prop :=
  ∀ i, i < n → ∃ p, place s (a + 32 * i) = some p ∧ chanOfSector p.sector = globalChannel p ∧
    ((chan s (globalChannel p)).failed = true ∨ openWires (chan s (globalChannel p)) = [] ∧
      (decodeSector (storedData s p.sector) (storedChecks s p.sector)).uncorrectable = false)

/-- The state after `k` beats of channel `c`: each takes a free value for every wire of the channel that is out of use (R112). -/
def afterBeats (c k : Nat) (s : State) : State := { s with free := s.free + k * (openWires (chan s c)).length }

/-! The host. -/

/-- The port performs a host command at once: the BARs answer, the start has not stopped, no release is pending, and no earlier access
waits for stacked memory. -/
def hostFree (s : State) : Bool := hostOpen s && !s.start.stopped && !hostPending s && !hostBlocked s

/-- Accesses of BAR0, BAR2 and BAR4, the vectors and the DMA slots. -/
def accessRow : Instr → Bool
  | .registerWrite .. | .registerRead .. | .bar0AccessError _ => true
  | .bar2Read .. | .bar2Write .. => true
  | .bar4Read .. | .bar4Write .. => true
  | .msixUnmask _ | .dmaArm .. | .swapRegisterWrite .. => true
  | _ => false

/-- Operation fields of the descriptor and allocation tables, the fences, the repair, the fabric and the log window. -/
def tableRow : Instr → Bool
  | .repairGo | .descCreate | .descDestroy | .descRead => true
  | .allocCreate | .allocFree | .allocQuery => true
  | .hostReleaseModule | .hostReleaseSystem => true
  | .linkRetry _ | .rreadGo | .windowLatch _ => true
  | _ => false

/-- Operation fields of the serving engine, and the arm words. -/
def servingRow : Instr → Bool
  | .seqCreate _ | .seqFork _ | .seqRelease _ | .seqQuery _ => true
  | .arm .. | .cancel .. => true
  | .tenantEnable .. | .tenantDisable .. | .jobStart | .jobStop => true
  | .adapterLoad .. | .adapterInstall _ | .adapterRetire _ => true
  | _ => false

/-- Luthier's commands and the image operations. -/
def managementRow : Instr → Bool
  | .getAttestation | .getCerts | .svnCommit | .testNow => true
  | .fwUpdate .. | .configUpdate .. | .logClear .. => true
  | .load .. | .unload => true
  | _ => false

/-- The rows of the host's accesses. -/
def hostRow (c : Instr) : Bool := accessRow c || tableRow c || servingRow c || managementRow c

/-- R232: no two valid allocations of one space share a byte. -/
def AllocsDisjoint (s : State) : Prop :=
  ∀ i j a b, i ≠ j → tabFind? s.tables.allocs i = some a → tabFind? s.tables.allocs j = some b →
    a.valid = true → b.valid = true → a.scratch = b.scratch → a.base + a.size ≤ b.base ∨ b.base + b.size ≤ a.base

/-- The 64-bit registers that a write of the host sets and nothing else of BAR0 does, each with the mask of its field:
DRAM_TRANSLATE's address, the repair's, the load's, the adapter's and the job's arguments, the staging words, the allocation's
arguments, the remote read's address, BAR2_BASE, the mailbox's arguments. -/
def plainRegs : List (Nat × Nat) :=
  [(0x500, 2 ^ 40 - 32), (0xD00010, 2 ^ 40 - 2 ^ 21)] ++
  [0x2A0, 0x100200, 0x300100, 0x300108, 0xC00020].map (·, 2 ^ 40 - 1) ++
  ((List.range 8).map (0x300000 + 8 * ·) ++ (List.range 4).map (0x508 + 8 * ·) ++ (List.range 4).map (0xE00010 + 8 * ·) ++
    [0x700, 0x708, 0x100100]).map (·, 2 ^ 64 - 1)

/-- R390, R391: after a trip of the whole module every tile is tripped. -/
def TripsAgree (s : State) : Prop := s.lut.allTripped = true → ∀ i, i < 8 → tileTripped s i = true

/-! Requests and sequences. -/

/-- What an operation meets in the hub tables where nothing uncorrectable is met (R116): the counter of corrections. -/
def metHub (h : HubSram) (s : State) : State :=
  { s with protect.hubCorrected := s.protect.hubCorrected + BitVec.ofNat 64 h.corrected }

/-- The entry of sequence `k` reads as FREE: it is FREE, and not poisoned (R116, log entry 98). -/
def ReadsFree (s : State) (k : Nat) : Prop := (seqEntry s k).state = .free ∧ HubEntry.seq k ∉ s.protect.hubMarks

/-- R296, R260: an arm word written to slot `i`: it is stored, and it is a release. -/
def armed (i : Nat) (w : Quad) (s : State) : State :=
  { s with
    serve.slotWords := tabSet 0 s.serve.slotWords (32 * i + 31) w
    order.moduleReleases := s.order.moduleReleases + 1 }

/-- R296: the word arms slot `i`. -/
def Arms (i : Nat) (w : Quad) (s : State) : Prop :=
  w.getLsbD 0 = true ∧ w.getLsbD 1 = false ∧ w.extractLsb' 48 16 = (request s i).gen + 1 ∧ (request s i).state = .free

/-- R296, R306: the word cancels the request of slot `i`. -/
def Cancels (i : Nat) (w : Quad) (s : State) : Prop :=
  w.getLsbD 0 = false ∧ w.getLsbD 1 = true ∧ w.extractLsb' 48 16 = (request s i).gen ∧ (request s i).state ≠ .free

/-- Only request slot `i` may differ among the requests. -/
def OtherRequests (i : Nat) (s t : State) : Prop := ∀ k, k ≠ i → request t k = request s k

/-! The fabric. -/

/-- A flit with the TYPE and OP of its row. -/
def asType (f : Flit) (type op : Nat) : Flit := { f with type := type, op := op }

/-- The requests of the fabric that arrive as a flit: the link, the flit with the TYPE and OP that the row names, the time. -/
def requestRow : Instr → Option (Fin 36 × Flit × Nat)
  | .fabricWrite l f at_ => some (l, asType f 1 f.op, at_)
  | .fabricRead l f at_ => some (l, asType f 2 0, at_)
  | .readResponse l f at_ => some (l, asType f 3 f.op, at_)
  | .atomicAdd l f at_ => some (l, asType f 4 f.op, at_)
  | .fenceRequest l f at_ => some (l, asType f 5 0, at_)
  | .fenceAck l f at_ => some (l, asType f 5 1, at_)
  | _ => none

/-- The flits of collectives and of the link itself, as `requestRow`. -/
def controlRow : Instr → Option (Fin 36 × Flit × Nat)
  | .collectiveSum l f at_ => some (l, asType f 6 0, at_)
  | .collectiveMax l f at_ => some (l, asType f 6 1, at_)
  | .collectiveResult l f at_ => some (l, asType f 6 2, at_)
  | .hello l f at_ => some (l, asType f 7 0, at_)
  | .nak l f at_ => some (l, asType f 7 1, at_)
  | .tune l f at_ => some (l, asType f 7 2, at_)
  | .drain l f at_ => some (l, asType f 7 3, at_)
  | _ => none

/-- The rows by which a flit arrives. -/
def flitRow (c : Instr) : Option (Fin 36 × Flit × Nat) := (requestRow c).or (controlRow c)

/-- R342-R346, R356: flit `f` of link `l` waits for nothing (R29) and is taken in order, `u` is the state then, it passes the checks
of a receiver, and it is for this node. -/
def Passes (l : Fin 36) (t : Nat) (f : Flit) (s u : State) : Prop :=
  linkBlocked l s = false ∧ flitWaits f s = false ∧ receive l t f s = (u, true) ∧
    opOk f = true ∧ f.unusedZero = true ∧ overCredit (link u l) f = false ∧ shapeOk f = true ∧
    (f.type = 7 ∨ f.dest = nodeOf u ∧ f.hops ≤ 7)

/-! The invariants. -/

/-- R71, R85: no bank owes more than three refreshes, and every open row exists. -/
def BanksLegal (s : State) : Prop :=
  ∀ c b, (bank (chan s c) b).debt ≤ 3 ∧ (∀ r, (bank (chan s c) b).row0 = some r → r < 20480) ∧
    ∀ r, (bank (chan s c) b).row1 = some r → r < 20480

/-- The commands that reach the banks of a channel from its controller (chapters 04, 05, 08). -/
def bankCommand : Instr → Bool
  | .act .. | .rd .. | .wr .. | .pre .. | .ref .. | .refreshDue .. => true
  | .sliceStart .. | .sliceEnd .. | .enterTrain .. | .exitTrain _ | .channelFail .. => true
  | .startPhrase .. | .phraseHoldEnd _ => true
  | _ => false

/-- The addressed stores of the module are in canonical form: the bytes and checks of stacked memory, the scratchpads,
Luthier's data window. -/
def Inv (s : State) : Prop :=
  Memory.wf s.dram.bytes = true ∧ tabWf 0 s.dram.checks = true ∧ Memory.wf s.scratch.bytes = true ∧
    Memory.wf s.lut.data = true

end Sys2Proof.Machine
end

