-- ==== Sys2Proof/Certificates/Slice0/Obligations.lean ====
section
/-! DEFINITION. The statements for the provers, by chapter of the spec; the near-bank ones first name what they share. -/
section
open Sys2Proof Sys2Proof.Machine

/-- A step takes the command at the front of the queue and runs it with the queue's rest (the model's own queue). On an
empty queue a step lets one microsecond pass once the serving engine's counter runs (step 5, R7, R431), with Luthier's
operating hours in units of 3,515,625 ticks of 1/64 µs (R382) and the time of the last latency-critical prompt position
(R324), and nothing otherwise (the model's choice, entry 3). -/
def Obligations.StepRunsFrontCommand : Prop :=
  (∀ (c : Instr) (rest : List Instr) (s : State), s.pending = c :: rest → step s = exec c { s with pending := rest }) ∧
  (∀ s : State, s.pending = [] →
    (luthierRuns s = true → 5 ≤ s.start.state → step s = .next { s with
      us := s.us + 1
      opTicks := (s.opTicks + 64) % 3515625
      lut.opHours := s.lut.opHours + BitVec.ofNat 48 ((s.opTicks + 64) / 3515625)
      tenancy.lastLcPrompt := if lcPromptHeld s = true then s.us + 1 else s.tenancy.lastLcPrompt }) ∧
    (luthierRuns s = false ∨ s.start.state < 5 → step s = .next s))

/-- Every step keeps the canonical form of the module's addressed stores, whatever command is in front. -/
def Obligations.StepKeepsStores : Prop := ∀ s t : State, Inv s → step s = .next t → Inv t

/-- The state after reset has the invariant. The banks after reset are legal. No allocation is valid after reset. What the
registers read after reset, where a chapter gives the value. -/
def Obligations.ResetStates : Prop :=
  (Inv State.reset) ∧
  (BanksLegal State.reset) ∧
  (AllocsDisjoint State.reset) ∧
  (regRead State.reset 0 = 0x4B578640 + 0x00414C00 * 2 ^ 32 ∧ regRead State.reset 0x2C0 = 0x1F4 ∧
  regRead State.reset 0x100010 / 2 ^ 32 = 0x3E8 ∧ (∀ t, t < 8 → regRead State.reset (0x400008 + 0x100000 * t) = 0x7D0) ∧
  regRead State.reset 0xC00008 = 0xC8 + 0x64 * 2 ^ 32 ∧ regRead State.reset 0xC00010 = 0x400 + 0xA * 2 ^ 32 ∧
  regRead State.reset 0xE00040 / 2 ^ 32 = 0x3E8 ∧ regRead State.reset 0x208 = 0 ∧ regRead State.reset 0x101000 / 2 ^ 31 % 2 = 1)

/-- ACT, PRE, REF and REFRESH_DUE (R75, R80, R81, R88): what each does to its bank, and that it does nothing else. -/
def Obligations.BankCommands : Prop :=
  ∀ (s : State) (c : Fin 512) (b : Fin 32),
    (∀ row : BitVec 15, 20480 ≤ row.toNat → exec (.act c b row) s = .fault (.illFormed "ACT")) ∧
    (∀ row : BitVec 15, row.toNat < 20480 → bankReady s c b = true → ∃ t, exec (.act c b row) s = .next t ∧
      OnlyBank c b s t ∧ bank (chan t c) b =
        if row.toNat % 2 = 0 then { bank (chan s c) b with row0 := some row.toNat, lastHalf := 0 }
        else { bank (chan s c) b with row1 := some row.toNat, lastHalf := 1 }) ∧
    (∀ half : Fin 2, bankReady s c b = true → ∃ t, exec (.pre c b half) s = .next t ∧
      OnlyBank c b s t ∧ bank (chan t c) b =
        if half = 0 then { bank (chan s c) b with row0 := none } else { bank (chan s c) b with row1 := none }) ∧
    (bankFree s c b = true → (bank (chan s c) b).debt ≠ 0 → ∃ t, exec (.ref c b) s = .next t ∧
      OnlyChan c s t ∧ chan t c = { chan s c with
        banks := (chan t c).banks
        refreshes := (chan s c).refreshes + 1
        postponed := (chan s c).postponed + if 2 ≤ (bank (chan s c) b).debt then 1 else 0 } ∧
      (∀ k, k ≠ b.val → bank (chan t c) k = bank (chan s c) k) ∧
      bank (chan t c) b = { bank (chan s c) b with debt := (bank (chan s c) b).debt - 1, row0 := none, row1 := none }) ∧
    (∀ odd : Bool, (chan s c).live = true → (chan s c).failed = false →
      (odd = true → doubled s c = false → exec (.refreshDue c b odd) s = .next s) ∧
      ((odd = true → doubled s c = true) → ∃ t, exec (.refreshDue c b odd) s = .next t ∧
        OnlyChan c s t ∧ chan t c = { chan s c with
          banks := (chan t c).banks, debtMax := max (chan s c).debtMax (min 3 ((bank (chan s c) b).debt + 1)) } ∧
        (∀ k, k ≠ b.val → bank (chan t c) k = bank (chan s c) k) ∧
        bank (chan t c) b = { bank (chan s c) b with debt := min 3 ((bank (chan s c) b).debt + 1) }))

/-- RD (R75, R88, R104, R110-R114): from the open row of the half activated last, the eight sectors of the burst as the
decoder makes them of what the array holds and what the wires disturbed; READ_BEATS rises by 8; with auto-precharge the half
closes; of memory only the burst's sectors, where the array was disturbed, may differ. A failed channel delivers poison. WR
(R75, R88, R109, R112, R113, R115): every sector of the burst whose mask bit is set is stored whole, with its checks or as
the poison codeword, as it stands where no wire of the channel is out of use; no other sector changes; WRITE_BEATS rises by
8; a poison-table entry of a sector that is overwritten with anything else goes, and no other (R123). -/
def Obligations.Bursts : Prop :=
  (∀ (s : State) (c : Fin 512) (b : Fin 32) (burst : Fin 8) (ap : Bool) (inner : Nat) (af wf : List BitFlip),
    ((chan s c).failed = true → ∃ t, exec (.rd c b burst ap inner af wf) s = .next t ∧
      OnlyChan c s t ∧ chan t c = { chan s c with delivered := List.replicate 8 Sector.poisoned }) ∧
    (∀ row, row < 20480 → bankReady s c b = true → openRow (bank (chan s c) b) = some row →
      ∃ t, exec (.rd c b burst ap inner af wf) s = .next t ∧
        (chan t c).delivered = (List.range 8).map (fun i =>
          (sectorOnWires af wf (sectorOf c b row (8 * burst.val) + i) i (afterBeats c i s)).sector) ∧
        (chan t c).readBeats = (chan s c).readBeats + 8 ∧
        bank (chan t c) b = (if ap then closeHalf (bank (chan s c) b).lastHalf (bank (chan s c) b) else bank (chan s c) b) ∧
        (∀ k, k ≠ b.val → bank (chan t c) k = bank (chan s c) k) ∧
        (∀ k, k ≠ c.val → chan t k = chan s k) ∧
        (∀ n, n < sectorOf c b row (8 * burst.val) ∨ sectorOf c b row (8 * burst.val) + 8 ≤ n →
          storedData t n = storedData s n ∧ storedChecks t n = storedChecks s n) ∧
        t = { afterBeats c 8 s with dram := t.dram } ∧ t.dram.forceDouble = s.dram.forceDouble)) ∧
  (∀ (s : State) (c : Fin 512) (b : Fin 32) (burst : Fin 8) (mask : BitVec 8) (ap : Bool) (xs : List Sector) (row : Nat),
    Inv s → xs.length = 8 → row < 20480 → bankReady s c b = true → openRow (bank (chan s c) b) = some row →
    ∃ t, exec (.wr c b burst mask ap xs) s = .next t ∧
      (∀ i, i < 8 → mask.getLsbD i = true → openWires (chan s c) = [] →
        storedData t (sectorOf c b row (8 * burst.val) + i) =
          (if (xs.getD i .zero).poison then 0 else (xs.getD i .zero).data) ∧
        storedChecks t (sectorOf c b row (8 * burst.val) + i) =
          (if (xs.getD i .zero).poison then BitVec.allOnes 64 else encodeChecks (xs.getD i .zero).data)) ∧
      (∀ n, (∀ i, i < 8 → mask.getLsbD i = true → n ≠ sectorOf c b row (8 * burst.val) + i) →
        storedData t n = storedData s n ∧ storedChecks t n = storedChecks s n) ∧
      (∀ e, e ∈ t.protect.table → e ∈ s.protect.table) ∧
      chan t c = { chan s c with
        writeBeats := (chan s c).writeBeats + 8
        banks := if ap then (onBank b (fun k => closeHalf k.lastHalf k) (chan s c)).banks else (chan s c).banks } ∧
      (∀ k, k ≠ c.val → chan t k = chan s k) ∧
      t = { s with
        dram.bytes := t.dram.bytes, dram.checks := t.dram.checks, dram.channels := t.dram.channels, free := t.free
        protect.table := t.protect.table })

/-- The commands of training (R101, R102, R114): each acts on its channel alone, while the channel trains. Retuning (R84,
R99-R103): from step 6 of the start a wave names the live channels of the next of eight groups; a slice starts on one of
them, forced where not all its pairs are held with enough left and it is not idle; it ends with the refresh debt repaid and
what waited back at the front of the queue, or, where more than eight wires are unusable or it is not verified, with the
channel failed. A live channel fails (R104, R105): it takes no more commands and holds nothing, the module is degraded, the
channel enters the persistent map, 0x3C11 is recorded with the cause and the channel in DETAIL (R452), and what waited goes
on. MAP_REGION_ERASE (R95, R96): once a map write has completed, with a copy in force in both regions and the flash in its
temperature range, the region of the copy of the lower SEQUENCE is erased, and the other stays. -/
def Obligations.TrainingAndRetuning : Prop :=
  (∀ (s : State) (c : Fin 512),
    (((chan s c).slicing = true ∨ (s.start.starting = true ∧ (chan s c).mappedOut = false)) →
      ∀ inner : Nat, ∃ t, exec (.enterTrain c inner) s = .next t ∧ OnlyChan c s t ∧ chan t c = { chan s c with
        inTrain := true
        innerCorrected := (chan s c).innerCorrected + (satAdd (chan s c).dieInner inner).zeroExtend 64
        dieInner := 0 }) ∧
    ((chan s c).inTrain = true →
      (∀ (wire : Fin 328) (seed : BitVec 9), ∃ t, exec (.patternWrite c wire seed) s = .next t ∧
        OnlyChan c s t ∧ chan t c = { chan s c with patternWritten := some (wire.val, seed.toNat) }) ∧
      (∀ (wire : Fin 328) (seed : BitVec 9), ∃ t, exec (.patternRead c wire seed) s = .next t ∧
        OnlyChan c s t ∧ chan t c = { chan s c with patternRead := some (wire.val, seed.toNat) }) ∧
      (∀ (wire : Fin 328) (delay : Byte), ∃ t, exec (.setDelay c wire delay) s = .next t ∧
        OnlyChan c s t ∧ chan t c = { chan s c with delays := (chan t c).delays } ∧
        (tabWf 0 (chan s c).delays = true → tabGet 0 (chan t c).delays wire = delay.toNat) ∧
        ∀ w, w ≠ wire.val → tabGet 0 (chan t c).delays w = tabGet 0 (chan s c).delays w) ∧
      (∀ (wire : Fin 320) (spare : Fin 8), ∃ u, OnlyChan c s u ∧
        chan u c = { chan s c with
          spares := (chan u c).spares, spent := (chan u c).spent, sparesUsed := (chan u c).spent.length } ∧
        (∀ k, k ∈ (chan u c).spent ↔ k = spare.val ∨ k ∈ (chan s c).spent) ∧
        tabFind? (chan u c).spares wire = some spare.val ∧
        (∀ w v, w ≠ wire.val → tabFind? (chan u c).spares w = some v → v ≠ spare.val) ∧
        exec (.spareMap c wire spare) s = .next
          (if (chan s c).slicing = true ∧ tabFind? (chan s c).spares wire ≠ some spare.val
           then Machine.reportFree 0x3C12 (subjChannel c) (subjChannel c) u else u)) ∧
      ∃ t, exec (.exitTrain c) s = .next t ∧ OnlyChan c s t ∧ chan t c = { chan s c with inTrain := false })) ∧
  (∀ s : State,
    (6 ≤ s.start.state → ∃ t, exec .waveStart s = .next t ∧
      t.spread.waves = s.spread.waves + 1 ∧ t.spread.nextGroup = (s.spread.nextGroup + 1) % 8 ∧
      (∀ c, c ∈ t.spread.toSlice ↔ c ∈ s.spread.toSlice ∨
        (c < 512 ∧ c % 8 = s.spread.nextGroup ∧ (chan s c).live = true ∧ (chan s c).failed = false)) ∧
      t = { s with spread := t.spread, serve := t.serve }) ∧
    (∀ (c : Fin 512) (enough : Bool), c.val ∈ s.spread.toSlice → channelReady s c = true →
      ∃ t, exec (.sliceStart c enough) s = .next t ∧
        chan t c = { chan s c with
          slicing := true
          slices := (chan s c).slices + 1
          forcedSlices := (chan s c).forcedSlices + if underPhrases s c enough || channelIdle s c then 0 else 1 } ∧
        (∀ k, k ≠ c.val → chan t k = chan s k) ∧ (∀ k, k ∈ t.spread.toSlice ↔ k ∈ s.spread.toSlice ∧ k ≠ c.val) ∧
        t = { s with dram.channels := t.dram.channels, spread.toSlice := t.spread.toSlice }) ∧
    (∀ (c : Fin 512) (ws : List Nat), (chan s c).slicing = true → (ws.foldl setInsert []).length ≤ 8 →
      ∃ t, exec (.sliceEnd c ws true) s = .next t ∧
        t = { s with dram.channels := t.dram.channels, pending := s.deferred ++ s.pending, deferred := [] } ∧
        (∀ k, k ≠ c.val → chan t k = chan s k) ∧
        (chan t c).slicing = false ∧ (chan t c).inTrain = false ∧ (chan t c).wires = ws.foldl setInsert [] ∧
        (∀ b, b < 32 → (bank (chan s c) b).debt ≤ 3 →
          (bank (chan t c) b).debt = if tabFind? (chan s c).holds (b / 2) = none then 0 else (bank (chan s c) b).debt)) ∧
    (∀ (c : Fin 512) (ws : List Nat) (ok : Bool), (chan s c).slicing = true → 8 < (ws.foldl setInsert []).length ∨ ok = false →
      exec (.sliceEnd c ws ok) s = .next (failChannel c .slice s))) ∧
  (∀ (s : State) (c : Fin 512) (cause : FailCause), (chan s c).live = true → (chan s c).failed = false →
    ∃ u, exec (.channelFail c cause) s = .next (Machine.report 0x3C11 (subjChannel c) (subjChannel c)
        (BitVec.ofNat 32 (causeCode cause * 2 ^ 24 + c.val)) u) ∧
      chan u c = { chan s c with failed := true, live := false, slicing := false, inTrain := false, holds := [] } ∧
      (∀ k, k ≠ c.val → chan u k = chan s k) ∧ u.spread.degraded = true ∧
      u.spread.failedCount = s.spread.failedCount + 1 ∧
      u.spread.firstFailed = (if s.spread.failedCount = 0 then c.val else s.spread.firstFailed) ∧
      (∀ k, k ∈ u.spread.persistent ↔ k = c.val ∨ k ∈ s.spread.persistent) ∧
      (∀ i, i < 16 → (unit u (16 * c.val + i)).run = none ∧ (unit u (16 * c.val + i)).out = []) ∧
      (∀ v, v / 16 ≠ c.val → unit u v = unit s v) ∧ u.pending = s.deferred ++ s.pending ∧ u.deferred = [] ∧
      u.dram.bytes = s.dram.bytes ∧ u.dram.checks = s.dram.checks ∧ u.dense = s.dense ∧ u.kv = s.kv) ∧
  (∀ s : State, luthierRuns s = true → s.lut.eraseMap = true →
    ∀ a, inForce s.nvm.map0 = some a → ∀ b, inForce s.nvm.map1 = some b →
    (a.sequence < b.sequence → flashOk 0 s = true →
      exec .mapRegionErase s = .next { s with nvm.map0 := [], lut.eraseMap := false }) ∧
    (b.sequence ≤ a.sequence → flashOk 1 s = true →
      exec .mapRegionErase s = .next { s with nvm.map1 := [], lut.eraseMap := false }))

/-- No bank ever owes more than three refreshes (R85) and no row beyond 20,479 is open (R71), whichever command of a
channel's controller runs. -/
def Obligations.BanksStayLegal : Prop :=
  ∀ (s t : State) (c : Instr), BanksLegal s → bankCommand c = true → exec c s = .next t → BanksLegal t

/-- R90, R91, R93: two module addresses below C never share a stored sector unless they lie in one sector, and the address
of a stored sector, read backwards, is the address it was placed from. -/
def Obligations.SpreadingIsOneToOne : Prop :=
  ∀ (s : State) (a b : Nat) (p q : Place), s.spread.units = liveUnitCount s.spread.applied →
    place s a = some p → place s b = some q →
      (p.sector = q.sector → a / 32 = b / 32) ∧ sectorAddress s p.sector = some (a / 32 * 32)

/-- R110, R111: the checks of a word make it clean, and one wrong symbol, wherever it stands, is corrected. -/
def Obligations.OuterCodeCorrectsOneSymbol : Prop :=
  ∀ data : Quad, decodeWord data (encodeCheck data) = .clean ∧ ∀ e : BitVec 4, e ≠ 0 →
    (∀ k, k < 16 → decodeWord (data ^^^ (e.zeroExtend 64 <<< (4 * k))) (encodeCheck data) = .corrected data) ∧
    (∀ k, k < 4 → decodeWord data (encodeCheck data ^^^ (e.zeroExtend 16 <<< (4 * k))) = .corrected data)

/-- R113: the poison codeword's syndrome, that it is never clean and never corrected, that a poisoned sector is stored as
four of them, and that two of them make the decoder deliver a poisoned sector that is no new uncorrectable error. -/
def Obligations.PoisonCodeword : Prop :=
  syndrome 0 0xFFFF = ⟨0x0, 0xA, 0xC, 0xA⟩ ∧ decodeWord 0 0xFFFF = .uncorrectable ∧
  (∀ (s : State) (n : Nat) (x : Sector), Inv s → (chan s (chanOfSector n)).failed = false → x.poison = true →
    ∀ k, k < 4 → isPoisonWord (storedData (putSector n x s) n) (storedChecks (putSector n x s) n) k = true) ∧
  (∀ (data : BitVec 256) (checks : Quad) (j k : Nat), j < k → k < 4 →
    isPoisonWord data checks j = true → isPoisonWord data checks k = true →
    decodeSector data checks = ⟨.poisoned, 0, false⟩) ∧
  (∀ (s : State) (n j k : Nat), (chan s (chanOfSector n)).failed = false → openWires (chan s (chanOfSector n)) = [] → j < k →
    k < 4 →
    isPoisonWord (storedData s n) (storedChecks s n) j = true → isPoisonWord (storedData s n) (storedChecks s n) k = true →
    (ctlRead n s).1 = .poisoned ∧ (ctlRead n s).2.protect = s.protect ∧ (ctlRead n s).2.log = s.log ∧
      (chan (ctlRead n s).2 (chanOfSector n)).uncorrectable = (chan s (chanOfSector n)).uncorrectable)

/-- A controller's read of a sector, over a channel whose wires are all in use, delivers what was last written to it by a
unit or by a controller (R109, R113, R123), every other sector reads as before, and a failed channel discards the write and
delivers poison (R104). -/
def Obligations.SectorReadAfterWrite : Prop :=
  ∀ (s : State) (n m : Nat) (x : Sector),
    (Inv s → (chan s (chanOfSector n)).failed = false → openWires (chan s (chanOfSector n)) = [] →
      (ctlRead n (writeSectorAt n x s)).1 = (if x.poison then .poisoned else x) ∧ ctlWrite n x s = writeSectorAt n x s) ∧
    (m ≠ n → (ctlRead m (writeSectorAt n x s)).1 = (ctlRead m s).1) ∧
    ((chan s (chanOfSector n)).failed = true → writeSectorAt n x s = s ∧ ctlRead n s = (.poisoned, s))

/-- SECTOR_REREAD (R82, R104, R117, R118), once nothing holds the bank: the sector leaves the queue of rereads and what
waited for it goes on; read well, it is delivered, counted and recorded with 0x3011; a poison codeword is delivered and
counted as such; uncorrectable again, it is stored as poison, counted, and delivered as poison; a failed channel delivers
poison. The drone (R118, R124, R125): of a granule it reads 64 sectors; what it corrected it writes back, what is
uncorrectable waits for its second read (found by the drone); a pair named after an overflow goes first; its place moves on;
nothing outside the granule changes. The last granule of a patrol counts the patrol, and more than 1,024 sectors rewritten
are recorded with 0x3018. Order 4 and the overdue patrol (0x3015). FREE_FILL_DONE (R129): every sector of the freed range
reads as zeros, without poison, and no other stored sector changes; the fill leaves its queue and is counted. REPAIR_GO
(R127, R453): while busy it is refused with 0x3023; else the first row of its checks that fails gives the code that the
field will take; where all pass, nothing holds its bank and no wire of its channel is out of use, the sector takes the four
data words, and the entry of its poison goes. -/
def Obligations.StoredDataCommands : Prop :=
  (∀ (s : State) (i inner : Nat) (af wf : List BitFlip), ∀ x, s.dram.rereads[i]? = some x →
    ∀ c, c = chanOfSector x.sector → ∀ r, r = sectorOnWires af wf x.sector 0 s →
    ((chan s c).failed = true → ∃ t, exec (.sectorReread i inner af wf) s = .next t ∧
      chan t c = { chan s c with delivered := [.poisoned] } ∧ (∀ k, k ≠ c → chan t k = chan s k) ∧
      t = { s with dram.rereads := s.dram.rereads.eraseIdx i, dram.channels := t.dram.channels
                   pending := s.deferred ++ s.pending, deferred := [] }) ∧
    (bankFree s c (bankOfSector x.sector) = true →
      (r.uncorrectable = false → r.sector.poison = false →
        ∃ u, exec (.sectorReread i inner af wf) s =
            .next (wakeDeferred (Machine.reportFree 0x3011 (subjChannel c) (subjChannel c) u)) ∧
          u.dram.rereads = s.dram.rereads.eraseIdx i ∧
          chan u c = { chan s c with
            outerRetried := (chan s c).outerRetried + 1
            outerCorrected := (chan s c).outerCorrected + BitVec.ofNat 64 r.corrected
            dieInner := (chan u c).dieInner
            delivered := [r.sector] } ∧
          (∀ k, k ≠ c → chan u k = chan s k) ∧
          (∀ n, n ≠ x.sector → storedData u n = storedData s n ∧ storedChecks u n = storedChecks s n) ∧
          u = { afterBeats c 1 s with dram := u.dram }) ∧
      (r.uncorrectable = false → r.sector.poison = true → ∃ t, exec (.sectorReread i inner af wf) s = .next t ∧
        t.dram.rereads = s.dram.rereads.eraseIdx i ∧ (chan t c).delivered = [r.sector] ∧
        (chan t c).poisonDelivered = (chan s c).poisonDelivered + 1 ∧ (chan t c).outerRetried = (chan s c).outerRetried ∧
        (∀ k, k ≠ c → chan t k = chan s k) ∧ t.log = s.log) ∧
      (Inv s → r.uncorrectable = true → ∃ t, exec (.sectorReread i inner af wf) s = .next t ∧
        t.dram.rereads = s.dram.rereads.eraseIdx i ∧
        (openWires (chan s c) = [] → storedData t x.sector = 0 ∧ storedChecks t x.sector = BitVec.allOnes 64) ∧
        (chan t c).uncorrectable = (chan s c).uncorrectable + 1 ∧ (chan t c).delivered = [.poisoned] ∧
        (∀ n, n ≠ x.sector → storedData t n = storedData s n ∧ storedChecks t n = storedChecks s n) ∧
        (∀ k, k ≠ c → chan t k = chan s k) ∧ t.near = s.near ∧ t.dense = s.dense ∧ t.scratch = s.scratch))) ∧
  (∀ (s : State) (c : Fin 512),
    (∀ b, b = (droneNext (chan s c)).1 → ∀ row, row = (droneNext (chan s c)).2 → b < 32 → row < 20480 →
      bankReady s c b = true → ∀ (inner : Nat) (af wf : List BitFlip),
      (Inv s → (chan s c).dronePairs = [] → (chan s c).droneAt + 1 < 655360 → openWires (chan s c) = [] →
        ∃ t, exec (.droneRead c inner af wf) s = .next t ∧
        (chan t c).droneAt = (chan s c).droneAt + 1 ∧ (chan t c).droneFirst = false ∧
        (chan t c).readBeats = (chan s c).readBeats + 64 ∧
        (∀ i, i < 64 → (sectorOnWires af wf (sectorOf c b row 0 + i) i s).uncorrectable = false →
          (sectorOnWires af wf (sectorOf c b row 0 + i) i s).corrected ≠ 0 →
          storedData t (sectorOf c b row 0 + i) = (sectorOnWires af wf (sectorOf c b row 0 + i) i s).sector.data) ∧
        (∀ i, i < 64 → (sectorOnWires af wf (sectorOf c b row 0 + i) i s).uncorrectable = true →
          { sector := sectorOf c b row 0 + i, foundBy := 2 } ∈ t.dram.rereads) ∧
        (∀ n, n < sectorOf c b row 0 ∨ sectorOf c b row 0 + 64 ≤ n →
          storedData t n = storedData s n ∧ storedChecks t n = storedChecks s n) ∧
        (∀ k, k ≠ c.val → chan t k = chan s k) ∧
        t = { s with dram := t.dram, protect.droneCorrected := t.protect.droneCorrected
                     protect.droneUncorrectable := t.protect.droneUncorrectable }) ∧
      (∀ p rest, (chan s c).dronePairs = p :: rest → ∃ t, exec (.droneRead c inner af wf) s = .next t ∧
        (chan t c).dronePairs = (if p % 40960 + 1 < 40960 then (p + 1) :: rest else rest) ∧
        (chan t c).droneAt = (chan s c).droneAt ∧ (chan t c).droneFirst = false ∧
        (chan t c).readBeats = (chan s c).readBeats + 64 ∧ (∀ k, k ≠ c.val → chan t k = chan s k) ∧
        t.protect.patrolsDone = s.protect.patrolsDone ∧ t.near = s.near ∧ t.log = s.log) ∧
      ((chan s c).dronePairs = [] → (chan s c).droneAt + 1 = 655360 →
        ∃ u n, exec (.droneRead c inner af wf) s =
            .next (if 1024 < n then Machine.reportFree 0x3018 (subjChannel c) (subjChannel c) u else u) ∧
          (chan s c).droneRewritten ≤ n ∧ n ≤ (chan s c).droneRewritten + 64 ∧
          (chan u c).droneAt = 0 ∧ (chan u c).droneRewritten = 0 ∧ (chan u c).patrolStart = s.lut.opHours ∧
          u.protect.patrolsDone = s.protect.patrolsDone + 1 ∧ u.lut = s.lut ∧ u.near = s.near)) ∧
    ((chan s c).live = true → ∃ t, exec (.droneGranuleOrder4 c) s = .next t ∧
      OnlyChan c s t ∧ chan t c = { chan s c with droneFirst := true }) ∧
    ((chan s c).live = true → (chan s c).patrolLate = false →
      (chan s c).patrolStart.toNat + 6 * 65536 ≤ s.lut.opHours.toNat →
      ∃ u, exec (.patrolOverdue c) s = .next (Machine.reportFree 0x3015 (subjChannel c) (subjChannel c) u) ∧
        OnlyChan c s u ∧ chan u c = { chan s c with patrolLate := true })) ∧
  (∀ (s : State) (f : Fill) (rest : List Fill), s.protect.fills = f :: rest → f.base % 2048 = 0 → f.size % 2048 = 0 →
    ∃ t, exec .freeFillDone s = .next t ∧
      t.protect.fills = rest ∧ t.protect.freeFills = s.protect.freeFills + 1 ∧
      (∀ i, i < f.size / 32 → ∀ p, place s (f.base + 32 * i) = some p → (chan s (globalChannel p)).failed = false →
        peekSector t (f.base + 32 * i) = some .zero) ∧
      (∀ n, (∀ i, i < f.size / 32 → (place s (f.base + 32 * i)).map (·.sector) ≠ some n) →
        storedData t n = storedData s n ∧ storedChecks t n = storedChecks s n) ∧
      t = { s with dram.bytes := t.dram.bytes, dram.checks := t.dram.checks, protect.fills := rest
                   protect.freeFills := t.protect.freeFills, protect.table := t.protect.table }) ∧
  (∀ s : State, hostFree s = true → accessWaits .repairGo s = false →
    (s.protect.repair.busy = true →
      exec .repairGo s = .next { s with protect.repair := { s.protect.repair with result := 0x3023 } }) ∧
    (s.protect.repair.busy = false → repairCheck s ≠ 0 → exec .repairGo s =
      .next { s with protect.repair := { s.protect.repair with busy := true, outcome := repairCheck s, taken := none } }) ∧
    (place s s.protect.repairAddr.toNat = none → repairCheck s = 0x3020) ∧
    (∀ p, place s s.protect.repairAddr.toNat = some p →
      ((chan s (globalChannel p)).failed = true → repairCheck s = 0x3C21) ∧
      ((chan s (globalChannel p)).failed = false →
        (poisonEntry? s.protect.repairAddr.toNat s = none → repairCheck s = 0x3021) ∧
        ∀ i e, poisonEntry? s.protect.repairAddr.toNat s = some (i, e) →
          repairCheck s = if e.getLsbD 62 then 0 else 0x3022)) ∧
    (∀ p, place s s.protect.repairAddr.toNat = some p → Inv s → openWires (chan s (globalChannel p)) = [] →
      s.protect.repair.busy = false →
      repairCheck s = 0 →
      p.sector / 64 / 20480 / 32 = globalChannel p →
      sectorAddress s p.sector = some (s.protect.repairAddr.toNat / 32 * 32) → ∃ t, exec .repairGo s = .next t ∧
        t.protect.repair = { s.protect.repair with busy := true, outcome := 0, taken := none } ∧
        storedData t p.sector =
          joinWords s.protect.repairData0 s.protect.repairData1 s.protect.repairData2 s.protect.repairData3 ∧
        peekSector t s.protect.repairAddr.toNat = some
          ⟨joinWords s.protect.repairData0 s.protect.repairData1 s.protect.repairData2 s.protect.repairData3, false⟩ ∧
        poisonEntry? s.protect.repairAddr.toNat t = none ∧
        (∀ n, n ≠ p.sector → storedData t n = storedData s n ∧ storedChecks t n = storedChecks s n) ∧
        t = { s with dram.bytes := t.dram.bytes, dram.checks := t.dram.checks, dram.channels := t.dram.channels
                     protect.table := t.protect.table, protect.repair := t.protect.repair, lut.measurements := t.lut.measurements, free := t.free }))

/-- A report changes nothing but the recorder, the aggregator, the event bits, START_CODE, forced tests and messages to the
host, whatever its code, and always completes. -/
def Obligations.ReportTouchesRecorderOnly : Prop :=
  ∀ (s : State) (code subject reporter : Half) (detail : Word),
    ∃ t, exec (.report code subject reporter detail) s = .next t ∧ ReportFrame s t

/-- At most 64 aggregates are open (R398) and the ring holds at most 4,096 records (R416), after any report. -/
def Obligations.RecorderStaysBounded : Prop :=
  ∀ (s t : State) (code subject reporter : Half) (detail : Word), s.lut.aggregates.length ≤ 64 → s.log.ring.length ≤ 4096 →
    exec (.report code subject reporter detail) s = .next t → t.lut.aggregates.length ≤ 64 ∧ t.log.ring.length ≤ 4096

/-- R398, R399: what a report does to the open aggregates: one that matches repeats; one that a graver aggregate of its
subject takes in is folded; any other opens an aggregate, committed at once where it is fatal. A code that is only returned
reports nothing. R413, R416, R417: a record committed takes the next SEQ, enters the ring last and unflushed, under the
power cycle of the moment, and SEQ goes on; where the ring has no place for its severity it is counted as dropped and takes
none. AGG_WINDOW_CLOSE, FLUSH, FLUSH_DONE and WINDOW_LATCH (R398, R415, R416, R419). -/
def Obligations.ReportsAndRecords : Prop :=
  (∀ (s : State) (code subject reporter : Half) (detail : Word),
    (severityOf code = none → exec (.report code subject reporter detail) s = .next s) ∧
    (∀ sev, severityOf code = some sev → s.lut.aggregates.any (matchAgg code subject) = true →
      ∃ t, exec (.report code subject reporter detail) s = .next t ∧ t.log = s.log ∧
        t.lut.aggregates = s.lut.aggregates.map fun a =>
          if a.code = code ∧ a.subject = subject then
            { a with repeats := satAdd a.repeats 1, lastStamp := s.lut.opHours, lastDetail := detail }
          else a) ∧
    (∀ sev b, severityOf code = some sev → s.lut.aggregates.any (matchAgg code subject) = false →
      foldTarget subject s.lut.aggregates = some b → sev.rank ≤ b.severity.rank →
      ∃ t, exec (.report code subject reporter detail) s = .next t ∧ t.log = s.log ∧ t.lut.folded = s.lut.folded + 1 ∧
        t.lut.aggregates = s.lut.aggregates.map fun a =>
          if a.code = b.code ∧ a.subject = b.subject then
            { a with repeats := satAdd a.repeats 1, lastStamp := s.lut.opHours, lastDetail := detail,
                     folded := satAdd a.folded 1, foldedCode := foldCode a.foldedCode code }
          else a) ∧
    (∀ sev, severityOf code = some sev → s.lut.aggregates.any (matchAgg code subject) = false →
      (∀ b, foldTarget subject s.lut.aggregates = some b → b.severity.rank < sev.rank) → sev ≠ .fatal →
      s.lut.aggregates.length < 64 → forcesTest code = false →
      ∃ t, exec (.report code subject reporter detail) s = .next t ∧ t.log = s.log ∧
        (Severity.error.rank ≤ sev.rank → t.lut.aggEvent = true) ∧
        t.lut.aggregates = s.lut.aggregates ++
          [{ code := code, subject := subject, reporter := reporter, severity := sev, repeats := 1, folded := 0,
             foldedCode := 0, stamp := s.lut.opHours, lastStamp := s.lut.opHours, detail := detail, lastDetail := detail }])) ∧
  (∀ (r : Record) (s : State),
    (makePlace s.log.ring r.severity = none → commitRecord r s = { s with log.dropped := s.log.dropped + 1 }) ∧
    (∀ ring n, makePlace s.log.ring r.severity = some (ring, n) →
      (commitRecord r s).log.nextSeq = s.log.nextSeq + 1 ∧
      (commitRecord r s).log.ring = ring ++
        [{ record := { r with seq := s.log.nextSeq, powerCycle := s.lut.powerCycles }, flushed := false }] ∧
      (commitRecord r s).lut.recordEvent = true)) ∧
  (∀ s : State,
    (∀ code subject a, s.lut.aggregates.find? (matchAgg code subject) = some a →
      ∃ t, exec (.aggWindowClose code subject) s = .next t ∧
        t = commitAggregate a { s with lut.aggregates := removeFirst (matchAgg code subject) s.lut.aggregates } ∧
        t.lut.aggregates = removeFirst (matchAgg code subject) s.lut.aggregates) ∧
    (s.log.flushWaiting = true → s.log.flushing = none → flashOk 0 s = true →
      s.nvm.log.length + (unflushed s).length ≤ 524288 - 256 → exec .flush s = .next { s with
        log.flushWaiting := false
        log.flushHeld := false
        log.flushing := some ((unflushed s).map (·.record.seq))
        log.newestOpen := false
        nvm.log := s.nvm.log ++ (unflushed s).map (·.record)
        lut.held := s.lut.held.filter (· != .log) }) ∧
    (s.log.flushWaiting = true → s.log.flushing = none → flashOk 0 s = false →
      exec .flush s = .next (holdWrite .log { s with log.flushHeld := true })) ∧
    (∀ seqs, s.log.flushing = some seqs → s.log.flushWaiting = false → exec .flushDone s = .next { s with
      log.flushing := none
      log.flushes := s.log.flushes + 1
      log.ring := s.log.ring.map fun e => if seqs.contains e.record.seq then { e with flushed := true } else e }) ∧
    (hostFree s = true → ∀ eight : Bool,
      (∀ x, nextRecord s.log.cursor (heldRecords s) = some x → exec (.windowLatch eight) s = .next { s with
        log.snapshot := some x
        log.cursor := x.record.seq + 1
        port.answer := .data ((quadBytes ((recordWords x.record).getD 0 0)).take (if eight then 8 else 4)) }) ∧
      (nextRecord s.log.cursor (heldRecords s) = none → exec (.windowLatch eight) s = .next { s with
        log.snapshot := none
        port.answer := .data ((quadBytes 0).take (if eight then 8 else 4)) })))

/-- R143, R160, R163: a code a unit raises: STATUS.CODE keeps the first, an overrun is marked, the tile's UNIT_EVENT stands,
and nothing else of the near-bank half changes. START_PHRASE to one unit (R18, R25, R139, R142-R145, R172, R190, R258,
R286): an idle unit that may start takes its arguments, its registers and the program counter, the pair is held for the
declared cycles and opens the row that the arguments name, and the collector counts the declared sectors; a busy unit
ignores it with 0x8001; a phrase that may not start yet changes nothing. Before an attention phrase the scales of its page
and the row register are written. START_PHRASE to all the units of a channel (R139, R150): every unit that is reached and
may start begins; what the plan declares of the fenced ones is supplied to the collector as poison. PHRASE_COMMIT and
PHRASE_HOLD_END (R82, R83, R137, R145, R163): the pending sectors enter the output buffer in their order, too few padded
with poison, too many cut with the last one poisoned (0x8004); a phrase that has not ended is reported with 0x8005; the hold
ends, the debt of both banks of the pair is repaid, and what waited goes on. -/
def Obligations.PhraseStartsAndEnds : Prop :=
  (∀ (code : Half) (u : Nat) (s : State),
    unit (unitCode code u s) u = { unit s u with
      status.code := if (unit s u).status.code = 0 then code else (unit s u).status.code
      status.overrun := (unit s u).status.overrun || code == 0x8004 || code == 0x8005 } ∧
    (∀ k, k ≠ u → unit (unitCode code u s) k = unit s k) ∧
    ((unit s u).status.code = 0 → u / 1024 ∈ (unitCode code u s).events.unit) ∧
    (unitCode code u s).near = { s.near with units := (unitCode code u s).near.units } ∧
    (unitCode code u s).dram = s.dram ∧ (unitCode code u s).dense = s.dense ∧ (unitCode code u s).scratch = s.scratch) ∧
  (∀ (s : State) (c : Fin 512) (n : Fin 16) (addr : Fin 512) (p : PhrasePlan), ∀ u, u = 16 * c.val + n.val →
    ∀ e, e = dirEntry s u addr → channelReady s c = true → tileTripped s (c.val / 64) = false → unitFenced s u = false →
    (unit s u).isolated = false → unitUnderTest s u = false → releasesPending s p.after = false →
    (∀ x, p.expert = some x → expertAllows s c false n addr x = true) →
    (p.attn = none →
      ((unit s u).run.isSome = true → exec (.startPhrase c false n addr p) s =
        .next (onChan c (fun h => { h with issuedAt := some s.us }) (unitCode 0x8001 u s))) ∧
      ((unit s u).run = none → phraseReady s u addr p = false → exec (.startPhrase c false n addr p) s = .next s) ∧
      ((unit s u).run = none → phraseReady s u addr p = true → ∃ t, exec (.startPhrase c false n addr p) s = .next t ∧
        unit t u = { unit s u with
          args := (unit s u).shadow
          lastStart := addr.val
          x := startRegs (unit s u).shadow
          xMarks := (unit s u).shadowMarks
          run := (unit t u).run } ∧
        (∃ r, (unit t u).run = some r ∧ r.pc = addr.val ∧ r.elapsed = 0 ∧ r.ended = false ∧ r.pendingOut = [] ∧
          r.owes = dirSectors e ∧ r.reduction = p.reduction ∧ r.segMask = BitVec.ofNat 16 (dirSegMask e)) ∧
        tabFind? (chan t c).holds n.val = some (dirCycles e) ∧ (chan t c).issuedAt = some s.us ∧
        (∀ b, b / 2 = n.val → bank (chan t c) b =
          if entryValid ((unit s u).shadow.getD 0 0) = true ∧ entryRow ((unit s u).shadow.getD 0 0) < 20480
          then openIn (entryRow ((unit s u).shadow.getD 0 0)) (bank (chan s c) b) else bank (chan s c) b) ∧
        nearChan t c = { nearChan s c with
          phrases := (nearChan s c).phrases + 1
          phraseCycles := (nearChan s c).phraseCycles + BitVec.ofNat 64 (dirCycles e) } ∧
        (collector t (collectorOf c)).reductions =
          joinReduction ⟨p.reduction, p.width, p.isMax, dirSectors e, []⟩ (collector s (collectorOf c)).reductions ∧
        (∀ k, k ≠ collectorOf c → collector t k = collector s k) ∧
        (∀ k, k ≠ u → unit t k = unit s k) ∧ (∀ k, k ≠ c.val → chan t k = chan s k) ∧
        t = { s with dram.channels := t.dram.channels, near := t.near })) ∧
    (∀ a, p.attn = some a → ∀ d, cacheDecl s = some d → ∀ g, attnPage s d a = some g → ∀ q, place s g.granule = some q →
      attnAllows s u addr a = true → (unit s u).run = none → (unit (prepared p u s) u).run = none →
      phraseReady (prepared p u s) u addr p = true → ∃ t, exec (.startPhrase c false n addr p) s = .next t ∧
        (∃ r, (unit t u).run = some r ∧ r.pc = addr.val ∧ r.ended = false) ∧
        (unit t u).scales = memWriteL (unit s u).scales (if a.value then 512 else 0)
          ((attnScales s d g a).flatMap fun w => leBytes 4 w.toNat) ∧
        (unit t u).lb = memWriteL (unit s u).lb (if a.value then 4 else 0)
          (leBytes 4 (BitVec.ofNat 32 (rowRegister a g.half (2 * q.row + q.bank % 2)) : Word).toNat) ∧
        (∀ k, k ≠ u → unit t k = unit s k))) ∧
  (∀ (s : State) (c : Fin 512) (n : Fin 16) (addr : Fin 512) (p : PhrasePlan), channelReady s c = true →
    tileTripped s (c.val / 64) = false → releasesPending s p.after = false → p.attn = none →
    (∀ x, p.expert = some x → expertAllows s c true n addr x = true) →
    (∀ u, u ∈ targets s c true n → unitUnderTest s u = false ∧ (unit s u).run = none ∧ phraseReady s u addr p = true) →
    ∃ t, exec (.startPhrase c true n addr p) s = .next t ∧
      (∀ u, u ∈ targets s c true n → (unit t u).args = (unit s u).shadow ∧ (unit t u).lastStart = addr.val ∧
        (unit t u).x = startRegs (unit s u).shadow ∧ (unit t u).run.isSome = true ∧
        tabFind? (chan t c).holds (u % 16) = some (dirCycles (dirEntry s u addr))) ∧
      (∀ u, u ∉ targets s c true n → unit t u = unit s u) ∧ (∀ k, k ≠ c.val → chan t k = chan s k) ∧
      (∀ x, x ∈ p.declared → 16 * c.val + x.1 ∈ addressed s c true n → unitFenced s (16 * c.val + x.1) = true → ∀ i, i ∈ x.2 →
        ∃ r, r ∈ (collector t (collectorOf c)).reductions ∧ r.number = p.reduction ∧ i ∈ r.poisoned) ∧
      t = { s with dram.channels := t.dram.channels, near := t.near }) ∧
  (∀ (s : State) (u : Fin 8192),
    (∀ r, (unit s u).run = some r → r.ended = true → r.pendingOut.length = r.outSectors →
      ∃ t, exec (.phraseCommit u) s = .next t ∧ OnlyUnit u s t ∧ unit t u = { unit s u with
        out := (unit s u).out ++ r.pendingOut
        run := none
        status.poisonSeen := (unit s u).status.poisonSeen || r.pendingOut.any (·.sector.poison) }) ∧
    (∀ r, (unit s u).run = some r → r.ended = true → r.pendingOut.length < r.outSectors →
      ∃ w, OnlyUnit u s w ∧ (unit w u).run = none ∧
        (unit w u).out = (unit s u).out ++ r.pendingOut ++ List.replicate (r.outSectors - r.pendingOut.length)
          { tag := 0, sector := .poisoned, reduction := r.reduction, plan := r.plan } ∧
        exec (.phraseCommit u) s = .next (unitCode 0x8004 u w)) ∧
    (∀ r, (unit s u).run = some r → r.ended = true → r.outSectors < r.pendingOut.length → 0 < r.outSectors →
      ∀ o, r.pendingOut[r.outSectors - 1]? = some o →
      ∃ w, OnlyUnit u s w ∧ (unit w u).run = none ∧
        (unit w u).out = (unit s u).out ++ r.pendingOut.take (r.outSectors - 1) ++ [{ o with sector.poison := true }] ∧
        exec (.phraseCommit u) s = .next (unitCode 0x8004 u w)) ∧
    (∀ r, (unit s u).run = some r → r.ended = false → r.pendingOut.length = r.outSectors →
      ∃ w, OnlyUnit u s w ∧ (unit w u).run = none ∧ exec (.phraseCommit u) s = .next (unitCode 0x8005 u w)) ∧
    (∀ c, c = u.val / 16 → ∀ k, k = u.val % 16 → (tabFind? (chan s c).holds k).isSome = true → (unit s u).run = none →
      (chan s c).slicing = false → BanksLegal s → ∃ t, exec (.phraseHoldEnd u) s = .next t ∧
        t = { s with dram.channels := t.dram.channels, pending := s.deferred ++ s.pending, deferred := [] } ∧
        tabFind? (chan t c).holds k = none ∧
        (∀ b, b / 2 = k → bank (chan t c) b = { bank (chan s c) b with debt := 0 }) ∧
        (∀ b, b / 2 ≠ k → bank (chan t c) b = bank (chan s c) b) ∧
        (∀ j, j ≠ k → tabFind? (chan t c).holds j = tabFind? (chan s c).holds j) ∧ (∀ j, j ≠ c → chan t j = chan s j)))

/-- ARG_WRITE, BCAST, STORE_LOAD and POS_WRITE (R23, R25, R88, R139, R142, R146, R147, R150, R180, R184): every unit that
the command reaches takes what is there for it, all sixteen of the channel or the one named, and no other unit does;
WRITE_BEATS counts the beats. A list region of a bank that is held is waited for. R139: what STORE_LOAD loads:
micro-program, scale tables and frequencies to their stores, byte by byte from 256 times the burst, and of the unit beside the
store only its marks and check bits; a burst beyond a store is without effect. -/
def Obligations.UnitWrites : Prop :=
  (∀ (s : State) (c : Fin 512) (all : Bool) (n : Fin 16), channelReady s c = true → ∀ o, o = owner s (c.val / 64) →
    (∀ (half : Fin 2) (skip : BitVec 4) (lanes : List ArgLane), lanes.all (lanePresent o) = true →
      ∃ t, exec (.argWrite c all n half skip lanes) s = .next t ∧
        t = { s with near.units := t.near.units, dram.channels := t.dram.channels } ∧
        chan t c = { chan s c with writeBeats := (chan s c).writeBeats + 1 } ∧ (∀ k, k ≠ c.val → chan t k = chan s k) ∧
        (∀ u, u ∉ addressed s c all n → unit t u = unit s u) ∧
        ∀ u, u ∈ addressed s c all n → unit t u = { unit s u with
          shadow := [0, 1, 2, 3].foldl (writeLane half skip (lanes.map (laneValue o))) (unit s u).shadow
          shadowMarks := (unit t u).shadowMarks }) ∧
    (∀ (mode : Fin 4) (slot : Fin 8) (dest : Fin 256) (p : BcastPlan), tileTripped s (c.val / 64) = false →
      ∀ xs, xs = finishedBurst (o.vector p.vector) p.first → (o.vector p.vector).present p.first 128 = true →
      (∀ u, u ∈ targets s c all n → segmentBusy s mode dest u = false ∧ (unit s u).bad = []) →
      (mode = 1 ∨ mode = 2 → ∀ u, u ∈ targets s c all n → tableValid (unit s u).tables slot = true) →
      (mode = 3 → ∀ u, u ∈ targets s c all n → tableValid (unit s u).tables 7 = true) →
      ∃ t, exec (.bcast c all n mode slot dest p) s = .next t ∧
        t = { s with near.units := t.near.units, dram.channels := t.dram.channels } ∧
        chan t c = { chan s c with writeBeats := (chan s c).writeBeats + 8 } ∧ (∀ k, k ≠ c.val → chan t k = chan s k) ∧
        (∀ u, u ∉ targets s c all n → unit t u = unit s u) ∧
        ∀ u, u ∈ targets s c all n → ∀ a, a = (if mode = 2 then 128 * dest.val else 256 * (dest.val % 128)) →
          unit t u = { unit s u with
            act := (unit t u).act, actMarks := (unit t u).actMarks
            segments := if p.closes then tabPut (unit s u).segments (a / 2048) p.vector
              else tabDel (unit s u).segments (a / 2048) } ∧
          ((unit t u).act, (unit t u).actMarks) = putSectors (unit s u).act (unit s u).actMarks a
            (((chunk16 (if mode = 2 then 4 else 8) (inputPath (unit s u) mode slot
                (if mode = 2 then dest.val else dest.val % 128) xs)).zip (inputMarks mode xs)).map fun q =>
              { data := packHalves q.1, poison := q.2 || modeMarked (unit s u) mode slot })) ∧
    (∀ (store : Fin 8) (burst : Fin 1024) (src : StoreSource),
      (sourceWaits s src = true → exec (.storeLoad c all n store burst src) s =
        .next (deferCommand (.storeLoad c all n store burst src) s)) ∧
      (sourceWaits s src = false → sourcePresent o src = true → (∀ u, u ∈ targets s c all n → (unit s u).run = none) →
        ∃ t, exec (.storeLoad c all n store burst src) s = .next t ∧
          (∀ xs, src = .plan xs → t = { s with near.units := t.near.units, dram.channels := t.dram.channels } ∧
            chan t c = { chan s c with writeBeats := (chan s c).writeBeats + 8 } ∧ ∀ k, k ≠ c.val → chan t k = chan s k) ∧
          (∀ u, u ∉ targets s c all n → unit t u = unit s u) ∧
          ∀ u, u ∈ targets s c all n → unit t u = loadStore store burst (storeBeats src o s).1 (unit s u)) ∧
      (∀ u xs, targets s c all n = [u] → (unit s u).run.isSome = true →
        exec (.storeLoad c all n store burst (.plan xs)) s = .next (sendBeats c 8 (unitCode 0x8002 u s)))) ∧
    (∀ lanes : List Word, ∃ t, exec (.posWrite c all n lanes) s = .next t ∧
      t = { s with near.units := t.near.units, dram.channels := t.dram.channels } ∧
      chan t c = { chan s c with writeBeats := (chan s c).writeBeats + 1 } ∧ (∀ k, k ≠ c.val → chan t k = chan s k) ∧
      (∀ u, u ∉ addressed s c all n → unit t u = unit s u) ∧
      ∀ u, u ∈ addressed s c all n → unit t u = { unit s u with
        positions := (List.range 8).map fun i => (lanes.getD i 0).toNat % 2 ^ 24
        log2k := (lanes.getD 0 0).toNat / 2 ^ 24 % 4 })) ∧
  (∀ (burst : Nat) (xs : List Sector) (v : Machine.Unit) (i : Nat), xs.length = 8 → i < 256 →
    Memory.wf v.micro = true → Memory.wf v.scales = true → Memory.wf v.freqs = true →
    (burst < 16 → loadStore 0 burst xs v = { v with
        micro := (loadStore 0 burst xs v).micro, storeMarks := (loadStore 0 burst xs v).storeMarks
        bad := (loadStore 0 burst xs v).bad, loaded := true } ∧
      memRead (loadStore 0 burst xs v).micro (256 * burst + i) =
        (sectorBytes (xs.getD (i / 32) .zero).data).getD (i % 32) 0) ∧
    (burst < 16 → loadStore 2 burst xs v = { v with
        scales := (loadStore 2 burst xs v).scales, storeMarks := (loadStore 2 burst xs v).storeMarks
        bad := (loadStore 2 burst xs v).bad } ∧
      memRead (loadStore 2 burst xs v).scales (256 * burst + i) =
        (sectorBytes (xs.getD (i / 32) .zero).data).getD (i % 32) 0) ∧
    (burst < 2 → loadStore 4 burst xs v = { v with
        freqs := (loadStore 4 burst xs v).freqs, storeMarks := (loadStore 4 burst xs v).storeMarks
        bad := (loadStore 4 burst xs v).bad } ∧
      memRead (loadStore 4 burst xs v).freqs (256 * burst + i) =
        (sectorBytes (xs.getD (i / 32) .zero).data).getD (i % 32) 0) ∧
    (∀ k, k < 16 → burst < 16 → ∀ st, st = 0 ∨ st = 2 → k = i / 32 →
      storeMarked (loadStore st burst xs v) st (256 * burst + 32 * k) 32 = (xs.getD k .zero).poison) ∧
    (16 ≤ burst → loadStore 0 burst xs v = v ∧ loadStore 2 burst xs v = v) ∧
    (2 ≤ burst → loadStore 4 burst xs v = v) ∧ (33 ≤ burst → loadStore 1 burst xs v = v) ∧
    (65 ≤ burst → loadStore 3 burst xs v = v) ∧ (32 ≤ burst → loadStore 5 burst xs v = v))

/-- MAIL_WRITE, OB_READ_OUTPUT, OB_READ_SAVED_STATE, OB_READ_RELAY and STATUS_READ (R88, R118, R137, R140, R143, R145, R152,
R153, R155). The exchange between units (R151-R154): the message whose turn it is lands in its slot, poisoned where a word
of it was uncorrectable; one that waits for the die bus within its own channel takes the chain, or is relayed where the
chain is cut; a grant that does not complete marks the die bus faulted (0x8012). -/
def Obligations.UnitReads : Prop :=
  (∀ (s : State) (c : Fin 512) (n : Fin 16), channelReady s c = true → ∀ u, u = 16 * c.val + n.val →
    ∀ v, v = unit s u →
    (∀ (slot : Fin 16) x, s.near.relayed.find? (relayedFor (c.val / 64) (16 * (c.val % 64) + n.val) slot) = some x →
      ((tabGet {} v.mail slot).valid = false → ∃ t, exec (.mailWrite c n slot) s = .next t ∧
        unit t u = { v with mail := (unit t u).mail, bad := (unit t u).bad } ∧
        tabGet {} (unit t u).mail slot = { valid := true, poison := x.2.poison, data := messageBits x.2 } ∧
        (∀ k, k ≠ slot.val → tabGet {} (unit t u).mail k = tabGet {} v.mail k) ∧
        nearChan t c = { nearChan s c with relayed := (nearChan s c).relayed + 1 } ∧
        t.near.relayed = removeFirst (relayedFor (c.val / 64) (16 * (c.val % 64) + n.val) slot) s.near.relayed ∧
        chan t c = { chan s c with writeBeats := (chan s c).writeBeats + 2 } ∧ (∀ k, k ≠ c.val → chan t k = chan s k) ∧
        (∀ k, k ≠ u → unit t k = unit s k) ∧
        t = { s with near.units := t.near.units, near.channels := t.near.channels, near.relayed := t.near.relayed
                     dram.channels := t.dram.channels }) ∧
      ((tabGet {} v.mail slot).valid = true → ∃ t, exec (.mailWrite c n slot) s = .next t ∧
        tabGet {} (unit t u).mail slot = { valid := true, poison := true, data := messageBits x.2 } ∧
        (unit t u).status.mailOverrun = true ∧ (unit t u).status.code ≠ 0 ∧
        (∀ k, k ≠ u → unit t k = unit s k) ∧ t.dense = s.dense)) ∧
    (∀ count : Fin 8, mayRead s c (v.out.take (count.val + 1)) = true →
      (count.val < v.out.length → ∃ t, exec (.obReadOutput c n count) s = .next t ∧
        (chan t c) = { chan s c with
          delivered := tagBeat ((v.out.take (count.val + 1)).map (·.tag)) :: (v.out.take (count.val + 1)).map (·.sector)
          readBeats := (chan s c).readBeats + BitVec.ofNat 64 (count.val + 2)
          poisonDelivered := (chan s c).poisonDelivered +
            BitVec.ofNat 64 ((v.out.take (count.val + 1)).filter (·.sector.poison)).length } ∧
        unit t u = { v with out := v.out.drop (count.val + 1) } ∧
        collector t (collectorOf c) = { collector s (collectorOf c) with
          inbox := (collector s (collectorOf c)).inbox ++ v.out.take (count.val + 1) } ∧
        nearChan t c = { nearChan s c with
          outputSectors := (nearChan s c).outputSectors + BitVec.ofNat 64 (count.val + 1) } ∧
        (∀ k, k ≠ u → unit t k = unit s k) ∧ (∀ k, k ≠ c.val → chan t k = chan s k) ∧
        (∀ k, k ≠ collectorOf c → collector t k = collector s k) ∧
        t = { s with dram.channels := t.dram.channels, near.units := t.near.units, near.channels := t.near.channels
                     near.collectors := t.near.collectors }) ∧
      (v.out.length ≤ count.val → ∃ t, exec (.obReadOutput c n count) s = .next t ∧
        (chan t c).delivered = tagBeat (v.out.map (·.tag) ++ List.replicate (count.val + 1 - v.out.length) 0) ::
          (v.out.map (·.sector) ++ List.replicate (count.val + 1 - v.out.length) .poisoned) ∧
        (collector t (collectorOf c)).inbox = (collector s (collectorOf c)).inbox ++ v.out ∧
        (unit t u).out = [] ∧ (unit t u).status.code ≠ 0)) ∧
    (∃ t, exec (.statusRead c n) s = .next t ∧
      unit t u = { v with unitStatus := statusWord v, status := {} } ∧ (∀ k, k ≠ u → unit t k = unit s k) ∧
      (chan t c).delivered = [quadSector (BitVec.ofNat 64 v.lastStart :: v.args.take 3) false,
        quadSector (v.args.drop 3 ++ [statusWord v]) false] ∧
      (chan t c).readBeats = (chan s c).readBeats + 2 ∧ (∀ k, k ≠ c.val → chan t k = chan s k) ∧
      t.dram.rereads = (queueRereads u v.status.errAt.toList s).dram.rereads ∧
      t = { s with near.units := t.near.units, dram.rereads := t.dram.rereads, dram.channels := t.dram.channels }) ∧
    (∀ burst : Fin 144, ∃ t, exec (.obReadSavedState c n burst) s = .next t ∧
      (chan t c).delivered = savedBurst v burst ∧ (chan t c).readBeats = (chan s c).readBeats + 8 ∧
      (∀ k, k ≠ u → unit t k = unit s k) ∧ (∀ k, k ≠ c.val → chan t k = chan s k) ∧
      (burst.val ≠ 13 → unit t u = v ∧ t = { s with dram.channels := t.dram.channels }) ∧
      (burst.val = 13 → unit t u = { v with errors := [], listOverflow := false } ∧
        t.dram.rereads = (queueRereads u v.errors s).dram.rereads ∧
        (chan t c).dronePairs = (chan s c).dronePairs ++ (if v.listOverflow then [40960 * n.val] else []) ∧
        t = { s with near.units := t.near.units, dram.rereads := t.dram.rereads, dram.channels := t.dram.channels })) ∧
    (∀ m rest, v.relay = m :: rest → ∃ t, exec (.obReadRelay c n) s = .next t ∧
      unit t u = { v with relay := rest } ∧ t.near.relayed = s.near.relayed ++ [(c.val / 64, m)] ∧
      (chan t c).delivered = [⟨(messageBits m).extractLsb' 0 256, m.poison⟩, ⟨(messageBits m).extractLsb' 256 256, m.poison⟩] ∧
      (∀ k, k ≠ u → unit t k = unit s k) ∧ (∀ k, k ≠ c.val → chan t k = chan s k) ∧
      t = { s with near.units := t.near.units, near.relayed := t.near.relayed, dram.channels := t.dram.channels }) ∧
    (v.relay = [] → ∃ t, exec (.obReadRelay c n) s = .next t ∧
      (chan t c).delivered = [.zero, .zero] ∧ t = { s with dram.channels := t.dram.channels })) ∧
  (∀ (s : State) (i : Nat) (f : Flight), s.near.flights[i]? = some f →
    (∀ corrected, landsNext s i f = true → (chan s ((1024 * f.tile + f.message.dest) / 16)).failed = false →
      (tabGet {} (unit s (1024 * f.tile + f.message.dest)).mail f.message.slot).valid = false →
      ∃ t, exec (.messageArrive i corrected []) s = .next t ∧
        t.near.flights = s.near.flights.eraseIdx i ∧
        tabGet {} (unit t (1024 * f.tile + f.message.dest)).mail f.message.slot =
          { valid := true, poison := f.message.poison, data := messageBits f.message } ∧
        (∀ k, k ≠ 1024 * f.tile + f.message.dest → unit t k = unit s k) ∧
        dieBus t (dieOf f.tile f.message.dest) = { dieBus s (dieOf f.tile f.message.dest) with
          corrected := (dieBus s (dieOf f.tile f.message.dest)).corrected + BitVec.ofNat 32 corrected
          messages := (dieBus s (dieOf f.tile f.message.dest)).messages + if f.path = .dieBus then 1 else 0
          granted := if f.path = .dieBus then f.message.src % 64 else (dieBus s (dieOf f.tile f.message.dest)).granted } ∧
        t = { s with near.flights := t.near.flights, near.units := t.near.units, near.dies := t.near.dies }) ∧
    (∀ corrected k ks, landsNext s i f = true → (chan s ((1024 * f.tile + f.message.dest) / 16)).failed = false →
      ∃ t, exec (.messageArrive i corrected (k :: ks)) s = .next t ∧
        (tabGet {} (unit t (1024 * f.tile + f.message.dest)).mail f.message.slot).poison = true ∧
        t.near.flights = s.near.flights.eraseIdx i ∧ (unit t (1024 * f.tile + f.message.dest)).status.code ≠ 0) ∧
    (f.path = .dieBus → f.message.dest / 16 = f.message.src / 16 → ∀ u, u = 1024 * f.tile + f.message.src →
      ∀ cut, cut = (match (unit s u).run with | some r => r.cutLinks | none => (nearChan s (u / 16)).chainFaulted) →
      (chainCut cut f.message.src f.message.dest = false → exec (.chainFallback i) s =
        .next (fixPath u f.message.dest .chain { s with near.flights := s.near.flights.set i { f with path := .chain } })) ∧
      (chainCut cut f.message.src f.message.dest = true → exec (.chainFallback i) s =
        .next (relayMessage u f.message (fixPath u f.message.dest .relay
          { s with near.flights := s.near.flights.eraseIdx i })))) ∧
    (∀ d : Fin 128, (dieBus s d).faulted = false → ∃ w,
      exec (.dieBusGrantTimeout d) s = .next (Machine.reportFree 0x8012 (subjDieBus (d.val / 16) (d.val % 16))
        (subjDieBus (d.val / 16) (d.val % 16)) w) ∧
      dieBus w d = { dieBus s d with faulted := true } ∧ (∀ k, k ≠ d.val → dieBus w k = dieBus s k) ∧
      w = { s with near.dies := w.near.dies }))

/-- PHRASE, JUMP, LOOP, END (R164, R165): the declaration is taken, the sequencer goes to the target, a loop is entered, the
phrase ends; and the path of the sequencer through a loop, whose body runs COUNT times. R145, R165: an operation that does
not fit the cycles its phrase declared ends the phrase with 0x8005, without its effect. SETI, ALU and LDL (R116, R119, R162,
R165, R174, R206): the register named takes the value, X0 and the read-only registers none; a division by zero gives 0 with
0x8846; a poisoned sector of the local buffer is seen and marks the register, and a byte whose check bits are uncorrectable
poisons its sector and is counted. -/
def Obligations.MicroControl : Prop :=
  ((∀ (s : State) (u : Fin 8192) (r : PhraseRun) (w : Nat),
    (MicroClean 1 0 u r w s → ∃ t, exec (.phrase u) s = .next t ∧ OnlyUnit u s t ∧
      unit t u = { unit s u with run := some (advancePc 0 { r with
        cycles := bits w 57 47, outSectors := bits w 46 39, segMask := BitVec.ofNat 16 (bits w 38 23)
        writes := bit w 22, sends := bit w 21 }) }) ∧
    (MicroReady 2 0 u r w s → ∃ t, exec (.jump u) s = .next t ∧ OnlyUnit u s t ∧
      unit t u = { unit s u with run := some { r with pc := bits w 8 0 } }) ∧
    (MicroReady 3 0 u r w s → ∃ t, exec (.microLoop u) s = .next t ∧ OnlyUnit u s t ∧
      unit t u = { unit s u with run := some { r with
        pc := r.pc + 1, loops := { first := r.pc + 1, last := bits w 45 37, left := bits w 57 46 } :: r.loops } }) ∧
    (MicroClean 4 0 u r w s → ∃ t, exec (.microEnd u) s = .next t ∧ OnlyUnit u s t ∧
      unit t u = { unit s u with run := some (advancePc 0 { r with ended := true }) })) ∧
  (∀ (pc : Nat) (f : LoopFrame) (rest : List LoopFrame),
    nextPc pc [] = (pc + 1, []) ∧ (f.last ≠ pc → nextPc pc (f :: rest) = (pc + 1, f :: rest)) ∧
    (f.last = pc → 1 < f.left → nextPc pc (f :: rest) = (f.first, { f with left := f.left - 1 } :: rest)) ∧
    (f.last = pc → f.left ≤ 1 → nextPc pc (f :: rest) = nextPc pc rest))) ∧
  (∀ (s : State) (u : Fin 8192) (r : PhraseRun) (cost : Nat → Nat) (c : Instr) (op : Nat),
    (unit s u).run = some r → r.ended = false → bits (microWord (unit s u) r.pc) 63 58 = op →
    r.cycles < r.elapsed + cost (microWord (unit s u) r.pc) →
    ((c = .seti u ∧ op = 8 ∧ cost = fun _ => 1) ∨ (c = .alu u ∧ op = 9 ∧ cost = fun _ => 1) ∨
      (∃ k l, c = .ldl u k l ∧ op = 0xA ∧ cost = fun _ => 1) ∨ (c = .wstream u ∧ op = 0x15 ∧ cost = fun _ => 128) ∨
      (c = .sqsum u ∧ op = 0x20 ∧ cost = fun _ => 8) ∨ (c = .recv u ∧ op = 0x22 ∧ cost = fun _ => 2) ∨
      (c = .send u ∧ op = 0x21 ∧ cost = fun w => bits w 43 41 + 1) ∨
      (∃ k fl, c = .pick u k fl ∧ op = 0x13 ∧ cost = fun _ => 128) ∨
      (∃ k fl, c = .addback u k fl ∧ op = 0x14 ∧ cost = fun _ => 128) ∨
      (∃ k fl, c = .score u k fl ∧ op = 0x11 ∧ cost = fun w => max 128 (64 * (bits w 49 46 + 1))) ∨
      (∃ k fl, c = .value u k fl ∧ op = 0x12 ∧ cost = fun w => 64 * (bits w 49 46 + 1) + 16) ∨
      (∃ k fl, c = .mvs u k fl ∧ op = 0x10 ∧ cost = mvsCost)) →
    ∃ v, OnlyUnit u s v ∧ unit v u = { unit s u with run := some { r with ended := true } } ∧
      exec c s = .next (unitCode 0x8005 u v)) ∧
  (∀ (s : State) (u : Fin 8192) (r : PhraseRun) (w : Nat),
    (MicroClean 8 1 u r w s → ∃ t, exec (.seti u) s = .next t ∧ OnlyUnit u s t ∧ unit t u = { unit s u with
      x := if 1 ≤ bits w 57 54 ∧ bits w 57 54 ≤ 12
        then (unit s u).x.set (bits w 57 54) (BitVec.ofNat 32 (bits w 31 0)) else (unit s u).x
      run := some (advancePc 1 r) }) ∧
    (MicroClean 9 1 u r w s →
      divByZero (bits w 45 42) (BitVec.ofNat 32 (xreg s u (bits w 49 46) + bits w 31 0)) = false →
      ∃ t, exec (.alu u) s = .next t ∧ OnlyUnit u s t ∧ unit t u = { unit s u with
        x := if 1 ≤ bits w 57 54 ∧ bits w 57 54 ≤ 12
          then (unit s u).x.set (bits w 57 54) (aluFn (bits w 45 42) (BitVec.ofNat 32 (xreg s u (bits w 53 50)))
            (BitVec.ofNat 32 (xreg s u (bits w 49 46) + bits w 31 0))) else (unit s u).x
        run := some (advancePc 1 r) }) ∧
    (MicroClean 9 1 u r w s →
      divByZero (bits w 45 42) (BitVec.ofNat 32 (xreg s u (bits w 49 46) + bits w 31 0)) = true →
      ∃ t, exec (.alu u) s = .next t ∧ (unit t u).status.code ≠ 0 ∧ (unit t u).run = some (advancePc 1 r) ∧
        (1 ≤ bits w 57 54 → bits w 57 54 ≤ 12 → (unit t u).x = (unit s u).x.set (bits w 57 54) 0) ∧
        (∀ k, k ≠ u.val → unit t k = unit s k) ∧ t.dram = s.dram) ∧
    (∀ n, MicroClean 0xA 1 u r w s → ∀ a, a = 4 * ((xreg s u (bits w 53 50) + bits w 12 0) % 2048) →
      (lbMarked (unit s u) a 4 = false → ∃ t, exec (.ldl u n []) s = .next t ∧
        unit t u = { unit s u with
          x := if 1 ≤ bits w 57 54 ∧ bits w 57 54 ≤ 12
            then (unit s u).x.set (bits w 57 54) (memWord (unit s u).lb a) else (unit s u).x
          run := some (advancePc 1 r) } ∧ (∀ k, k ≠ u.val → unit t k = unit s k) ∧
        t = { s with near.units := t.near.units, scratch.corrected := t.scratch.corrected } ∧
        (n = 0 → t.scratch.corrected = s.scratch.corrected)) ∧
      (lbMarked (unit s u) a 4 = true → ∃ t, exec (.ldl u n []) s = .next t ∧
        (unit t u).status.poisonSeen = true ∧ (unit t u).run = some (advancePc 1 r) ∧
        (1 ≤ bits w 57 54 → bits w 57 54 ≤ 12 → bits w 57 54 ∈ (unit t u).xMarks)) ∧
      ∃ t, exec (.ldl u n [65536 * 5 + a]) s = .next t ∧
        (unit t u).status.poisonSeen = true ∧ a / 32 ∈ (unit t u).lbMarks ∧ (unit t u).bad = [] ∧
        (∀ k, k ≠ u.val → unit t k = unit s k) ∧
        tabGet 0 t.scratch.uncorrectable (u.val / 1024) = tabGet 0 s.scratch.uncorrectable (u.val / 1024) + 1))

/-- What a unit's read of its own rows delivers (R111, R118, R148): each sector as the decoder makes it, marks on the
channel counted, nothing stored outside the sectors read, and of the unit only STATUS and the error list. -/
def Obligations.UnitReadsOwnRows : Prop :=
  ∀ (s : State) (u bankBit row col i k : Nat) (fs : List BitFlip), (chan s (u / 16)).failed = false →
    (unitReads u bankBit row fs k col i s).1 = (List.range k).map (fun j =>
      (asStored fs (sectorOf (u / 16) (2 * (u % 16) + bankBit) row (col + j)) (i + j) s).sector) ∧
    (∀ n, n < sectorOf (u / 16) (2 * (u % 16) + bankBit) row col ∨
        sectorOf (u / 16) (2 * (u % 16) + bankBit) row col + k ≤ n →
      storedData (unitReads u bankBit row fs k col i s).2 n = storedData s n) ∧
    (∀ j, j ≠ u → unit (unitReads u bankBit row fs k col i s).2 j = unit s j) ∧
    unit (unitReads u bankBit row fs k col i s).2 u = { unit s u with
      status := (unit (unitReads u bankBit row fs k col i s).2 u).status
      errors := (unit (unitReads u bankBit row fs k col i s).2 u).errors
      listOverflow := (unit (unitReads u bankBit row fs k col i s).2 u).listOverflow }

/-- MVS (R165-R167, R174): out of range it queues its sectors poisoned with 0x8842; else each granule read queues two
sectors for each of its T positions, the accumulators take the row partials; either way X1 goes to the next row, and no unit
but this one changes. SCORE and VALUE (R168, R171, R174): the sectors of every head are queued in their order with their
tags, computed from the granule read and the unit's stores; the bank's rows close; where the row is out of range the same
sectors are queued poisoned, with 0x8842 and no bank access. -/
def Obligations.MicroArithmetic : Prop :=
  (∀ (s : State) (u : Fin 8192) (r : PhraseRun) (w : Nat), MicroClean 0x10 (mvsCost w) u r w s →
    ∀ (inner : Nat) (fs : List BitFlip),
    (20480 ≤ xreg s u 1 % 32768 → ∃ t, exec (.mvs u inner fs) s = .next t ∧ (unit t u).status.code ≠ 0 ∧ t.dram = s.dram ∧
      (∃ os, os.length = 2 * (bits w 43 41 + 1) * (if bit w 39 then 1 else 2) ∧ (∀ o, o ∈ os → o.sector.poison = true) ∧
        (unit t u).run = some (advancePc (mvsCost w) { r with pendingOut := r.pendingOut ++ os })) ∧
      ∀ k, k ≠ u.val → unit t k = unit s k) ∧
    (xreg s u 1 % 32768 < 20480 → ∃ t, exec (.mvs u inner fs) s = .next t ∧
      (∃ os, os.length = 2 * (bits w 43 41 + 1) * (if bit w 39 then 1 else 2) ∧
        (unit t u).run = some (advancePc (mvsCost w) { r with pendingOut := r.pendingOut ++ os })) ∧
      (∀ k, k ≠ u.val → unit t k = unit s k) ∧ (∀ k, k ≠ u.val / 16 → chan t k = chan s k) ∧
      (unit t u).act = (unit s u).act ∧ (unit t u).lb = (unit s u).lb ∧
      t.dense = s.dense ∧ t.scratch = s.scratch ∧ t.kv = s.kv) ∧
    (1 < (unit s u).x.length → ∃ t, exec (.mvs u inner fs) s = .next t ∧
      xreg t u 1 % 32768 = (xreg s u 1 % 32768 + 1) % 32768 ∧ xreg t u 1 / 32768 = xreg s u 1 / 32768) ∧
    (bit w 39 = true → xreg s u 1 % 32768 < 20480 → rowOpen s u (bitNat (bit w 33)) (xreg s u 1 % 32768) = true →
      lbMarked (unit s u) (32 * bits w 53 46) 32 = false → ∃ t, exec (.mvs u inner fs) s = .next t ∧
        (unit t u).run = some (advancePc (mvsCost w) { r with
          pendingOut := r.pendingOut ++ (mvsGranule s u w (2 * (xreg s u 1 % 32768) + bitNat (bit w 33))
            (unitReads u (bitNat (bit w 33)) (xreg s u 1 % 32768) fs 64 0 (64 * bitNat (bit w 33)) s).1 false).out.map
              (ofRun r) }))) ∧
  (∀ (s : State) (u : Fin 8192) (r : PhraseRun) (w : Nat), ∀ x, x = xreg s u (bits w 57 54) →
    (∀ cost, cost = max 128 (64 * (bits w 49 46 + 1)) → MicroClean 0x11 cost u r w s → ∀ (inner : Nat) (fs : List BitFlip),
      (rowInRange x = true → ∃ t, exec (.score u inner fs) s = .next t ∧
        (unit t u).run = some (advancePc cost { r with
          pendingOut := r.pendingOut ++ ((List.range (bits w 49 46 + 1)).map fun i => [0, 1].map fun q =>
            ofRun r { tag := tagOf 5 (16 * i + 8 * q)
                      sector := wordSector ((List.range 8).map fun p => scoreOf (unit s u) w x
                        (unitReads u (x % 65536 % 2) (x % 65536 / 2) fs 64 0 0 s).1 i (8 * q + p)) }).flatten }) ∧
        (bank (chan t (u.val / 16)) (2 * (u.val % 16) + x % 65536 % 2)).row0 = none ∧
        (bank (chan t (u.val / 16)) (2 * (u.val % 16) + x % 65536 % 2)).row1 = none ∧
        (∀ k, k ≠ u.val → unit t k = unit s k) ∧ (∀ k, k ≠ u.val / 16 → chan t k = chan s k) ∧
        t = { s with near.units := t.near.units, dram := t.dram }) ∧
      (rowInRange x = false → ∃ t, exec (.score u inner fs) s = .next t ∧ (unit t u).status.code ≠ 0 ∧ t.dram = s.dram ∧
        ∃ os, os.length = 2 * (bits w 49 46 + 1) ∧ (∀ o, o ∈ os → o.sector.poison = true) ∧
          (unit t u).run = some (advancePc cost { r with pendingOut := r.pendingOut ++ os }))) ∧
    (∀ cost, cost = 64 * (bits w 49 46 + 1) + 16 → MicroClean 0x12 cost u r w s → ∀ (inner : Nat) (fs : List BitFlip),
      (rowInRange x = true → ∃ t, exec (.value u inner fs) s = .next t ∧
        (unit t u).run = some (advancePc cost { r with
          pendingOut := r.pendingOut ++ (((List.range ((bits w 49 46 + 1) / 2)).map fun k => pairSectors (bits w 41 38 + 2 * k)
            (headPart (unit s u) w x (unitReads u (x % 65536 % 2) (x % 65536 / 2) fs 64 0 0 s).1 (2 * k))
            (headPart (unit s u) w x (unitReads u (x % 65536 % 2) (x % 65536 / 2) fs 64 0 0 s).1
              (2 * k + 1))).flatten).map (ofRun r) }) ∧
        (∀ k, k ≠ u.val → unit t k = unit s k) ∧ (∀ k, k ≠ u.val / 16 → chan t k = chan s k) ∧
        t = { s with near.units := t.near.units, dram := t.dram }) ∧
      (rowInRange x = false → ∃ t, exec (.value u inner fs) s = .next t ∧ (unit t u).status.code ≠ 0 ∧ t.dram = s.dram ∧
        ∃ os, os.length = 17 * ((bits w 49 46 + 1) / 2) ∧ (∀ o, o ∈ os → o.sector.poison = true) ∧
          (unit t u).run = some (advancePc cost { r with pendingOut := r.pendingOut ++ os }))))

/-- PICK, ADDBACK and WSTREAM (R119, R169, R174, R180, R184): sectors of a row to the output buffer or the local buffer; a
stored sector and a local-buffer sector added and written back; both rows of the pair written from zeros or the local
buffer. SQSUM, SEND and RECV (R27, R119, R152-R154, R170): one sector of squares for each position; a message launched on
its path, or queued for the relay; a mailbox slot moved to the local buffer and emptied, or poisoned zeros with 0x8016. -/
def Obligations.MicroMemory : Prop :=
  (∀ (s : State) (u : Fin 8192) (r : PhraseRun) (w : Nat),
    ∀ x, x = xreg s u (bits w 57 54) → ∀ xc, xc = xreg s u (bits w 53 50) → ∀ m, m = min (bits w 45 43 + 1) (64 - xc) →
    (MicroClean 0x13 128 u r w s → rowInRange x = true → xc ≤ 63 → ∀ (inner : Nat) (fs : List BitFlip),
      (bit w 42 = false → ∃ t, exec (.pick u inner fs) s = .next t ∧ ∃ xs, xs.length = bits w 45 43 + 1 ∧
        (∀ j, j < m → xs.getD j .zero = (unitReads u (x % 65536 % 2) (x % 65536 / 2) fs m xc 0 s).1.getD j .zero) ∧
        (∀ j, m ≤ j → j < bits w 45 43 + 1 → xs.getD j .zero = .poisoned) ∧
        (unit t u).run = some (advancePc 128 { r with
          pendingOut := r.pendingOut ++ (gatherTags (xreg s u (bits w 49 46) % 2 ^ 24) 0 xs).map (ofRun r) }) ∧
        (∀ k, k ≠ u.val → unit t k = unit s k) ∧ (unit t u).lb = (unit s u).lb ∧
        t = { s with near.units := t.near.units, dram := t.dram }) ∧
      (bit w 42 = true → Memory.wf (unit s u).lb = true → (chan s (u.val / 16)).failed = false →
        ∃ t, exec (.pick u inner fs) s = .next t ∧ (unit t u).run = some (advancePc 128 r) ∧
          (∀ j, j < m → lbSector (unit t u) ((bits w 41 34 + j) % 256) =
            (asStored fs (sectorOf (u.val / 16) (2 * (u.val % 16) + x % 65536 % 2) (x % 65536 / 2) (xc + j)) j s).sector) ∧
          (∀ k, k ≠ u.val → unit t k = unit s k) ∧ t = { s with near.units := t.near.units, dram := t.dram })) ∧
    (MicroClean 0x14 128 u r w s → rowInRange x = true → xc ≤ 63 →
      Inv s → (chan s (u.val / 16)).failed = false →
        ∀ (inner : Nat) (fs : List BitFlip), ∃ t, exec (.addback u inner fs) s = .next t ∧
        ∀ n, n = sectorOf (u.val / 16) (2 * (u.val % 16) + x % 65536 % 2) (x % 65536 / 2) xc →
          ∀ y, y = (asStored fs n 0 s).sector →
          sectorAt t n = (if y.poison || (lbSector (unit s u) (bits w 49 42)).poison then .poisoned else
            { data := addSectors (bits w 41 40) (bits w 1 0) y.data (lbSector (unit s u) (bits w 49 42)).data
              poison := false }) ∧
          (unit t u).run = some (advancePc 128 r) ∧ (∀ k, k ≠ u.val → unit t k = unit s k) ∧
          ∀ j, j ≠ n → storedData t j = storedData s j ∧ storedChecks t j = storedChecks s j) ∧
    (MicroClean 0x15 128 u r w s → xreg s u 1 % 32768 < 20480 → rowOpen s u 0 (xreg s u 1 % 32768) = true →
      rowOpen s u 1 (xreg s u 1 % 32768) = true → Inv s → (chan s (u.val / 16)).failed = false →
      ∃ t, exec (.wstream u) s = .next t ∧
        (∀ bb k, bb < 2 → k < 64 →
          sectorAt t (sectorOf (u.val / 16) (2 * (u.val % 16) + bb) (xreg s u 1 % 32768) k) =
            if bit w 53 = false then .zero
            else if (lbSector (unit s u) ((bits w 52 45 + (64 * bb + k)) % 256)).poison then .poisoned
            else lbSector (unit s u) ((bits w 52 45 + (64 * bb + k)) % 256)) ∧
        (∀ k, k ≠ u.val → unit t k = unit s k) ∧ (∀ k, k ≠ u.val / 16 → chan t k = chan s k)) ∧
    (MicroClean 0x13 128 u r w s → rowInRange x = false ∨ 63 < xc →
      ∀ (inner : Nat) (fs : List BitFlip), ∃ t, exec (.pick u inner fs) s = .next t ∧
      (unit t u).status.code ≠ 0 ∧ t.dram = s.dram) ∧
    (MicroClean 0x14 128 u r w s → rowInRange x = false ∨ 63 < xc →
      ∀ (inner : Nat) (fs : List BitFlip), ∃ t, exec (.addback u inner fs) s = .next t ∧
      (unit t u).status.code ≠ 0 ∧ t.dram = s.dram) ∧
    (MicroClean 0x15 128 u r w s → 20480 ≤ xreg s u 1 % 32768 → ∃ t, exec (.wstream u) s = .next t ∧
      (unit t u).status.code ≠ 0 ∧ t.dram = s.dram)) ∧
  (∀ (s : State) (u : Fin 8192) (r : PhraseRun) (w : Nat),
    (MicroClean 0x20 8 u r w s → bits w 53 52 = (unit s u).log2k → ∃ t, exec (.sqsum u) s = .next t ∧ OnlyUnit u s t ∧
      unit t u = { unit s u with run := some (advancePc 8 { r with
        pendingOut := r.pendingOut ++ (List.range (2 ^ bits w 53 52)).map fun p => ofRun r
          { tag := tagOf 4 p
            sector := wideSector
              [(squareSum (unit s u) s.spread.units (xreg s u 13) (2 ^ bits w 53 52) p (xreg s u (bits w 57 54))).narrow]
              (squareSum (unit s u) s.spread.units (xreg s u 13) (2 ^ bits w 53 52) p (xreg s u (bits w 57 54))).poison } }) }) ∧
    (MicroClean 0x20 8 u r w s → bits w 53 52 ≠ (unit s u).log2k → ∃ t, exec (.sqsum u) s = .next t ∧
      (unit t u).status.code ≠ 0 ∧ ∃ os, os.length = 2 ^ bits w 53 52 ∧ (∀ o, o ∈ os → o.sector.poison = true) ∧
        (unit t u).run = some (advancePc 8 { r with pendingOut := r.pendingOut ++ os })) ∧
    (MicroClean 0x21 (bits w 43 41 + 1) u r w s → ∀ p, p = choosePath r (u.val % 1024) (16 * bits w 57 52 + bits w 51 48) →
      ∃ m : Message, m.dest = 16 * bits w 57 52 + bits w 51 48 ∧
      m.src = u.val % 1024 ∧ m.slot = bits w 47 44 ∧ m.words.length = bits w 43 41 ∧
      m.poison = lbMarked (unit s u) (32 * bits w 40 33) (8 * bits w 43 41) ∧
      (∀ i, i < bits w 43 41 → m.words.getD i 0 = memQuad (unit s u).lb ((32 * bits w 40 33 + 8 * i) % 8192)) ∧
      (p ≠ .relay → ∃ t, exec (.send u) s = .next t ∧
        t.near.flights = s.near.flights ++ [{ tile := u.val / 1024, message := m, path := p }] ∧
        unit t u = { unit s u with
          status.poisonSeen := (unit s u).status.poisonSeen || m.poison
          run := some (advancePc (bits w 43 41 + 1) { r with paths := tabPut r.paths m.dest p }) } ∧
        (∀ k, k ≠ u.val → unit t k = unit s k) ∧
        t = { s with near.units := t.near.units, near.flights := t.near.flights }) ∧
      (p = .relay → (unit s u).relay.length < 8 → ∃ t, exec (.send u) s = .next t ∧ OnlyUnit u s t ∧
        unit t u = { unit s u with
          relay := (unit s u).relay ++ [m]
          status.poisonSeen := (unit s u).status.poisonSeen || m.poison
          run := some (advancePc (bits w 43 41 + 1) { r with paths := tabPut r.paths m.dest .relay }) }) ∧
      (p = .relay → 8 ≤ (unit s u).relay.length → ∃ t, exec (.send u) s = .next t ∧
        (unit t u).relay = (unit s u).relay ∧ (unit t u).status.code ≠ 0 ∧ t.near.flights = s.near.flights)) ∧
    (MicroClean 0x22 2 u r w s → ∀ m, m = tabGet {} (unit s u).mail (bits w 57 54) →
      (m.valid = true → ∃ t, exec (.recv u) s = .next t ∧
        OnlyUnit u s t ∧ (unit t u).run = some (advancePc 2 r) ∧
        tabGet {} (unit t u).mail (bits w 57 54) = { m with valid := false } ∧
        (∀ k, k ≠ bits w 57 54 → tabGet {} (unit t u).mail k = tabGet {} (unit s u).mail k) ∧
        (unit t u).status.poisonSeen = ((unit s u).status.poisonSeen || m.poison) ∧
        (Memory.wf (unit s u).lb = true → ∀ j, j < 2 → lbSector (unit t u) ((bits w 53 46 + j) % 256) =
          { data := m.data.extractLsb' (256 * j) 256, poison := m.poison })) ∧
      (m.valid = false → ∃ t, exec (.recv u) s = .next t ∧
        (unit t u).status.code ≠ 0 ∧ (unit t u).run = some (advancePc 2 r) ∧
        (Memory.wf (unit s u).lb = true → ∀ j, j < 2 → lbSector (unit t u) ((bits w 53 46 + j) % 256) = .poisoned) ∧
        (∀ k, k ≠ u.val → unit t k = unit s k))))

/-- COLLECTOR_SECTOR (R156-R158): the oldest sector of the current reduction leaves the queue of those that have reached the
collector and is no longer owed; with none waiting nothing happens. One that cannot be placed is recorded with its code and
poisons every accumulator of the collector's current reduction, and nothing else. COLLECTOR_SECTOR, by KIND (R35, R65, R156,
R157, R175, R179, R183, R287, R289): padding is dropped; partials of a SUM or a MAX reach their four elements or one;
statistics are combined, those of a poisoned sector not; a part of a packet joins it in its order and the sixteenth
completes it; a score part goes to its group's home; a gathered sector goes by its entry, or waits for the banks it writes.
COLLECTOR_NARROW (R36, R39, R158, R183, R192): once every declared sector of the current reduction has been applied, every
element with an input is narrowed and joins the partial of its tile at collector (element div 64) mod 4; the accumulators
are empty and the next reduction is the current one. Before that nothing happens. -/
def Obligations.CollectorSectors : Prop :=
  (∀ (s : State) (kk : Fin 32) (o : OutSector),
    ((collector s kk).inbox.find? (ofCurrent (collector s kk)) = none → ∀ p, exec (.collectorSector kk p) s = .next s) ∧
    (OnlyCollector kk s (takeSector kk o s) ∧ collector (takeSector kk o s) kk = { collector s kk with
      inbox := removeFirst (ofCurrent (collector s kk)) (collector s kk).inbox
      reductions := (collector s kk).reductions.map fun r =>
        if r.number = o.reduction then { r with owed := r.owed - 1 } else r }) ∧
    ((collector s kk).inbox.find? (ofCurrent (collector s kk)) = some o →
      exec (.collectorSector kk true) s = .next (rejectSector 0x8050 kk (takeSector kk o s)) ∧
      (7 ≤ o.tag.toNat / 2 ^ 24 →
        exec (.collectorSector kk false) s = .next (rejectSector 0x8052 kk (takeSector kk o s))) ∧
      (o.tag.toNat / 2 ^ 24 = 1 → (collector s kk).current.width < o.tag.toNat % 2 ^ 24 + 4 →
        exec (.collectorSector kk false) s = .next (rejectSector 0x8051 kk (takeSector kk o s)))) ∧
    (∀ code, (collector (rejectSector code kk s) kk).allPoisoned = true ∧
      (∀ e a, tabFind? (collector (rejectSector code kk s) kk).accs e = some a → a.poison = true) ∧
      (∀ e a, tabFind? (collector (rejectSector code kk s) kk).maxes e = some a → a.poison = true) ∧
      (∀ j, j ≠ kk.val → collector (rejectSector code kk s) j = collector s j) ∧
      (rejectSector code kk s).near = { s.near with collectors := (rejectSector code kk s).near.collectors } ∧
      (rejectSector code kk s).dram = s.dram ∧ (rejectSector code kk s).scratch = s.scratch)) ∧
  (∀ (s : State) (kk : Fin 32), ∀ q, q = collector s kk → ∀ o, q.inbox.find? (ofCurrent q) = some o →
    ∀ s1, s1 = takeSector kk o s → ∀ kind, kind = o.tag.toNat / 2 ^ 24 → ∀ i, i = o.tag.toNat % 2 ^ 24 → ∀ n : Nat,
    (kind = 0 → exec (.collectorSector kk false) s = .next s1) ∧
    (kind = 1 ∧ n = 4 ∨ kind = 4 ∧ n = 1 → i + n ≤ q.current.width → q.current.isMax = false →
      ∃ t, exec (.collectorSector kk false) s = .next t ∧ OnlyCollector kk s t ∧
        (∀ j, j < n → tabGet {} (collector t kk).accs (i + j) =
          (tabGet {} q.accs (i + j)).applyMarked (decodeWide (sectorQuad o.sector j)) (o.sector.poison || q.allPoisoned)) ∧
        (∀ e, e < i ∨ i + n ≤ e → tabFind? (collector t kk).accs e = tabFind? q.accs e) ∧
        collector t kk = { collector s1 kk with accs := (collector t kk).accs }) ∧
    (kind = 1 ∧ n = 4 ∨ kind = 4 ∧ n = 1 → i + n ≤ q.current.width → q.current.isMax = true →
      ∃ t, exec (.collectorSector kk false) s = .next t ∧ OnlyCollector kk s t ∧
        (∀ j, j < n → tabGet emptyMax (collector t kk).maxes (i + j) =
          maxSlot (tabGet emptyMax q.maxes (i + j)) (decodeWide (sectorQuad o.sector j)) (o.sector.poison || q.allPoisoned)) ∧
        collector t kk = { collector s1 kk with maxes := (collector t kk).maxes }) ∧
    (kind = 3 → ∃ t, exec (.collectorSector kk false) s = .next t ∧ OnlyCollector kk s t ∧
      collector t kk = { collector s1 kk with stats := (collector t kk).stats } ∧
      (∀ j, j < 2 → tabGet {} (collector t kk).stats (i + j) =
        if o.sector.poison then tabGet {} q.stats (i + j)
        else (tabGet ({} : Stats) q.stats (i + j)).combine (Stats.ofBits (o.sector.data.extractLsb' (128 * j) 128)))) ∧
    (kind = 5 → ∀ r, routeOf s (kk.val / 4) o.plan.a = some r → ∀ key, key = 16 * o.plan.a + bits i 7 4 →
      ∀ part, part = 2 * o.plan.b + bits i 3 3 → tabFind? (tabGet [] (collector s (routeHome r)).bursts key) part = none →
      ∃ t, exec (.collectorSector kk false) s = .next t ∧
        tabFind? (tabGet [] (collector t (routeHome r)).bursts key) part = some o.sector ∧
        (∀ j, j ≠ kk.val → j ≠ routeHome r → collector t j = collector s j) ∧
        t = { s with near.collectors := t.near.collectors }) ∧
    (kind = 2 → q.packet = [] → bit i 23 = true → ∃ t, exec (.collectorSector kk false) s = .next t ∧ OnlyCollector kk s t ∧
      collector t kk = { collector s1 kk with packet := [o] }) ∧
    (kind = 2 → ∀ h rest, q.packet = h :: rest → rest.length < 15 → i = expectedIndex (h.tag.toNat % 2 ^ 24) rest.length →
      ∃ t, exec (.collectorSector kk false) s = .next t ∧ OnlyCollector kk s t ∧
        collector t kk = { collector s1 kk with packet := (h :: rest) ++ [o] }) ∧
    (kind = 2 → ∀ h rest, q.packet = h :: rest → rest.length = 15 → i = expectedIndex (h.tag.toNat % 2 ^ 24) 15 →
      ∀ head, head = o.plan.a + bits (h.tag.toNat % 2 ^ 24) 7 4 → ∃ t, exec (.collectorSector kk false) s = .next t ∧
        (collector t kk).packet = [] ∧ t.near.packets = s.near.packets ++
          [{ sectors := (h :: rest) ++ [o], head := head, group := o.plan.b, tiles := headTiles s head }] ∧
        t = { s with near.collectors := t.near.collectors, near.packets := t.near.packets }) ∧
    (kind = 6 → gatherWaits s kk o = false → exec (.collectorSector kk false) s = .next (gatherSector kk i o.sector s1)) ∧
    (kind = 6 → gatherWaits s kk o = true →
      exec (.collectorSector kk false) s = .next (deferCommand (.collectorSector kk false) s))) ∧
  (∀ (s : State) (kk : Fin 32), ∀ q, q = supplyElems (collector s kk) →
    (reductionComplete (collector s kk) = false → exec (.collectorNarrow kk) s = .next s) ∧
    (reductionComplete (collector s kk) = true → (narrowElems q).Nodup → ∃ t, exec (.collectorNarrow kk) s = .next t ∧
      (collector t kk).accs = [] ∧ (collector t kk).maxes = [] ∧ (collector t kk).allPoisoned = false ∧
      (collector t kk).reductions = (collector s kk).reductions.drop 1 ∧
      (∀ e, e ∈ narrowElems q → ∀ k, k = 4 * (kk.val / 4) + e / 64 % 4 → tabFind? (collector t k).partials e =
        (narrowOf q e).1.foldl (fun p v => some (mergePartial q.current.isMax p v (narrowOf q e).2))
          (tabFind? (collector s k).partials e)) ∧
      (∀ k e, e ∉ narrowElems q → tabFind? (collector t k).partials e = tabFind? (collector s k).partials e) ∧
      (∀ k, k / 4 ≠ kk.val / 4 → collector t k = collector s k) ∧
      t = { s with near.collectors := t.near.collectors }))

/-- Gathered sectors (R179-R187): DISCARD counts; WRITE stores the sector at its place of the target; SUM adds the sector's
elements, scaled, MAX keeps the larger, DECODE adds the codes of one row; LOOKUP and MERGE forward it to the home collector;
an entry that does not exist poisons the reduction (0x8051). PROBE_COMPLETE and MERGE_COMPLETE (R175, R185, R186): the
result word says found with its slot, absent, full or poisoned; the merge writes the common keys in order and their count,
once its target is not held; the blocks leave the collector and the tile's counters rise. -/
def Obligations.GatherAndMerge : Prop :=
  (∀ (s : State) (kk e j : Nat) (x : Sector), j < 64 → ∀ t, t = gatherSector kk (64 * e + j) x s →
    ∀ ws, ws = destEntry s (kk / 4) e → ∀ q, q = collector s kk →
    (4096 ≤ e → t = rejectSector 0x8051 kk (onOwner (kk / 4) (fun o => { o with gathered := o.gathered + 1 }) s)) ∧
    (e < 4096 → destMode ws = 0 → OnlyOwner (kk / 4) s t ∧ owner t (kk / 4) = { owner s (kk / 4) with
      gathered := (owner s (kk / 4)).gathered + 1, discarded := (owner s (kk / 4)).discarded + 1 }) ∧
    (e < 4096 → Inv s → destMode ws = 1 → j ≤ destSectors ws → bits (destWord ws 0) 38 30 = 0 → bit (destWord ws 1) 63 = false →
      ∀ pl, place s (targetAddress ws + 32 * j) = some pl → chanOfSector pl.sector = globalChannel pl →
        (chan s (globalChannel pl)).failed = false → openWires (chan s (globalChannel pl)) = [] →
        peekSector t (targetAddress ws + 32 * j) = some (if x.poison then .poisoned else x)) ∧
    (e < 4096 → destMode ws = 2 → j ≤ destSectors ws → destFmt ws = 0 → q.current.isMax = false →
      bits (destWord ws 2) 23 0 + 8 * j + 8 ≤ q.current.width → ∀ i, i < 8 →
        tabGet {} (collector t kk).accs (bits (destWord ws 2) 23 0 + 8 * j + i) =
          (tabGet {} q.accs (bits (destWord ws 2) 23 0 + 8 * j + i)).applyMarked
            ((ofFp32 (sectorWord x i)).mul (ofFp32 (BitVec.ofNat 32 (bits (destWord ws 2) 63 32)))) (x.poison || q.allPoisoned)) ∧
    (e < 4096 → destMode ws = 3 → j ≤ destSectors ws → destFmt ws = 0 → q.current.isMax = true →
      bits (destWord ws 2) 23 0 + 8 * j + 8 ≤ q.current.width → ∀ i, i < 8 →
        tabGet emptyMax (collector t kk).maxes (bits (destWord ws 2) 23 0 + 8 * j + i) =
          maxSlot (tabGet emptyMax q.maxes (bits (destWord ws 2) 23 0 + 8 * j + i)) (ofFp32 (sectorWord x i))
            (x.poison || q.allPoisoned)) ∧
    (e < 4096 → destMode ws = 4 → j ≤ destSectors ws → q.current.isMax = false → ∀ i, i < 8 →
      tabGet {} (collector t kk).accs (bits (destWord ws 2) 23 0 + 8 * j + i) =
        (tabGet {} q.accs (bits (destWord ws 2) 23 0 + 8 * j + i)).applyMarked
          ((slotValue (owner s (kk / 4)).codebooks (bits (destWord ws 0) 42 39)
            (x.data.extractLsb' (32 * bits (destWord ws 0) 45 43 + 4 * i) 4).toNat).mul
              (ofFp32 (BitVec.ofNat 32 (bits (destWord ws 2) 63 32)))) (x.poison || q.allPoisoned) ∧
      (owner t (kk / 4)).decoded = (owner s (kk / 4)).decoded + 1) ∧
    (e < 4096 → (destMode ws = 5 ∨ destMode ws = 6 ∧ linksAgree s (kk / 4) e ws = true) → j ≤ destSectors ws →
      tabFind? (tabGet [] (collector t (destHome ws)).blocks e) j = some x ∧
      (owner t (kk / 4)).forwarded = (owner s (kk / 4)).forwarded + 1 ∧ t.dram = s.dram)) ∧
  (∀ (s : State) (kk : Fin 32) (e : Fin 4096), ∀ ws, ws = destEntry s (kk.val / 4) e →
    ∀ wb, wb = destEntry s (kk.val / 4) (destLink ws) → ∀ a, a = tabGet [] (collector s kk).blocks e →
    ∀ b, b = tabGet [] (collector s kk).blocks (destLink ws) →
    (destMode ws = 5 → a.length = destSectors ws + 1 →
      ∃ u, exec (.probeComplete kk e) s =
          .next (writeResult kk ws (probeResult (BitVec.ofNat 64 (destWord ws 2)) a) u) ∧
        tabFind? (collector u kk).blocks e = none ∧ (owner u (kk.val / 4)).probes = (owner s (kk.val / 4)).probes + 1 ∧
        u = { s with near.collectors := u.near.collectors, near.owners := u.near.owners }) ∧
    (∀ (key : Quad) (b : Tab Sector),
      ((∃ y, y ∈ b ∧ y.2.poison = true) → (probeResult key b).extractLsb' 61 2 = 3) ∧
      ((∀ y, y ∈ b → y.2.poison = false) → (∀ y, y ∈ b → ∀ i, i < 4 → sectorQuad y.2 i ≠ key) →
        (probeResult key b).extractLsb' 61 2 =
          if b.any (fun y => (List.range 4).any fun i => sectorQuad y.2 i == 0) then 0 else 2) ∧
      (∀ k, (∀ y, y ∈ b → y.2.poison = false) → findKey key b = some k → k < 2 ^ 32 →
        (probeResult key b).extractLsb' 61 2 = 1 ∧ ((probeResult key b).extractLsb' 0 32).toNat = k)) ∧
    (destMode ws = 6 → linksAgree s (kk.val / 4) e ws = true → a.length = destSectors ws + 1 → b.length = destSectors wb + 1 →
      (bit (destWord ws 1) 63 = false → rangeWaits s (targetAddress ws) (32 * (destSectors ws + 1)) = true →
        exec (.mergeComplete kk e) s = .next (deferCommand (.mergeComplete kk e) s)) ∧
      (bit (destWord ws 1) 63 = true ∨ rangeWaits s (targetAddress ws) (32 * (destSectors ws + 1)) = false →
        ∃ (u : State) (keys : List Quad) (bad : Bool),
          (bad = false → ∀ k, k ∈ keys ↔ k ∈ blockKeys a ∧ k ∈ blockKeys b) ∧ (bad = true → keys = []) ∧
          (bad = (a.any (fun x => x.2.poison) || b.any fun x => x.2.poison)) ∧ tabFind? (collector u kk).blocks e = none ∧
          (owner u (kk.val / 4)).merges = (owner s (kk.val / 4)).merges + 1 ∧
          exec (.mergeComplete kk e) s = .next (writeResult kk ws
            (BitVec.ofNat 64 (2 ^ 63 + (if bad then 3 else 0) * 2 ^ 61 + keys.length))
            (if bad then u else writeKeys kk ws (targetAddress ws) (keySectors keys) u)))))

/-- OWNER_DELIVER (R20, R21, R23, R31, R41, R158, R159, R175, R303, R353): of a reduction that every collector has narrowed,
elements that the tile owns; the results are kept in FP32 with their marks, the residual where the record says so, the
partials are spent (kept where the window is only observed); they go to every tile, to one, to the logits, as the module's
own contribution to a collective, into the scratchpads or into the cache. The append of a key or value (R120, R278): a
poisoned element stores nothing, and the stepping request fails with 0x3003; clean elements of a bfloat16 page that is open
are entered in the list of appends. SCORE_BURST_SEND and PACKET_MERGE (R25, R150, R288-R291): a complete burst leaves its
home and every unit of the value granules that is not fenced holds it, once no running phrase declares the segment; a packet
is applied at one of its owner tiles, to the running state of its two heads, and a head with all its packets becomes results
that reach every tile. -/
def Obligations.OwnersAndAttention : Prop :=
  (∀ (s : State) (t : Fin 8) (d : Delivery), ∀ xs, xs = deliverElems s t d → s.scratch.bad = [] →
    (mayDeliver s t d = false → exec (.ownerDeliver t d) s = .next s) ∧
    (mayDeliver s t d = true → d.observe = false →
      (d.setsResidual = false → ∀ position to_, d.count ≤ d.width → d.first + d.count ≤ d.width →
        d.goesTo = .keep ∨ d.goesTo = .broadcast ∨ d.goesTo = .tile to_ ∨ d.goesTo = .hub position →
        ∃ u, exec (.ownerDeliver t d) s = .next u ∧
          (∀ i, i < d.count → tabGet 0 (owner u t).results (d.first + i) = toFp32 (elmAt xs i).value ∧
            (d.first + i ∈ (owner u t).resultMarks ↔ (elmAt xs i).poison = true)) ∧
          (∀ e, e < d.first ∨ d.first + d.count ≤ e →
            tabFind? (owner u t).results e = tabFind? (owner s t).results e) ∧
          (∀ k e, k < 32 → tabFind? (collector u k).partials e =
            if d.goesTo ≠ .keep ∧ d.first ≤ e ∧ e < d.first + d.count then none else tabFind? (collector s k).partials e) ∧
          (∀ k i, k < 8 → i < d.count → d.goesTo = .broadcast ∨ d.goesTo = .tile to_ ∧ k = to_ →
            tabGet 0 ((owner u k).vector d.vector).words (d.first + i) = toFp32 (elmAt xs i).value ∧
            (d.first + i ∈ ((owner u k).vector d.vector).marks ↔ (elmAt xs i).poison = true)) ∧
          (∀ k, d.goesTo ≠ .broadcast → d.goesTo ≠ .tile k → k ≠ t.val → owner u k = owner s k) ∧
          (d.goesTo = .hub position → (∀ i, i < d.count →
              tabGet 0 (tabGet [] u.serve.logits position) (d.first + i) = toFp32 (elmAt xs i).value) ∧
            (position ∈ u.serve.poisonedLogits ↔ position ∈ s.serve.poisonedLogits ∨ xs.any (·.poison) = true)) ∧
          u = { s with near := u.near, serve.logits := u.serve.logits, serve.poisonedLogits := u.serve.poisonedLogits }) ∧
      (d.setsResidual = true → ∀ o, d.residualAt = some o → d.goesTo = .keep → d.first + d.count ≤ d.width →
        Memory.wf s.scratch.bytes = true → ∃ u, exec (.ownerDeliver t d) s = .next u ∧
          ∀ i, i < d.count → memWord u.scratch.bytes (sliceAddress d.width t o (d.first + i)) = toFp32 (elmAt xs i).value) ∧
      (∀ id, d.goesTo = .collective id → ∀ c, coll? s id = some c →
        (tabGet [] c.current.children d.first).contains (nodeOf s) = false →
        exec (.ownerDeliver t d) s = .next (addContributions id true (nodeOf s) d.first
          ((List.range d.count).map fun i =>
            (decodeWide (ownerAcc s t (d.first + i)).narrow, (ownerAcc s t (d.first + i)).poison))
          (onColl id (fun c => { c with records := tabPut c.records t d }) (clearPartials d.first d.count s)))) ∧
      (∀ desc, d.goesTo = .banks desc → exec (.ownerDeliver t d) s = .next (storeBanks desc d.first xs
        (clearPartials d.first d.count (storeResidual t d xs (storeResults t d xs s))))) ∧
      (∀ q position l kv base opening, d.goesTo = .append q position l kv base opening →
        ∀ a, a = appendPlan d q position l kv base opening →
        (appendNow s a = .no → exec (.ownerDeliver t d) s = .next s) ∧
        (appendNow s a = .wait → exec (.ownerDeliver t d) s = .next (deferCommand (.ownerDeliver t d) s)) ∧
        (appendNow s a = .yes → exec (.ownerDeliver t d) s = .next (appendElems t d a xs
          (clearPartials d.first d.count (storeResidual t d xs (storeResults t d xs s)))))))) ∧
  (∀ (s : State) (k : Nat) (dv : Delivery) (a : AppendPlan) (xs : List Elm),
    ∀ d, cacheDecl s = some d → ∀ b, residentBlock s a.seq (a.position / 64) = some b → ∀ t, t = appendElems k dv a xs s →
    (xs.any (·.poison) = true → t.dram = s.dram ∧ t.kv.appends = s.kv.appends ∧
      ∀ i, steppingSlot s a.seq = some i → (request t i).failCode = some ((request s i).failCode.getD 0x3003)) ∧
    (xs.any (·.poison) = false → a.opening = none → 
      bits (leValue (peekBytes s (blockAddress s d b + headerOffset d a.layer a.kind) 8)) 63 62 = 2 →
      t.kv.appends = s.kv.appends ++ (List.range ((a.count + 63) / 64)).map fun i =>
        ⟨a.seq, a.layer, a.kind, a.c0 / 64 + i, a.position⟩)) ∧
  ((∀ (s : State) (kk : Fin 32) (g : Fin 4096) (j : Fin 16) (layer : Nat) (p : BcastPlan),
    ∀ r, routeOf s (kk.val / 4) g = some r → ∀ b, b = tabGet [] (collector s kk).bursts (16 * g.val + j.val) →
      ∀ us, us = burstUnits s r layer →
    (∀ u, u ∈ us → channelReady s (u / 16) = true) →
    ((b.length ≠ 8 ∨ ∃ u, u ∈ us ∧ segmentBusy s 0 (burstDest s j) u = true) →
      exec (.scoreBurstSend kk g j layer p) s = .next s) ∧
    (b.length = 8 → (∀ u, u ∈ us → segmentBusy s 0 (burstDest s j) u = false) →
      ∃ t, exec (.scoreBurstSend kk g j layer p) s = .next t ∧
        tabFind? (collector t kk).bursts (16 * g.val + j.val) = none ∧
        (∀ k, k ≠ kk.val → collector t k = collector s k) ∧ (∀ u, u ∉ us → unit t u = unit s u) ∧
        (∀ u, u ∈ us → Memory.wf (unit s u).act = true → ∀ i, i < 256 →
          memRead (unit t u).act (256 * (burstDest s j % 128) + i) =
            (sectorBytes ((b.map (·.2)).getD (i / 32) .zero).data).getD (i % 32) 0) ∧
        (∀ c, (∀ u, u ∈ us → u / 16 ≠ c) → chan t c = chan s c) ∧
        t = { s with near.units := t.near.units, near.collectors := t.near.collectors, dram.channels := t.dram.channels })) ∧
  (∀ (s : State) (i : Nat) (t : Fin 8) (total vector : Nat), ∀ p, s.near.packets[i]? = some p → t.val ∈ p.tiles →
    ∀ run, run = (fun a => mergeHead ((p.sectors.getD 0 ⟨0, .zero, 0, {}⟩).sector.data.extractLsb' (128 * a) 32)
      ((p.sectors.getD 0 ⟨0, .zero, 0, {}⟩).sector.data.extractLsb' (128 * a + 64) 64)
      ((packetOutputs p a).filter fun x => ownsElem s t (p.head + a) x.1) p.group
      (p.sectors.getD 0 ⟨0, .zero, 0, {}⟩).sector.poison (tabGet {} (owner s t).running (p.head + a))) →
    ∃ u, exec (.packetMerge i t total vector) s = .next u ∧
      u.near.packets = (if setErase p.tiles t = [] then s.near.packets.eraseIdx i
        else s.near.packets.set i { p with tiles := setErase p.tiles t }) ∧
      u = { s with near.packets := u.near.packets, near.owners := u.near.owners } ∧
      (∀ a, a < 2 → (run a).packets < total → (List.range 128).any (ownsElem s t (p.head + a)) = true →
        tabGet {} (owner u t).running (p.head + a) = run a) ∧
      ((∀ a, a < 2 → (tabGet ({} : Running) (owner s t).running (p.head + a)).packets + 1 < total) →
        ∀ k, k ≠ t.val → owner u k = owner s k) ∧
      (∀ a k, a < 2 → k < 8 → total ≤ (run a).packets → (List.range 128).any (ownsElem s t (p.head + a)) = true →
        ((run a).o.map (·.1)).Nodup → (∀ e, e ∈ (run 0).o ++ (run 1).o → e.1 < 128) →
          ∀ x, x ∈ headResults (p.head + a) (run a) →
        tabGet 0 ((owner u k).vector vector).words x.1 = x.2.1 ∧ tabFind? (owner u t).running (p.head + a) = none)) ∧
  (∀ (s : State) (i : Nat) (t : Fin 8) (total vector : Nat), s.near.packets[i]? = none →
    exec (.packetMerge i t total vector) s = .next s))

/-- EMBEDDING_LOOKUP (R54, R56, R175, R188): outside its entries it stops by name; a granule of a bank that is held is
waited for; else each granule of the rows asked for is read once and its 64 sectors reach the collector of its channel once
for each entry, whose DECODE entry is written. EXPERT_SELECT (R189): K distinct experts, none of the others with a larger
logit, for the position; counted; a poisoned logit marks the position's expert phrases; operands outside its rule stop by
name; before the router outputs have arrived nothing happens. -/
def Obligations.EmbeddingAndExperts : Prop :=
  ((∀ (s : State) (entry : Nat) (tokens : List Nat) (sect base groups slot table number width : Nat),
    ∀ at_, at_ = (fun g => (base + (sect * groups + g) * 2048) / 2048 * 2048) → ∀ gs, gs = (tokens.map (· / 8)).eraseDups →
    (entry < 3840 ∨ 4096 < entry + tokens.length →
      exec (.embeddingLookup entry tokens sect base groups slot table number width) s = .fault (.illFormed "EMBEDDING_LOOKUP")) ∧
    (3840 ≤ entry → entry + tokens.length ≤ 4096 → gs.any (fun g => addressWaits s (at_ g)) = true →
      exec (.embeddingLookup entry tokens sect base groups slot table number width) s =
        .next (deferCommand (.embeddingLookup entry tokens sect base groups slot table number width) s)) ∧
    (3840 ≤ entry → entry + tokens.length ≤ 4096 → gs.any (fun g => addressWaits s (at_ g)) = false →
      exec (.embeddingLookup entry tokens sect base groups slot table number width) s = .next (gs.foldl (fun s g =>
        lookupGranule ((((List.range tokens.length).zip tokens).filter fun e => e.2 / 8 == g).map fun e => (entry + e.1, e.2))
          (at_ g) sect slot table { number := number, width := width } s) s))) ∧
  (∀ (s : State) (es : List (Nat × Nat)) (a sect slot table : Nat) (r : Reduction),
    (place s a = none → lookupGranule es a sect slot table r s = s) ∧
    (∀ p, place s a = some p → ∀ kk, kk = 4 * p.tile + p.channel / 16 → (es.map (·.1)).Nodup → ∃ u xs v,
      OnlyOwner p.tile s u ∧ owner u p.tile = { owner s p.tile with dest := (owner u p.tile).dest } ∧
      (∀ e, e ∈ es → destEntry u p.tile e.1 = lookupEntry s e.2 sect slot table) ∧
      (∀ k, k ∉ es.map (·.1) → destEntry u p.tile k = destEntry s p.tile k) ∧
      readSectors 64 a u = (xs, v) ∧ xs.length = 64 ∧
      lookupGranule es a sect slot table r s = onCollector kk (fun q => { q with
        reductions := joinReduction { r with owed := 64 * es.length } q.reductions
        inbox := q.inbox ++ es.flatMap fun e => lookupSectors e.1 r.number (scalePoison s table e.2) xs }) v)) ∧
  (∀ (s : State) (token sect slot table : Nat), ∀ ws, ws = lookupEntry s token sect slot table →
    destMode ws = 4 ∧ destSectors ws = 63 ∧ bits (destWord ws 0) 45 43 = token % 8 ∧ bits (destWord ws 0) 42 39 = slot % 16 ∧
    bits (destWord ws 2) 63 32 = (memScale s (servingTable s table) token).1.toNat)) ∧
  (∀ (s : State) (t : Fin 8) (k position vector first count : Nat), ∀ v, v = (owner s t).vector vector →
    (k = 0 ∨ 8 < k ∨ 256 < count →
      exec (.expertSelect t k position vector first count) s = .fault (.illFormed "EXPERT_SELECT")) ∧
    (1 ≤ k → k ≤ 8 → count ≤ 256 → v.present first count = false →
      exec (.expertSelect t k position vector first count) s = .next s) ∧
    (1 ≤ k → k ≤ 8 → count ≤ 256 → v.present first count = true →
      ∃ u, exec (.expertSelect t k position vector first count) s = .next u ∧ OnlyOwner t s u ∧
        owner u t = { owner s t with
          selected := (owner u t).selected, badRoutes := (owner u t).badRoutes, routes := (owner s t).routes + 1 } ∧
        (∀ p, p ≠ position → tabGet [] (owner u t).selected p = tabGet [] (owner s t).selected p ∧
          (p ∈ (owner u t).badRoutes ↔ p ∈ (owner s t).badRoutes)) ∧
        (position ∈ (owner u t).badRoutes ↔ ∃ m, m ∈ v.marks ∧ first ≤ m ∧ m < first + count) ∧
        ∀ cs, cs = (tabGet [] (owner u t).selected position).map (·.1) → cs.length = min k count ∧ cs.Nodup ∧
          (∀ i, i ∈ cs → i < count) ∧
          (∀ i j, i ∈ cs → j < count → j ∉ cs →
            logitLess (ofFp32 (tabGet 0 v.words (first + i))) (ofFp32 (tabGet 0 v.words (first + j))) = false)))

/-- R205, R206: a fault stops the core with ERROR and its code, poisons the reductions for which it still owes sectors, and
touches no other core; a word that its check bits find uncorrectable is 0x9046 for every instruction. CORE_START and
sequencing (R128, R158, R200, R203, R212): a start of a declared entry loads S1 to S8 and the counters, and each collector
counts the sectors that the image declares of it; an entry that no image declares, or a core that may not start, changes
nothing; WAITC goes on once its counter has reached IMM and waits else; BR takes its branch; SALU writes its register (S0
none, a division by zero gives 0 with 0x9045); END frees the core. -/
def Obligations.CoreSequencing : Prop :=
  ((∀ (s : State) (g : Nat) (code : Half),
    core (coreFault code g s) g = { core s g with
      busy := false, waiting := .none, error := true, owed := [], idleSince := some s.us
      code := if (core s g).code = 0 then code else (core s g).code
      stepCode := if (core s g).stepCode = 0 ∨ (core s g).stepCode = 0x9045 then code else (core s g).stepCode } ∧
    (∀ k, k ≠ g → core (coreFault code g s) k = core s k) ∧
    (∀ kk n, (kk, n) ∈ (core s g).owed → n ≠ 0 → (collector s kk).current.number = (core s g).reduction →
      (collector (coreFault code g s) kk).allPoisoned = true) ∧
    (∀ kk n, (kk, n) ∈ (core s g).owed → n ≠ 0 → (collector s kk).current.number ≠ (core s g).reduction →
      ∀ r, r ∈ (collector s kk).reductions → r.number = (core s g).reduction →
      ∃ x, x ∈ (collector (coreFault code g s) kk).reductions ∧ x.number = r.number ∧ x.poisoned = List.range r.width) ∧
    (coreFault code g s).dram = s.dram ∧ (coreFault code g s).scratch = s.scratch ∧
    (coreFault code g s).near.units = s.near.units) ∧
  (∀ (s : State) (g : Fin 128) (c : Instr), (core s g).busy = true → (core s g).waiting = .none →
    (c = .salu g true ∨ c = .br g true ∨ c = .coreEnd g true ∨ c = .waitc g true ∨ c = .move g true ∨
      (∃ n l, c = .wload g true n l) ∨ c = .mma g true ∨ c = .push g true ∨ c = .storea g true ∨ c = .clra g true ∨
      (∃ l, c = .ldm g true l) ∨ c = .stm g true ∨ (∃ l m, c = .xfer g true l m)) →
    exec c s = .next (coreFault 0x9046 g s))) ∧
  (∀ (s : State) (g : Fin 128) (w : CoreWord),
    (∀ (entry : Fin 4096) (args : List Word) (reduction tenant : Nat),
      ((s.load.images.find? fun e => declaresEntry g entry e.2) = none ∨ mayStartCore s g reduction = false →
        exec (.coreStart g entry args reduction tenant) s = .next s) ∧
      (∀ n i, (s.load.images.find? fun e => declaresEntry g entry e.2) = some (n, i) → mayStartCore s g reduction = true →
        ∃ t, exec (.coreStart g entry args reduction tenant) s = .next t ∧
          core t g = { core s g with
            regs := 0 :: (List.range 31).map fun i => if i < 8 then args.getD i 0 else 0
            counters := List.replicate 8 0
            pc := entry.val
            busy := true
            waiting := .none
            error := false
            stepCode := 0
            owed := (core t g).owed
            reduction := reduction
            image := some n
            tenant := tenant } ∧
          (∀ k, k ≠ g.val → core t k = core s k) ∧
            t = { s with dense.cores := t.dense.cores, near.collectors := t.near.collectors } ∧
          (∀ k, (∀ p, p ∈ pushesAt g entry i → k ≠ 4 * (g.val / 16) + p.1 % 4) → collector t k = collector s k) ∧
          ∀ k m width, pushesAt g entry i = [(k, m, width)] → (core t g).owed = [(4 * (g.val / 16) + k % 4, m)] ∧
            collector t (4 * (g.val / 16) + k % 4) = { collector s (4 * (g.val / 16) + k % 4) with
              reductions := joinReduction ⟨reduction, width, false, m, []⟩ (collector s (4 * (g.val / 16) + k % 4)).reductions })) ∧
    ((core s g).busy = true → (core s g).waiting = .none ∨ (core s g).waiting = .counter →
      coreWord (core s g) (core s g).pc = w → w.op = 2 →
      (w.imm ≤ ((core s g).counters.getD w.sub 0).toNat → ∃ t, exec (.waitc g false) s = .next t ∧ OnlyCore g s t ∧
        core t g = { issuedCore (core s g) with waiting := .none }) ∧
      (((core s g).counters.getD w.sub 0).toNat < w.imm → ∃ t, exec (.waitc g false) s = .next t ∧ OnlyCore g s t ∧
        core t g = { core s g with lastPc := (core s g).pc, waiting := .counter })) ∧
    (CoreReady 8 g w s → divByZero (w.ext % 16) (BitVec.ofNat 32 (addr32 s g w.rc w.imm)) = false →
      ∃ t, exec (.salu g false) s = .next t ∧ OnlyCore g s t ∧ core t g = { issuedCore (core s g) with
        regs := if w.ra = 0 then (core s g).regs
          else ((core s g).regs ++ List.replicate (32 - (core s g).regs.length) 0).set w.ra
            (aluFn (w.ext % 16) (sreg (core s g) w.rb) (BitVec.ofNat 32 (addr32 s g w.rc w.imm))) }) ∧
    (CoreReady 8 g w s → divByZero (w.ext % 16) (BitVec.ofNat 32 (addr32 s g w.rc w.imm)) = true →
      ∃ t, exec (.salu g false) s = .next t ∧ (core t g).code ≠ 0 ∧ (core t g).pc = ((core s g).pc + 1) % 4096 ∧
        (core t g).busy = true ∧ (0 < w.ra → w.ra < 32 → (core s g).regs.length = 32 → sreg (core t g) w.ra = 0)) ∧
    (CoreReady 9 g w s → ∃ t, exec (.br g false) s = .next t ∧ OnlyCore g s t ∧
      core t g = if branchTaken w.sub (sreg (core s g) w.ra) (sreg (core s g) w.rb) = true
        then { issuedCore (core s g) with pc := w.imm % 4096 } else issuedCore (core s g)) ∧
    (CoreReady 0x0A g w s → ∃ t, exec (.coreEnd g false) s = .next t ∧ OnlyCore g s t ∧
      core t g = { core s g with lastPc := (core s g).pc, busy := false, idleSince := some s.us }))

/-- WLOAD and MMA (R116, R196-R198, R206, R211, R221): the buffer named takes the block, whatever bytes the check bits find
wrong; an MMA adds the products of the block and the inputs to the accumulators, position by position; a buffer that is not
full stalls; addresses outside the core bank, pointers outside the tile's scratchpad and accumulators that do not exist stop
the core with their codes. R35, R198: one MMA of one position through an untransposed buffer: output `i`'s accumulator takes
the 64 products of row `i` with the inputs, in order, when no two outputs share an accumulator. PUSH, CLRA and STOREA
(R60-R66, R200, R204, R206): the accumulators go, four to a sector, to the collector that the word names and are cleared;
CLRA clears; STOREA writes its results to the core bank, plain or encoded, and observes them where its word says so;
accumulators that do not exist are 0x9042. -/
def Obligations.CoreArray : Prop :=
  (∀ (s : State) (g : Fin 128) (w : CoreWord),
    (∀ n wrong, CoreReady 0x10 g w s → bankFits (addr32 s g w.ra w.imm) 64 = false →
      exec (.wload g false n wrong) s = .next (coreFault 0x9041 g (issued g s))) ∧
    (∀ (n : Nat) (wrong : List Nat), CoreReady 0x10 g w s → bankFits (addr32 s g w.ra w.imm) 64 = true →
      ∀ base, base = bankAddress g (addr32 s g w.ra w.imm) → ∀ c34, c34 = (memRead s.scratch.bytes (base + 34)).toNat →
      ∀ stride, stride = (memHalf s.scratch.bytes (base + 32)).toNat →
      (subAddresses s g (addr32 s g w.ra w.imm) (bit c34 2) (c34 % 4) stride = none →
        ∃ t, exec (.wload g false n wrong) s = .next t ∧ (core t g).busy = false ∧ (core t g).error = true ∧
          (core t g).code ≠ 0 ∧
          (∀ k, k ≠ g.val → core t k = core s k)) ∧
      (∀ ps, subAddresses s g (addr32 s g w.ra w.imm) (bit c34 2) (c34 % 4) stride = some ps →
        ∃ t, exec (.wload g false n wrong) s = .next t ∧ (∀ k, k ≠ g.val → core t k = core s k) ∧ t.dram = s.dram ∧
          t.near = s.near ∧
          t.scratch.bytes = s.scratch.bytes ∧ ∀ buf, buf = (if w.sub % 2 = 0 then (core t g).buf0 else (core t g).buf1) →
          core t g = { issuedCore (core s g) with
            buf0 := if w.sub % 2 = 0 then buf else (core s g).buf0
            buf1 := if w.sub % 2 = 0 then (core s g).buf1 else buf
            bad := (core t g).bad, storeMarks := (core t g).storeMarks
            throttleCycles := (core s g).throttleCycles + BitVec.ofNat 64 (gapCycles (issueFraction s (g.val / 16)) 1) } ∧
          buf.full = true ∧ buf.transposed = bit c34 3 ∧
          buf.operands = (blockWeights s (core s g).codebooks ps (c34 / 16) (c34 % 4) (bit c34 2) stride).map (·.1) ∧
          buf.accRows = (List.range 8).map (fun i => (memHalf s.scratch.bytes (base + 36 + 2 * i)).toNat) ∧
          buf.accCol = (memHalf s.scratch.bytes (base + 52)).toNat)) ∧
    (CoreReady 0x11 g w s →
      ∀ b, b = (if bit w.ext 9 then (core s g).buf1 else (core s g).buf0) → ∀ input, input = addr32 s g w.ra w.imm →
      ∀ stride, stride = regN s g w.rb → ∀ factors, factors = regN s g w.rc → ∀ P, P = w.ext % 512 + 1 →
      (b.full = false → ∃ t, exec (.mma g false) s = .next t ∧ OnlyCore g s t ∧
        core t g = { core s g with lastPc := (core s g).pc }) ∧
      (b.full = true → bankFits (input + (P - 1) * stride) 128 = true → bankFits input 128 = true →
        (bit w.ext 10 = true → bankFits factors 256 = true) →
        (32768 ≤ mmaTop b P → exec (.mma g false) s = .next (coreFault 0x9042 g (issued g s))) ∧
        (mmaTop b P < 32768 → CleanCore g s → ∃ t, exec (.mma g false) s = .next t ∧ OnlyCore g s t ∧
          core t g = { issuedCore (core s g) with
            accs := (List.range P).foldl (fun a p => mmaPosition b (bankHalves s g (input + p * stride) 64)
              (if bit w.ext 10 then some (bankWords s g factors 64) else none) P p a) (core s g).accs
            arrayCycles := (core s g).arrayCycles + BitVec.ofNat 64 P
            throttleCycles := (core s g).throttleCycles +
              BitVec.ofNat 64 (gapCycles (issueFraction s (g.val / 16)) (max P 16)) }) ∧
        (mmaTop b P < 32768 → ∃ t, exec (.mma g false) s = .next t ∧ (core t g).pc = ((core s g).pc + 1) % 4096 ∧
          (core t g).busy = true ∧ (core t g).arrayCycles = (core s g).arrayCycles + BitVec.ofNat 64 P ∧
          (∀ k, k ≠ g.val → core t k = core s k) ∧ t.dram = s.dram ∧ t.near = s.near)) ∧
      (b.full = true → (bankFits (input + (P - 1) * stride) 128 = false ∨ bankFits input 128 = false ∨
        (bit w.ext 10 = true ∧ bankFits factors 256 = false)) →
        exec (.mma g false) s = .next (coreFault 0x9041 g (issued g s))))) ∧
  (∀ (b : WeightBuf) (x : List (Val × Bool)) (P p : Nat) (a : Tab Acc) (i : Nat), i < 64 → b.transposed = false →
    (∀ j, j < 64 → ∀ k, k < 64 → mmaIndex b P j p = mmaIndex b P k p → j = k) →
    tabGet {} (mmaPosition b x none P p a) (mmaIndex b P i p) =
      (List.range 64).foldl (fun c n => c.applyMarked
        ((b.operands.getD (64 * i + n) .zero).mul (x.getD n (.zero, false)).1)
        (b.marks.contains (64 * i + n) || (x.getD n (.zero, false)).2)) (tabGet {} a (mmaIndex b P i p))) ∧
  (∀ (s : State) (g : Fin 128) (w : CoreWord), ∀ first, first = regN s g w.ra →
    (CoreReady 0x12 g w s → 32768 < first + w.imm → exec (.push g false) s = .next (coreFault 0x9042 g (issued g s))) ∧
    (CoreReady 0x12 g w s → CleanCore g s → ∀ kk, kk = 4 * (g.val / 16) + w.ext % 4 → first + w.imm ≤ 32768 →
      ∃ t, exec (.push g false) s = .next t ∧
        (∃ os, (collector t kk) = { collector s kk with inbox := (collector s kk).inbox ++ os } ∧ os.length = w.imm / 4 ∧
          ∀ i, i < w.imm / 4 → os.getD i ⟨0, .zero, 0, {}⟩ = {
            tag := tagOf 1 (regN s g w.rb + 4 * i)
            sector := wideFour ((List.range 4).map fun k =>
              deliverWide none (tabGet {} (core s g).accs (first + 4 * i + k)))
            reduction := (core s g).reduction }) ∧
        core t g = { issuedCore (core s g) with
          accs := tabClear (core s g).accs first (first + 4 * (w.imm / 4))
          pushedSectors := (core s g).pushedSectors + BitVec.ofNat 64 (w.imm / 4)
          owed := tabPut (core s g).owed kk (tabGet 0 (core s g).owed kk - w.imm / 4)
          throttleCycles := (core s g).throttleCycles + BitVec.ofNat 64 (gapCycles (issueFraction s (g.val / 16)) 1) } ∧
        (∀ k, k ≠ g.val → core t k = core s k) ∧ (∀ k, k ≠ kk → collector t k = collector s k) ∧
        t = { s with dense.cores := t.dense.cores, near.collectors := t.near.collectors }) ∧
    (CoreReady 0x14 g w s → 32768 < first + w.imm →
      exec (.clra g false) s = .next (coreFault 0x9042 g (issued g s))) ∧
    (CoreReady 0x14 g w s → first + w.imm ≤ 32768 → ∃ t, exec (.clra g false) s = .next t ∧ OnlyCore g s t ∧
      core t g = { issuedCore (core s g) with accs := (core t g).accs, bad := (core t g).bad } ∧
      (∀ a, first ≤ a → a < first + w.imm → tabFind? (core t g).accs a = none) ∧
      (∀ a, a < first ∨ first + w.imm ≤ a → tabFind? (core t g).accs a = tabFind? (core s g).accs a)) ∧
    (CoreReady 0x13 g w s → 32768 < first + w.imm →
      exec (.storea g false) s = .next (coreFault 0x9042 g (issued g s))) ∧
    (CoreReady 0x13 g w s → first + w.imm ≤ 32768 →
      (bankFits (regN s g w.rb) (bytesOf (w.ext % 8) w.imm) = false ∨
        (regN s g w.rc ≠ 0xFFFFFFFF ∧ bankFits (regN s g w.rc) (4 * w.imm) = false)) →
      exec (.storea g false) s = .next (coreFault 0x9041 g (issued g s))) ∧
    (CoreReady 0x13 g w s → CleanCore g s → Inv s → ∀ fmt, fmt = w.ext % 8 → fmt ≤ 4 →
      first + w.imm ≤ 32768 → bankFits (regN s g w.rb) (bytesOf fmt w.imm) = true →
      (regN s g w.rc = 0xFFFFFFFF ∨ bankFits (regN s g w.rc) (4 * w.imm) = true) →
      ∀ xs, xs = (List.range w.imm).map (fun i =>
        ((tabGet ({} : Acc) (core s g).accs (first + i)).value, (tabGet ({} : Acc) (core s g).accs (first + i)).poison)) →
      ∃ t, exec (.storea g false) s = .next t ∧
        (core t g).pc = ((core s g).pc + 1) % 4096 ∧ (core t g).busy = true ∧ (core t g).accs = (core s g).accs ∧
        (∀ k, k ≠ g.val → core t k = core s k) ∧ t.dram = s.dram ∧ t.near = s.near ∧
        (∀ a, a < bankAddress g (regN s g w.rb) ∨ bankAddress g (regN s g w.rb) + bytesOf fmt w.imm ≤ a →
          scratchByte t a = scratchByte s a) ∧
        (regN s g w.rc = 0xFFFFFFFF → fmt < 3 →
          memReadN t.scratch.bytes (bankAddress g (regN s g w.rb)) (bytesOf fmt w.imm) =
            ((List.range w.imm).map fun i => leBytes (elemWidth fmt / 8) (plainBits fmt (roundingOf w.rnd s.free i)
              (xs.getD i (.zero, false)).1)).flatten ∧
          (bit w.ext 32 = true →
            tabGet {} (core t g).stats (bits w.ext 31 16 % 4096) = observeVals xs {})) ∧
        (regN s g w.rc = 0xFFFFFFFF → 3 ≤ fmt → ∃ (sc : CodeScale) (n : Nat) (cb : Codebook),
          cb = slotCodebook (core s g).codebooks (bits w.ext 6 3) ∧
          memReadN t.scratch.bytes (bankAddress g (regN s g w.rb)) (bytesOf fmt w.imm) =
            (packBytes fmt ((List.range w.imm).map fun i => ((encodeCode cb sc.scale sc.zeroRange (roundingOf w.rnd n i)
              (xs.getD i (.zero, false)).1).code, false))).map (·.1) ∧
          (bit w.scaleCtl 3 = true → bit w.ext 32 = true →
            (sc.scale, sc.zeroRange) = autoScale (bits w.scaleCtl 2 1) (cb.value cb.anchorIndex) (observeVals xs {})) ∧
          (∀ k i x, bit w.scaleCtl 3 = false → (core s g).image = some k → tabFind? s.load.images k = some i →
            imageScale s i.scaleTables (bits w.ext 31 16) = some x → sc = ⟨x.1.1, x.1.2, x.2⟩))))

/-- R60-R62, R201, R207: a vector's results go to the core bank at S[RC], rounded once to its format or encoded by its
codebook, and nowhere else. The vector functions of one or two vectors (R201, R207): element by element, in the order of the
vector, with the poison of each element's sources. CONVERT reads its vector in the source format of its word, which the spec
does not place (a free value). The vector functions of rows (R201): the maximum of each row in FP32, the sum of each row
with one rounding, and the causal mask; a source or result outside the core bank stops the core with 0x9041. -/
def Obligations.VectorOperations : Prop :=
  (∀ (s : State) (g : Nat) (w : CoreWord) (p : VopPlan) (xs : List (Val × Bool)), Inv s → CleanCore g s → p.fmt ≤ 4 →
    ∀ t, t = writeVec g w p xs s → ∀ ys, ys = (if p.exact then xs else xs.map fun x => (roundFp32 x.1, x.2)) →
    (p.fmt < 3 → memReadN t.scratch.bytes (bankAddress g (regN s g w.rc)) (bytesOf p.fmt xs.length) =
        ((List.range xs.length).map fun i => leBytes (elemWidth p.fmt / 8)
          (plainBits p.fmt (roundingOf w.rnd s.free i) (ys.getD i (.zero, false)).1)).flatten ∧
      t = { s with scratch := t.scratch, free := s.free + if w.rnd = 2 then xs.length else 0 }) ∧
    (3 ≤ p.fmt → (∃ (sc : CodeScale) (n : Nat), memReadN t.scratch.bytes (bankAddress g (regN s g w.rc)) (bytesOf p.fmt xs.length) =
        (packBytes p.fmt ((List.range xs.length).map fun i => ((encodeCode (slotCodebook (core s g).codebooks (bits w.ext 13 10))
          sc.scale sc.zeroRange (roundingOf w.rnd n i) (ys.getD i (.zero, false)).1).code, false))).map (·.1)) ∧
      t = { s with
        scratch := t.scratch, free := t.free, dense.cores := t.dense.cores, tenancy.tenants := t.tenancy.tenants }) ∧
    (∀ a, a < bankAddress g (regN s g w.rc) ∨ bankAddress g (regN s g w.rc) + bytesOf p.fmt xs.length ≤ a →
      scratchByte t a = scratchByte s a)) ∧
  (∀ (s : State) (g : Fin 128) (w : CoreWord),
    CoreReady 0x18 g w s → CleanCore g s → ∀ fmt, fmt = vopFormat s g w → ∀ cost, cost = ceilDiv w.imm 64 →
    ∀ a, a = vecElems s g (regN s g w.ra) fmt (bits w.ext 13 10) w.imm →
    ∀ b, b = vecElems s g (regN s g w.rb) fmt (bits w.ext 13 10) w.imm →
    ∀ c, c = vecElems s g (regN s g w.rc) fmt (bits w.ext 13 10) w.imm → ∀ one : List VopSource, one = [⟨w.ra, fmt, w.imm⟩] →
    ∀ two : List VopSource, two = [⟨w.ra, fmt, w.imm⟩, ⟨w.rb, fmt, w.imm⟩] →
    bankFits (regN s g w.ra) (bytesOf fmt w.imm) = true → bankFits (regN s g w.rc) (bytesOf fmt w.imm) = true →
    (bankFits (regN s g w.rb) (bytesOf fmt w.imm) = true →
      (w.ext % 256 = 1 → exec (.vopAdd g false) s = .next (addGap g cost (writeVec g w
        { srcs := two, fmt := fmt, count := w.imm, cost := cost }
        ((a.zip b).map fun p => (p.1.1.add p.2.1, p.1.2 || p.2.2)) (issued g s)))) ∧
      (w.ext % 256 = 2 → exec (.vopMul g false) s = .next (addGap g cost (writeVec g w
        { srcs := two, fmt := fmt, count := w.imm, cost := cost }
        ((a.zip b).map fun p => (p.1.1.mul p.2.1, p.1.2 || p.2.2)) (issued g s)))) ∧
      (w.ext % 256 = 3 → exec (.vopFma g false) s = .next (addGap g cost (writeVec g w
        { srcs := two ++ [⟨w.rc, fmt, w.imm⟩], fmt := fmt, count := w.imm, cost := cost, exact := true }
        (((a.zip b).zip c).map fun p => ((p.1.1.1.mul p.1.2.1).add p.2.1, p.1.1.2 || p.1.2.2 || p.2.2)) (issued g s)))) ∧
      (w.ext % 256 = 4 → exec (.vopMax g false) s = .next (addGap g cost (writeVec g w
        { srcs := two, fmt := fmt, count := w.imm, cost := cost }
        ((a.zip b).map fun p => (p.1.1.max p.2.1, p.1.2 || p.2.2)) (issued g s))))) ∧
    (w.ext % 256 = 5 → exec (.vopTable g false) s = .next (addGap g cost (writeVec g w
      { srcs := one, fmt := fmt, count := w.imm, cost := cost, table := some (bits w.ext 18 16) }
      (a.map fun x => ((storeTable (core s g).tables (bits w.ext 18 16)).eval x.1, x.2)) (issued g s)))) ∧
    (bankFits (regN s g w.ra) (bytesOf 0 w.imm) = true → bankFits (regN s g w.rb) 4 = true → w.ext % 256 = 6 →
      exec (.vopExpsub g false) s = .next (addGap g cost (writeVec g w
        { srcs := [⟨w.ra, 0, w.imm⟩, ⟨w.rb, 0, 1⟩], fmt := fmt, count := w.imm, cost := cost }
        ((vecElems s g (regN s g w.ra) 0 (bits w.ext 13 10) w.imm).map fun x =>
          (expSub x.1 (ofFp32 (memWord s.scratch.bytes (bankAddress g (regN s g w.rb)))), x.2 ||
            (marked s (bankAddress g (regN s g w.rb)) || marked s (bankAddress g (regN s g w.rb) + 3)))) (issued g s)))) ∧
    (w.ext % 256 = 0x0A → exec (.vopRsqrt g false) s = .next (addGap g cost (writeVec g w
      { srcs := one, fmt := fmt, count := w.imm, cost := cost, table := some 6 }
      (a.map fun x => (rsqrt (core s g).tables x.1, x.2)) (issued g s)))) ∧
    (w.ext % 256 = 0x0B → bankFits (regN s g w.ra) (4 * w.imm) = true → ∃ source, source ≤ 4 ∧
      exec (.vopConvert g false) s = .next (addGap g cost (writeVec g w
        { srcs := [⟨w.ra, source, w.imm⟩], fmt := fmt, count := w.imm, cost := cost }
        (vecElems s g (regN s g w.ra) source (bits w.ext 13 10) w.imm) (issued g s))))) ∧
  (∀ (s : State) (g : Fin 128) (w : CoreWord),
    CoreReady 0x18 g w s → ∀ fmt, fmt = vopFormat s g w → ∀ cost, cost = ceilDiv w.imm 64 → ∀ n, n = rowLength w →
    ∀ side, side = w.imm % 65536 → ∀ a, a = vecElems s g (regN s g w.ra) fmt (bits w.ext 13 10) w.imm →
    (CleanCore g s → bankFits (regN s g w.ra) (bytesOf fmt w.imm) = true →
      (w.ext % 256 = 7 → bankFits (regN s g w.rc) (bytesOf 0 (w.imm / n)) = true →
        exec (.vopRowmax g false) s = .next (addGap g cost (writeVec g w
          { srcs := [⟨w.ra, fmt, w.imm⟩], fmt := 0, count := w.imm / n, cost := cost }
          ((List.range (w.imm / n)).map fun i => rowMax ((a.drop (n * i)).take n)) (issued g s)))) ∧
      (w.ext % 256 = 8 → bankFits (regN s g w.rc) (bytesOf fmt (w.imm / n)) = true →
        exec (.vopRowsum g false) s = .next (addGap g cost (writeVec g w
          { srcs := [⟨w.ra, fmt, w.imm⟩], fmt := fmt, count := w.imm / n, cost := cost, exact := true }
          ((List.range (w.imm / n)).map fun i => ((applyAll ((a.drop (n * i)).take n) {}).value,
            (applyAll ((a.drop (n * i)).take n) {}).poison)) (issued g s))))) ∧
    (CleanCore g s → w.ext % 256 = 9 → bankFits (regN s g w.rb) (bytesOf fmt (side * side)) = true →
      bankFits (regN s g w.rc) (bytesOf fmt (side * side)) = true →
      exec (.vopCausal g false) s = .next (addGap g (ceilDiv (side * side) 64) (writeVec g w
        { srcs := [⟨w.rb, fmt, side * side⟩], fmt := fmt, count := side * side, cost := ceilDiv (side * side) 64 }
        (((List.range (side * side)).zip (vecElems s g (regN s g w.rb) fmt (bits w.ext 13 10) (side * side))).map fun p =>
          if regN s g w.ra + p.1 / side < w.imm / 65536 + p.1 % side then (.inf true, p.2.2) else p.2) (issued g s)))) ∧
    (bankFits (regN s g w.ra) (bytesOf fmt w.imm) = false ∨ bankFits (regN s g w.rc) (bytesOf fmt w.imm) = false →
      (w.ext % 256 = 1 → exec (.vopAdd g false) s = .next (coreFault 0x9041 g (issued g s))) ∧
      (w.ext % 256 = 2 → exec (.vopMul g false) s = .next (coreFault 0x9041 g (issued g s))) ∧
      (w.ext % 256 = 3 → exec (.vopFma g false) s = .next (coreFault 0x9041 g (issued g s))) ∧
      (w.ext % 256 = 4 → exec (.vopMax g false) s = .next (coreFault 0x9041 g (issued g s))) ∧
      (w.ext % 256 = 5 → exec (.vopTable g false) s = .next (coreFault 0x9041 g (issued g s))) ∧
      (w.ext % 256 = 0x0A → exec (.vopRsqrt g false) s = .next (coreFault 0x9041 g (issued g s)))))

/-- LDM, STM and XFER (R82, R115, R200, R206, R209, R218, R219, R223, R227): whole sectors between module memory, or the
tile's scratchpad, and the core bank; an LDM that must read a held bank, and an STM to one, wait; addresses outside stop the
core. MOVE and MOVE_COMPLETE (R29, R200, R243, R263): the pair is checked and both descriptors are copied at acceptance, a
pair that fails its check stops the core with the code; the oldest copy of the tile's engine is performed and its counter
rises, or waits for a pair that is held. Fences and waits of a core (R206, R219, R253-R255, R263, R264): a release of CORE
scope is complete once no queued MOVE still reads the core's bank, one of MODULE scope pends while the core waits; an
acquire without a flag empties the tile's read cache (not at CORE scope) and goes on, one with a flag goes on where it has
the value; a wait that passes WAIT_LIMIT stops the core with 0x9044. -/
def Obligations.CoreMemoryAndFences : Prop :=
  (∀ (s : State) (g : Fin 128) (w : CoreWord), Inv s → ∀ m, m = moduleAddress s g w → ∀ d, d = regN s g w.rb →
    (∀ badLines, CoreReady 0x20 g w s → bankFits d w.imm = true → m + w.imm ≤ capacity s →
      (loadWaits s g m w.imm (w.sub % 2 == 0) badLines = true →
        exec (.ldm g false badLines) s = .next (deferCommand (.ldm g false badLines) s)) ∧
      (w.sub % 2 = 1 → rangeWaits s m w.imm = false → CleanSectors s m (w.imm / 32) →
        ∃ t, exec (.ldm g false badLines) s = .next t ∧
          (∀ i, i < w.imm / 32 → ∀ x, peekSector s (m + 32 * i) = some x →
            memReadN t.scratch.bytes (bankAddress g d + 32 * i) 32 = sectorBytes x.data) ∧
          (∀ a, a < bankAddress g d ∨ bankAddress g d + w.imm / 32 * 32 ≤ a → scratchByte t a = scratchByte s a) ∧
          core t g = issuedCore (core s g) ∧ (∀ k, k ≠ g.val → core t k = core s k) ∧
          t.dram.bytes = s.dram.bytes ∧ t.dense.tiles = s.dense.tiles)) ∧
    (CoreReady 0x20 g w s → bankFits d w.imm = true → m + w.imm ≤ capacity s → w.sub % 2 = 0 → w.imm = 32 →
      ∀ line, tabFind? (coreTile s (g.val / 16)).lines (m / 64) = some line → ∃ t, exec (.ldm g false []) s = .next t ∧
        memReadN t.scratch.bytes (bankAddress g d) 32 = sectorBytes (lineSector line (m / 32 % 2 == 1)).data ∧
        (coreTile t (g.val / 16)).hits = (coreTile s (g.val / 16)).hits + 1 ∧
        (coreTile t (g.val / 16)).misses = (coreTile s (g.val / 16)).misses ∧ t.dram = s.dram) ∧
    (CoreReady 0x21 g w s → bankFits d w.imm = true → m + w.imm ≤ capacity s →
      (rangeWaits s m w.imm = true → exec (.stm g false) s = .next (deferCommand (.stm g false) s)) ∧
      (rangeWaits s m w.imm = false → s.spread.units = liveUnitCount s.spread.applied → CleanSectors s m (w.imm / 32) →
        s.scratch.bad = [] → ∃ t, exec (.stm g false) s = .next t ∧
          (∀ i, i < w.imm / 32 → peekSector t (m + 32 * i) =
            some (if (bankSector s g (d + 32 * i)).poison then .poisoned else bankSector s g (d + 32 * i))) ∧
          (∀ a, (∀ i, i < w.imm / 32 → a / 32 ≠ m / 32 + i) → peekSector t a = peekSector s a) ∧
          core t g = issuedCore (core s g) ∧ (∀ k, k ≠ g.val → core t k = core s k) ∧ t.scratch = s.scratch)) ∧
    (CoreReady 0x22 g w s → bankFits d w.imm = true → ∀ corrected,
      ∀ v x, resolve (regN s g w.ra) = some (v, x) → ∀ y, resolve (regN s g w.ra + (w.imm - 1)) = some (v, y) →
      tileOf (regN s g w.ra) = g.val / 16 → x + (w.imm - 1) = y → s.scratch.bad = [] →
      (x + w.imm ≤ bankAddress g d ∨ bankAddress g d + w.imm ≤ x) →
      (w.sub % 2 = 1 → ∃ t, exec (.xfer g false corrected []) s = .next t ∧
        (∀ i, i < w.imm / 32 * 32 → scratchByte t (bankAddress g d + i) = scratchByte s (x + i)) ∧
        (∀ a, a < bankAddress g d ∨ bankAddress g d + w.imm / 32 * 32 ≤ a → scratchByte t a = scratchByte s a) ∧
        core t g = issuedCore (core s g) ∧ t.dram = s.dram) ∧
      (w.sub % 2 = 0 → ∃ t, exec (.xfer g false corrected []) s = .next t ∧
        (∀ i, i < w.imm / 32 * 32 → scratchByte t (x + i) =
          aliasByte v (scratchByte s (x + i)) (scratchByte s (bankAddress g d + i))) ∧
        (∀ a, a < x ∨ x + w.imm / 32 * 32 ≤ a → scratchByte t a = scratchByte s a) ∧
        core t g = issuedCore (core s g) ∧ t.dram = s.dram)) ∧
    (bankFits d w.imm = false →
      (CoreReady 0x20 g w s → exec (.ldm g false []) s = .next (coreFault 0x9041 g (issued g s))) ∧
      (CoreReady 0x21 g w s → exec (.stm g false) s = .next (coreFault 0x9041 g (issued g s))) ∧
      (CoreReady 0x22 g w s → exec (.xfer g false [] []) s = .next (coreFault 0x9041 g (issued g s)))) ∧
    (bankFits d w.imm = true → capacity s < m + w.imm →
      (CoreReady 0x20 g w s → exec (.ldm g false []) s = .next (coreFault 0x9047 g (issued g s))) ∧
      (CoreReady 0x21 g w s → exec (.stm g false) s = .next (coreFault 0x9047 g (issued g s))))) ∧
  ((∀ (s : State) (g : Fin 128) (w : CoreWord), CoreReady 1 g w s →
    (∀ x, descEntry s (w.ext % 65536) = some x → ∀ y, descEntry s (bits w.ext 31 16) = some y →
      (copyCheck (decodeDesc x.words) (decodeDesc y.words) = none → ∃ t, exec (.move g false) s = .next t ∧
        t.tables.copies = s.tables.copies ++ [{ issuer := .core g w.sub, srcIndex := w.ext % 65536, image := x.image
                                                dstIndex := bits w.ext 31 16, src := x.words, dst := y.words }] ∧
        core t g = { issuedCore (core s g) with moves := (core s g).moves + 1 } ∧
        (∀ k, k ≠ g.val → core t k = core s k) ∧
        t = { s with tables.copies := t.tables.copies, dense.cores := t.dense.cores }) ∧
      (∀ code, copyCheck (decodeDesc x.words) (decodeDesc y.words) = some code →
        exec (.move g false) s = .next (coreRefuse code g (issued g s)))) ∧
    (descEntry s (w.ext % 65536) = none ∨ descEntry s (bits w.ext 31 16) = none →
      exec (.move g false) s = .next (coreRefuse 0x2044 g (issued g s)))) ∧
  (∀ (s : State) (t : Fin 8), s.tables.copies.find? (moveOfTile t) = none → exec (.moveComplete t) s = .next s) ∧
  (∀ (s : State) (t : Fin 8), ∀ c, s.tables.copies.find? (moveOfTile t) = some c → ∀ k n, c.issuer = .core k n →
    ((sideWaits s (decodeDesc c.src) = true ∨ sideWaits s (decodeDesc c.dst) = true) →
      exec (.moveComplete t) s = .next (deferCommand (.moveComplete t) s)) ∧
    (sideWaits s (decodeDesc c.src) = false → sideWaits s (decodeDesc c.dst) = false →
      exec (.moveComplete t) s = .next (onCore k
        (fun h => { h with counters := listModify h.counters n (· + 1) })
        (compatFlush (decodeDesc c.dst) (performCopy (some (1 + k)) c
          { s with tables.copies := removeFirst (moveOfTile t) s.tables.copies })))))) ∧
  (∀ (s : State) (g : Fin 128) (w : CoreWord),
    (CoreReady 0x30 g w s → bit w.ext 0 = false →
      (w.sub = 0 → bankReadsQueued s g = true → exec (.fenceRelease g false) s = .next s) ∧
      (w.sub = 0 → bankReadsQueued s g = false → ∃ t, exec (.fenceRelease g false) s = .next t ∧ OnlyCore g s t ∧
        core t g = issuedCore (core s g)) ∧
      (w.sub = 1 → ∃ t, exec (.fenceRelease g false) s = .next t ∧
        core t g = { issuedCore (core s g) with waiting := .release } ∧ (∀ k, k ≠ g.val → core t k = core s k) ∧
        t.order.releases = s.order.releases ++ [{ agent := .core g, scope := .module }] ∧
        t = { s with dense.cores := t.dense.cores, order.releases := t.order.releases }) ∧
      (2 ≤ w.sub → exec (.fenceRelease g false) s = .next (beginRelease (.core g) .system
        (onCore g (fun c => { issuedCore c with waiting := .release }) s)))) ∧
    ((core s g).busy = true → ((core s g).waiting = .none ∨ (core s g).waiting = .acquire) →
      coreWord (core s g) (core s g).pc = w → w.op = 0x30 → bit w.ext 0 = true →
      (bit w.ext 1 = false → ∃ t, exec (.fenceAcquire g false) s = .next t ∧
        core t g = { issuedCore (core s g) with waiting := .none } ∧ (∀ k, k ≠ g.val → core t k = core s k) ∧
        coreTile t (g.val / 16) = (if w.sub = 0 then coreTile s (g.val / 16) else
          { coreTile s (g.val / 16) with
            lines := [], invalidations := (coreTile s (g.val / 16)).invalidations + 1 }) ∧
        t = { s with dense := t.dense }) ∧
      (bit w.ext 1 = true → bit w.ext 42 = true → bits w.ext 41 2 * 8 < 2 ^ 29 →
        ∀ b, resolve (g.val / 16 * 2 ^ 29 + bits w.ext 41 2 * 8) = some b → s.scratch.bad = [] →
        ((List.range 8).any fun i => marked s (b.2 + i)) = false →
        ∃ t, exec (.fenceAcquire g false) s = .next t ∧ t = { s with dense := t.dense, scratch.ports := t.scratch.ports } ∧
          core t g = if leValue (memReadN s.scratch.bytes b.2 8) = regN s g w.ra
            then { issuedCore (core s g) with waiting := .none }
            else { core s g with lastPc := (core s g).pc, waiting := .acquire }) ∧
      (∀ a, a = bits w.ext 41 2 * 8 → bit w.ext 1 = true → bit w.ext 42 = false → a + 8 ≤ capacity s →
        (addressWaits s a = true → exec (.fenceAcquire g false) s = .next (deferCommand (.fenceAcquire g false) s)) ∧
        (addressWaits s a = false → CleanSectors s (a / 32 * 32) 1 → ∀ x, peekSector s (a / 32 * 32) = some x →
          x.poison = false →
          ∃ t, exec (.fenceAcquire g false) s = .next t ∧ t = { s with dense := t.dense, dram.channels := t.dram.channels } ∧
            core t g = if x.data.toNat / 2 ^ (8 * (a % 32)) % 2 ^ 64 = regN s g w.ra
              then { issuedCore (core s g) with waiting := .none }
              else { core s g with lastPc := (core s g).pc, waiting := .acquire }))) ∧
    ((core s g).busy = true → (coreTile s (g.val / 16)).waitLimit ≠ 0 →
      ((core s g).waiting = .counter → exec (.waitLimitExpiry g) s = .next (coreFault 0x9044 g s)) ∧
      ((core s g).waiting = .acquire → exec (.waitLimitExpiry g) s = .next (coreFault 0x9044 g
        { s with order.acquiresFailed := s.order.acquiresFailed + 1 }))))

/-- Scratchpad ports (R116, R219-R221, R225, R229): an access of a master other than the bank's owner waits in requests of
at most 8 KiB; the oldest request of the next master in round-robin order is granted and counted; a corrected byte is
written back. R216, R217, R223: the three windows of a bank name one byte: a plain write replaces it, the set window ORs
into it, the clear window clears it, a hole is a miss. -/
def Obligations.Scratchpads : Prop :=
  ((∀ (s : State) (t : Fin 8) (b : Fin 20) (waited conflicts : Nat),
    ((bankPort s t b).requests = [] → exec (.arbGrant t b waited conflicts) s = .next s) ∧
    ((bankPort s t b).requests ≠ [] → ∃ u, exec (.arbGrant t b waited conflicts) s = .next u ∧
      ∃ r, r ∈ (bankPort s t b).requests ∧
      (∀ x, x ∈ (bankPort s t b).requests →
        turnOf (bankPort s t b).lastGranted r.master ≤ turnOf (bankPort s t b).lastGranted x.master) ∧
      bankPort u t b = { bankPort s t b with
        lastGranted := r.master
        requests := removeFirst (fun x => x.master == r.master) (bankPort s t b).requests
        grants := (bankPort s t b).grants + 1
        waitCycles := (bankPort s t b).waitCycles + BitVec.ofNat 64 waited
        conflicts := (bankPort s t b).conflicts + BitVec.ofNat 64 conflicts } ∧
      (∀ i j, 20 * i + j ≠ 20 * t.val + b.val → bankPort u i j = bankPort s i j) ∧
      u = { s with scratch.ports := u.scratch.ports })) ∧
  (∀ (s : State) (a : Nat), ∃ u, exec (.sramWriteback a) s = .next u ∧
    (∀ b, b ∈ u.scratch.fixing ↔ b ∈ s.scratch.fixing ∧ b ≠ a) ∧ u = { s with scratch.fixing := u.scratch.fixing }) ∧
  (∀ last m : Nat, last < 20 → m < 20 → (last + 1 + turnOf last m) % 20 = m ∧ turnOf last m < 20) ∧
  (∀ (s : State) (m a n : Nat), (bankOf a = m → portAccess m a n s = s) ∧
    (bankOf a ≠ m → (bankPort (portAccess m a n s) (tileOf a) (bankOf a)).requests =
      (bankPort s (tileOf a) (bankOf a)).requests ++ splitRequests m n) ∧
    sumNat ((splitRequests m n).map (·.bytes)) = n ∧ ∀ r, r ∈ splitRequests m n → r.master = m ∧ 0 < r.bytes ∧
      r.bytes ≤ 8192)) ∧
  (∀ (s : State) (tile o : Nat) (b : Byte), tile < 8 → o < 0x06000000 → Inv s → s.scratch.bad = [] →
    scratchByte (scratchWrite false (tile * 0x20000000 + o) [b] s).1 (tile * 0x20000000 + o) = b ∧
    scratchByte (scratchWrite false (tile * 0x20000000 + o + 0x08000000) [b] s).1 (tile * 0x20000000 + o) =
      (scratchByte s (tile * 0x20000000 + o) ||| b) ∧
    scratchByte (scratchWrite false (tile * 0x20000000 + o + 0x10000000) [b] s).1 (tile * 0x20000000 + o) =
      (scratchByte s (tile * 0x20000000 + o) &&& ~~~b) ∧
    (∀ h, 0x06000000 ≤ h → h < 0x08000000 → scratchWrite false (tile * 0x20000000 + h) [b] s = (s, true)) ∧
    (∀ a, a ≠ tile * 0x20000000 + o →
      scratchByte (scratchWrite false (tile * 0x20000000 + o + 0x08000000) [b] s).1 a = scratchByte s a))

/-- R224: after a write of bytes in any of the three modes, a sector the write touches is marked if the data is poisoned;
its mark is cleared only by a plain write that covers all 32 bytes with data that is not poisoned; every other mark stands. -/
def Obligations.ScratchpadMarks : Prop :=
  ∀ (s : State) (m : Alias) (poison : Bool) (a k : Nat) (bs : List Byte), bs ≠ [] → s.scratch.bad = [] →
    (a / 32 ≤ k → k ≤ (a + bs.length - 1) / 32 →
      marked (scratchPut m poison a bs s) (32 * k) =
        (poison || (marked s (32 * k) && !(m == .normal && decide (a ≤ 32 * k) && decide (32 * k + 32 ≤ a + bs.length))))) ∧
    (k < a / 32 ∨ (a + bs.length - 1) / 32 < k → marked (scratchPut m poison a bs s) (32 * k) = marked s (32 * k))

/-- R260, R365, R366, R430: a host command before the port answers, or in D3hot, or other than the mailbox's while the start
is stopped, is not decoded; behind a pending release of the host it waits in its order (a 4-byte read of
HOST_RELEASES_PENDING apart); one whose stacked memory is held, or behind such a one, waits too (R29, R368); else it acts.
R260: when no release of the host pends any more, what was held acts, in the order it came, until one of it is a release
that pends. -/
def Obligations.HostCommandsGated : Prop :=
  (∀ (s : State) (c : Instr), hostRow c = true →
    (hostOpen s = false → exec c s = .next { s with port.answer := .noDecode }) ∧
    (hostOpen s = true → s.start.stopped = true → bootTakes c = false →
      exec c s = .next { s with port.answer := .noDecode }) ∧
    (hostOpen s = true → s.start.stopped = false → hostPending s = true → exemptRead c = false →
      exec c s = .next { s with heldHost := s.heldHost ++ [c] }) ∧
    (hostOpen s = true → (s.start.stopped = true → bootTakes c = true) → (hostPending s = true → exemptRead c = true) →
      (accessWaits c s = true ∨ (hostBlocked s = true ∧ exemptRead c = false) → exec c s = .next (deferCommand c s)) ∧
      (accessWaits c s = false → (hostBlocked s = true → exemptRead c = true) → exec c s = .next (hostEffect c s)))) ∧
  ((∀ s : State, hostPending s = true → drainHeld s = s) ∧
  (∀ s : State, hostPending s = false → s.heldHost = [] → drainHeld s = s) ∧
  (∀ (s : State), hostPending s = false → ∀ (c : Instr) (rest : List Instr), s.heldHost = c :: rest →
    ∀ u, u = (if accessWaits c { s with heldHost := [] } || hostBlocked { s with heldHost := [] }
      then deferCommand c { s with heldHost := [] } else hostEffect c { s with heldHost := [] }) →
    drainHeld s = if hostPending u = true ∧ rest ≠ [] then { u with heldHost := rest } else drainList rest u))

/-- ALLOC_CREATE, ALLOC_FREE and ALLOC_QUERY (R129, R231, R232, R246): while a table operation runs they are refused with
0x2026; a creation that passes takes the lowest free index, a freed entry's generation rises and its bytes are zeroed, at
once in scratchpad, behind the queue of fills in stacked memory; a query gives the entry's words; else the failing row's
code. DESC_CREATE, DESC_DESTROY and DESC_READ (R242): an index in use or zero, a descriptor that fails a row, one that a
copy names, and the effect of each where nothing fails. -/
def Obligations.TableOperations : Prop :=
  (∀ s : State, hostFree s = true →
    (tableBusy s = true →
      exec .allocCreate s = .next { s with tables.alloc := { s.tables.alloc with result := 0x2026 } } ∧
      exec .allocFree s = .next { s with tables.alloc := { s.tables.alloc with result := 0x2026 } } ∧
      exec .allocQuery s = .next { s with tables.alloc := { s.tables.alloc with result := 0x2026 } }) ∧
    (tableBusy s = false → hostAllocCheck s ≠ 0 → exec .allocCreate s = .next { s with
      tables.alloc := s.tables.alloc.begin (hostAllocCheck s), tables.newAllocId := none }) ∧
    (tableBusy s = false → hostAllocCheck s = 0 → ∀ i, freeAllocIndex s = some i → ∃ t, exec .allocCreate s = .next t ∧
      tabFind? t.tables.allocs i = some
        { base := s.tables.allocBase.toNat, size := s.tables.allocSize.toNat, scratch := s.tables.allocSpace
          tenant := s.tables.allocTenant.toNat, sealed := s.tables.allocSealed, valid := true
          gen := (tabGet ({} : Alloc) s.tables.allocs i).gen } ∧
      (∀ k, k ≠ i → tabFind? t.tables.allocs k = tabFind? s.tables.allocs k) ∧
      t.tables.alloc = s.tables.alloc.begin 0 ∧
      t.tables.newAllocId = some (BitVec.ofNat 20 ((tabGet ({} : Alloc) s.tables.allocs i).gen * 16384 + i)) ∧
      t = { s with tables := t.tables }) ∧
    (tableBusy s = false → allocOf s s.tables.allocId.toNat = none →
      exec .allocFree s = .next { s with
        tables.alloc := s.tables.alloc.begin 0x2005, tables.newAllocId := none } ∧
      exec .allocQuery s = .next { s with tables.alloc := s.tables.alloc.begin 0x2005
                                          tables.newAllocId := none, tables.entry := [0, 0, 0, 0] }) ∧
    (tableBusy s = false → ∀ i a, allocOf s s.tables.allocId.toNat = some (i, a) →
      exec .allocQuery s = .next { s with tables.alloc := s.tables.alloc.begin 0
                                          tables.newAllocId := none, tables.entry := allocWords i a } ∧
      (a.image ≠ none → exec .allocFree s = .next { s with
        tables.alloc := s.tables.alloc.begin 0x2025, tables.newAllocId := none }) ∧
      (a.image = none → a.descRefs ≠ 0 → exec .allocFree s = .next { s with
        tables.alloc := s.tables.alloc.begin 0x2024, tables.newAllocId := none }) ∧
      (a.image = none → a.descRefs = 0 → ∃ t, exec .allocFree s = .next t ∧
        tabFind? t.tables.allocs i = some { gen := (a.gen + 1) % 64 } ∧
        (∀ k, k ≠ i → tabFind? t.tables.allocs k = tabFind? s.tables.allocs k) ∧
        t.tables.alloc = s.tables.alloc.begin 0 ∧
        (a.scratch = false →
          t.protect.fills = s.protect.fills ++ [{ scratch := false, base := a.base, size := a.size }] ∧ t.scratch = s.scratch) ∧
        (a.scratch = true → t.protect = s.protect ∧
          ∀ b, scratchByte t b = if a.base ≤ b ∧ b < a.base + a.size then 0 else scratchByte s b) ∧ t.dram = s.dram))) ∧
  (∀ s : State, hostFree s = true →
    (tableBusy s = true →
      exec .descCreate s = .next { s with tables.desc := { s.tables.desc with result := 0x2026 } } ∧
      exec .descDestroy s = .next { s with tables.desc := { s.tables.desc with result := 0x2026 } } ∧
      exec .descRead s = .next { s with tables.desc := { s.tables.desc with result := 0x2026 } }) ∧
    (tableBusy s = false → (s.tables.descIndex = 0 ∨ (descEntry s s.tables.descIndex.toNat).isSome = true) →
      exec .descCreate s = .next { s with tables.desc := s.tables.desc.begin 0x2002 }) ∧
    (tableBusy s = false → s.tables.descIndex ≠ 0 → descEntry s s.tables.descIndex.toNat = none →
      (∀ code, descCheck s (codebookOk s) none (decodeDesc (stagedWords s)) = some code → exec .descCreate s =
        .next { s with tables.desc := s.tables.desc.begin code }) ∧
      (descCheck s (codebookOk s) none (decodeDesc (stagedWords s)) = none → ∃ t, exec .descCreate s = .next t ∧
        descEntry t s.tables.descIndex.toNat = some { words := stagedWords s, image := none } ∧
        (∀ k, k ≠ s.tables.descIndex.toNat → tabFind? t.tables.descs k = tabFind? s.tables.descs k) ∧
        t.tables.desc = s.tables.desc.begin 0 ∧
        (tabGet ({} : Alloc) t.tables.allocs ((decodeDesc (stagedWords s)).alloc % 16384)).descRefs =
          (tabGet ({} : Alloc) s.tables.allocs ((decodeDesc (stagedWords s)).alloc % 16384)).descRefs + 1 ∧
        t = { s with tables := t.tables })) ∧
    (tableBusy s = false → descEntry s s.tables.descIndex.toNat = none →
      exec .descDestroy s = .next { s with tables.desc := s.tables.desc.begin 0x2002 } ∧
      exec .descRead s = .next { s with tables.desc := s.tables.desc.begin 0x2002 }) ∧
    (tableBusy s = false → ∀ e, descEntry s s.tables.descIndex.toNat = some e →
      exec .descRead s = .next { s with
        tables.desc := s.tables.desc.begin 0
        tables.stage := (List.range 8).map fun k => e.words.extractLsb' (64 * k) 64 } ∧
      (namedByCopy s s.tables.descIndex.toNat = true →
        exec .descDestroy s = .next { s with tables.desc := s.tables.desc.begin 0x2030 }) ∧
      (namedByCopy s s.tables.descIndex.toNat = false → ∃ t, exec .descDestroy s = .next t ∧
        descEntry t s.tables.descIndex.toNat = none ∧
        (∀ k, k ≠ s.tables.descIndex.toNat → tabFind? t.tables.descs k = tabFind? s.tables.descs k) ∧
        (tabGet ({} : Alloc) t.tables.allocs ((decodeDesc e.words).alloc % 16384)).descRefs =
          (tabGet ({} : Alloc) s.tables.allocs ((decodeDesc e.words).alloc % 16384)).descRefs - 1 ∧
        t = { s with tables := t.tables })))

/-- R232: no two valid allocations of one space share a byte, and no command of the allocation or descriptor tables breaks
that. -/
def Obligations.AllocationsStayDisjoint : Prop :=
  ∀ (s t : State) (c : Instr), AllocsDisjoint s →
    (c = .allocCreate ∨ c = .allocFree ∨ c = .allocQuery ∨ c = .descCreate ∨ c = .descDestroy ∨ c = .descRead) →
    hostFree s = true → exec c s = .next t → AllocsDisjoint t

/-- Releases (R253, R260, R264, R350, R351): the host's begin pending, a SYSTEM one with a fence to every module written;
one whose acknowledgements have all come completes and is counted; one that waits beyond FENCE_LIMIT, or that cannot be
sent, fails. -/
def Obligations.Releases : Prop :=
  ∀ s : State,
    (hostFree s = true →
      exec .hostReleaseModule s = .next { s with
        order.releases := s.order.releases ++ [{ agent := .host, scope := .module }] } ∧
      (fenceCause s 0 (fenceTargets s 0) = none → ∃ t, exec .hostReleaseSystem s = .next t ∧
        (∃ r : Release, t.order.releases = s.order.releases ++ [r] ∧ r.agent = .host ∧ r.scope = .system ∧
          r.awaiting.map (·.1) = fenceTargets s 0) ∧
        tabFind? t.order.nodes 0 = none ∧ t.dram = s.dram ∧ t.scratch = s.scratch) ∧
      (∀ code, fenceCause s 0 (fenceTargets s 0) = some code → ∃ t, exec .hostReleaseSystem s = .next t ∧
        t.fabric.fenceFailed = true ∧ tabFind? t.order.nodes 0 = none ∧ t.order.releases = s.order.releases)) ∧
    (∀ (i : Nat) (r : Release), s.order.releases[i]? = some r →
      (r.awaiting = [] → exec (.releaseComplete i) s = .next (drainHeld (
        let u : State := { s with
          order.releases := s.order.releases.eraseIdx i
          order.moduleReleases := s.order.moduleReleases + (if r.scope = .module then 1 else 0)
          order.systemReleases := s.order.systemReleases + (if r.scope = .system then 1 else 0) }
        if r.agent = .host then u
        else onCore (agentKey r.agent - 1) (fun c => { c with waiting := .none }) u))) ∧
      (r.awaiting ≠ [] → exec (.releaseComplete i) s = .next (drainHeld s) ∧
        ∃ u, exec (.fenceTimeout i) s = .next (drainHeld u) ∧
          u.order.releases = s.order.releases.filter (fun x => x != r) ∧
          (r.agent = .host → u.fabric.fenceFailed = true) ∧
          (∀ g, r.agent = .core g → (core u g).error = true ∧ (core u g).busy = false)))

/-- R10, R12, R370, R453: an 8-byte write of a plain register reads back, masked to its field, and leaves the other plain
registers as they are. -/
def Obligations.PlainRegistersReadBack : Prop :=
  ∀ (s : State) (v : Quad) (o m : Nat), (o, m) ∈ plainRegs → hostFree s = true →
    ∃ t, exec (.registerWrite (BitVec.ofNat 24 o) v true false) s = .next t ∧
      regRead t o = v.toNat &&& m ∧ (∀ k n, (k, n) ∈ plainRegs → k ≠ o → regRead t k = regRead s k) ∧
      t.port.answer = .done ∧ t.dram = s.dram ∧ t.near = s.near ∧ t.dense = s.dense ∧ t.log = s.log

/-- R12: a 64-bit register is read in halves from the latch that the read of its lower word fills, and written in halves,
the lower word held until the upper completes it; a 4-byte read of a 32-bit register gives that register. R10: an event bit
goes to 0 where 1 is written to it and stays where 0 is written. -/
def Obligations.RegisterAccess : Prop :=
  (∀ (s : State) (o : Nat), hostFree s = true → o < 0x1000000 → o % 8 = 0 → o ≠ 0xF00000 →
    (wide o = true →
      exec (.registerRead (BitVec.ofNat 24 o) false) s = .next { s with
        port.latched := tabPut s.port.latched o (BitVec.ofNat 32 (regRead s o / 2 ^ 32))
        port.answer := .data (leBytes 4 (regRead s o % 2 ^ 32)) } ∧
      (∀ w, tabFind? s.port.latched o = some w → exec (.registerRead (BitVec.ofNat 24 (o + 4)) false) s =
        .next { s with port.answer := .data (leBytes 4 w.toNat) }) ∧
      (∀ v : Quad, exec (.registerWrite (BitVec.ofNat 24 o) v false false) s = .next { s with
        port.held := tabPut s.port.held o (v.extractLsb' 0 32), port.answer := .done }) ∧
      (∀ (v : Quad) (w : Word), tabFind? s.port.held o = some w →
        exec (.registerWrite (BitVec.ofNat 24 (o + 4)) v false false) s = .next (answer .done
          (writeWide o (v.extractLsb' 0 32 ++ w) { s with port.held := tabDel s.port.held o })))) ∧
    (wide o = false → o / 0x100000 < 4 ∨ 11 < o / 0x100000 →
      exec (.registerRead (BitVec.ofNat 24 o) false) s =
        .next { s with port.answer := .data (leBytes 4 (regRead s o % 2 ^ 32)) } ∧
      exec (.registerRead (BitVec.ofNat 24 (o + 4)) false) s =
        .next { s with port.answer := .data (leBytes 4 (regRead s o / 2 ^ 32)) })) ∧
  (∀ (s : State) (v : Quad), hostFree s = true →
    (∃ t, exec (.registerWrite 0x000408 v false false) s = .next t ∧ t.protect.event = (s.protect.event && !v.getLsbD 0) ∧
      t = { s with protect.event := t.protect.event, port.answer := .done }) ∧
    (∃ t, exec (.registerWrite 0x000214 v false false) s = .next t ∧
      t.spread.degradedEvent = (s.spread.degradedEvent && !v.getLsbD 0) ∧
      t = { s with spread.degradedEvent := t.spread.degradedEvent, port.answer := .done }) ∧
    (∃ t, exec (.registerWrite 0xE00040 v false false) s = .next t ∧
      t.lut.aggEvent = (s.lut.aggEvent && !v.getLsbD 0) ∧ t.lut.recordEvent = (s.lut.recordEvent && !v.getLsbD 1) ∧
      t = { s with lut.aggEvent := t.lut.aggEvent, lut.recordEvent := t.lut.recordEvent, port.answer := .done }) ∧
    (∃ t, exec (.registerWrite 0xD00004 v false false) s = .next t ∧ t.port.event = (s.port.event && !v.getLsbD 0) ∧
      t = { s with port.event := t.port.event, port.answer := .done }) ∧
    (∀ tile, tile < 8 → ∃ t, exec (.registerWrite (BitVec.ofNat 24 (0x4E0000 + 0x100000 * tile)) v false false) s = .next t ∧
      (∀ k, k ∈ t.events.scratch ↔ k ∈ s.events.scratch ∧ (k = tile → v.getLsbD 0 = false)) ∧
      t = { s with events.scratch := t.events.scratch, port.answer := .done }))

/-- R3: the identity of the module, in every state in which the BARs answer. -/
def Obligations.IdentityRegisters : Prop :=
  ∀ s : State, hostFree s = true →
    exec (.registerRead 0 false) s = .next { s with port.answer := .data [0x40, 0x86, 0x57, 0x4B] } ∧
    exec (.registerRead 4 false) s = .next { s with port.answer := .data [0x00, 0x4C, 0x41, 0x00] }

/-- OPERATION_END (R453): a running operation leaves its outcome in its field and is no longer busy; the other fields stay;
one that awaits the object that its command names does not end yet. OPERATION_END of the mailbox (R393, R408, R453): it
waits for held writes, for the test it forced and for the object it has still to read; else the outcome is in its field. -/
def Obligations.OperationsEnd : Prop :=
  (∀ s : State,
    (s.protect.repair.busy = true → s.protect.repair.taken = none → exec (.operationEnd .repair) s = .next { s with
      protect.repair := { s.protect.repair with busy := false, result := s.protect.repair.outcome } }) ∧
    (s.tables.desc.busy = true → s.tables.desc.taken = none → exec (.operationEnd .desc) s = .next { s with
      tables.desc := { s.tables.desc with busy := false, result := s.tables.desc.outcome } }) ∧
    (s.tables.alloc.busy = true → s.tables.alloc.taken = none → ∃ t, exec (.operationEnd .alloc) s = .next t ∧
      t.tables.alloc = { s.tables.alloc with busy := false, result := s.tables.alloc.outcome } ∧
      t.tables.allocId = s.tables.newAllocId.getD s.tables.allocId ∧
      t = { s with tables.alloc := t.tables.alloc, tables.allocId := t.tables.allocId, tables.newAllocId := none }) ∧
    (s.kv.op.busy = true → s.kv.op.taken = none → exec (.operationEnd .seq) s = .next { s with
      kv.op := { s.kv.op with busy := false, result := s.kv.op.outcome } }) ∧
    (∀ (f : OpField) (code : Half) (args : List Nat), f.begin code = { f with busy := true, outcome := code, taken := none } ∧
      f.await args = { f with busy := true, taken := some args } ∧ f.refuse code = { f with result := code } ∧
      (f.taken ≠ none → f.finish = f)) ∧
    (s.tenancy.tenantOp.busy = true → s.tenancy.tenantOp.taken = none → exec (.operationEnd .tenant) s = .next { s with
      tenancy.tenantOp := { s.tenancy.tenantOp with busy := false, result := s.tenancy.tenantOp.outcome } }) ∧
    (s.tenancy.jobOp.busy = true → s.tenancy.jobOp.taken = none → exec (.operationEnd .job) s = .next { s with
      tenancy.jobOp := { s.tenancy.jobOp with busy := false, result := s.tenancy.jobOp.outcome } }) ∧
    (s.fabric.rread.busy = true → s.fabric.rread.taken = none → s.fabric.rreadTag = none →
      exec (.operationEnd .rread) s = .next { s with
      fabric.rread := { s.fabric.rread with busy := false, result := s.fabric.rread.outcome } }) ∧
    (s.load.op.busy = true → s.load.op.taken = none → s.load.object = none → exec (.operationEnd .load) s = .next { s with
      load.op := { s.load.op with busy := false, result := s.load.op.outcome }, load.phase := .idle })) ∧
  (∀ s : State, s.lut.mbox.busy = true →
    (mboxWaits s = true → exec (.operationEnd .mbox) s = .next s) ∧
    (s.lut.mbox.taken.isSome = true → exec (.operationEnd .mbox) s = .next s) ∧
    (mboxWaits s = false → s.lut.mbox.taken = none → s.start.stopped = false → exec (.operationEnd .mbox) s = .next { s with
      lut.mbox := { s.lut.mbox with busy := false, result := s.lut.mbox.outcome } }))

/-- BAR2_READ and BAR2_WRITE (R115, R121, R316, R368, R370): the bytes of stacked memory as the decoder delivers them,
poison with EP; whole sectors stored, a partial sector recorded with 0x3030 and not stored, a poisoned request stores
poison; beyond C zeros and 0x6020. BAR4_READ and BAR4_WRITE (R116, R217, R223, R226, R316): bytes of the scratchpads through
the windows of R217, poison with EP; a hole is recorded with 0x9C01 and reads zeros. -/
def Obligations.HostMemoryWindows : Prop :=
  (∀ (s : State) (o : BitVec 36), hostFree s = true →
    (∀ n, 1 ≤ n → s.port.bar2Base.toNat + o.toNat + n ≤ capacity s →
      (∀ i, i < n → sealedAt false (s.port.bar2Base.toNat + o.toNat + i) s = none) → accessWaits (.bar2Read o n) s = false →
      ReadsWell s ((s.port.bar2Base.toNat + o.toNat) / 32 * 32)
        ((s.port.bar2Base.toNat + o.toNat + n + 31) / 32 - (s.port.bar2Base.toNat + o.toNat) / 32) →
      ∃ t, exec (.bar2Read o n) s = .next t ∧
        t.port.answer = (if (List.range n).any (fun i =>
            ((peekSector s ((s.port.bar2Base.toNat + o.toNat + i) / 32 * 32)).getD .zero).poison) then .poisoned n
          else .data (peekBytes s (s.port.bar2Base.toNat + o.toNat) n)) ∧
        t = { s with dram.channels := t.dram.channels, port.answer := t.port.answer }) ∧
    (∀ n, 1 ≤ n → capacity s ≤ s.port.bar2Base.toNat + o.toNat → accessWaits (.bar2Read o n) s = false →
      exec (.bar2Read o n) s =
      .next (answer (.data (List.replicate n 0)) (Machine.reportFree 0x6020 subjPort subjPort s))) ∧
    (∀ d : List Byte, Inv s → 1 ≤ d.length → d.length % 32 = 0 → (s.port.bar2Base.toNat + o.toNat) % 32 = 0 →
      s.spread.units = liveUnitCount s.spread.applied → s.port.bar2Base.toNat + o.toNat + d.length ≤ capacity s →
      (∀ i, i < d.length → sealedAt false (s.port.bar2Base.toNat + o.toNat + i) s = none) →
      accessWaits (.bar2Write o (d.map some) false) s = false →
        CleanSectors s (s.port.bar2Base.toNat + o.toNat) (d.length / 32) →
      ∃ t, exec (.bar2Write o (d.map some) false) s = .next t ∧
        peekBytes t (s.port.bar2Base.toNat + o.toNat) d.length = d ∧ t.port.answer = .done ∧
        (∀ a, a / 32 < (s.port.bar2Base.toNat + o.toNat) / 32 ∨
          (s.port.bar2Base.toNat + o.toNat + d.length) / 32 ≤ a / 32 → peekSector t a = peekSector s a) ∧ t.log = s.log) ∧
    (∀ b : Byte, s.port.bar2Base.toNat + o.toNat < capacity s → (s.port.bar2Base.toNat + o.toNat) % 32 ≠ 31 →
      sealedAt false ((s.port.bar2Base.toNat + o.toNat) / 32 * 32) s = none →
        accessWaits (.bar2Write o [some b] false) s = false →
      exec (.bar2Write o [some b] false) s =
        .next (answer .done (Machine.reportFree 0x3030 subjPort subjPort s)))) ∧
  (∀ (s : State) (a : BitVec 32), hostFree s = true →
    (∀ n m b, 1 ≤ n → (∀ i, i < n → resolve (a.toNat + i) = some (m, b + i) ∧ sealedAt true (b + i) s = none) →
      s.scratch.bad = [] → ∃ t, exec (.bar4Read a n [] []) s = .next t ∧
        t.port.answer = (if (List.range n).any (fun i => marked s (b + i)) then .poisoned n
          else .data (memReadN s.scratch.bytes b n)) ∧ t.scratch.bytes = s.scratch.bytes ∧
        t = { s with scratch := t.scratch, port.answer := t.port.answer }) ∧
    (resolve a.toNat = none → disturbSram [] [] a.toNat 1 s = s → exec (.bar4Read a 1 [] []) s =
      .next (answer (.data [0]) (Machine.reportFree 0x9C01 (subjTile (tileOf a.toNat)) subjPort s))) ∧
    (∀ (d : List Byte) m b, Inv s → 1 ≤ d.length →
      (∀ i, i < d.length → resolve (a.toNat + i) = some (m, b + i) ∧ sealedAt true (b + i) s = none) →
      s.scratch.bad = [] → ∃ t, exec (.bar4Write a (d.map some) false) s = .next t ∧
        (∀ i, i < d.length → scratchByte t (b + i) = aliasByte m (scratchByte s (b + i)) (d.getD i 0)) ∧
        (∀ x, x < b ∨ b + d.length ≤ x → scratchByte t x = scratchByte s x) ∧ t.port.answer = .done ∧ t.dram = s.dram))

/-- Traffic that the port refuses (R367, R370), with its AER message, its counter and its code. -/
def Obligations.RefusedTraffic : Prop :=
  ∀ s : State,
    (∀ completion : Bool, exec (.malformedTlp completion) s = .next (Machine.reportFree 0x6003 subjPort subjPort { s with
      port.malformed := s.port.malformed + 1
      port.sent := s.port.sent ++ [.aer (if completion then .unexpectedCompletion else .malformed)] })) ∧
    exec .unsupportedRequest s = .next { s with port.sent := s.port.sent ++ [.aer .unsupported], port.answer := .unsupported } ∧
    (hostFree s = true →
      exec (.bar0AccessError true) s = .next (Machine.reportFree 0x6001 subjPort subjPort
        { s with port.sent := s.port.sent ++ [.aer .unsupported], port.answer := .unsupported }) ∧
      exec (.bar0AccessError false) s = .next (Machine.reportFree 0x6001 subjPort subjPort
        { s with port.answer := .unsupported }) ∧
      ∀ (o : BitVec 24) (eight : Bool), o.toNat % (if eight then 8 else 4) ≠ 0 →
        exec (.registerRead o eight) s = exec (.bar0AccessError false) s ∧
        ∀ v ep, exec (.registerWrite o v eight ep) s = exec (.bar0AccessError true) s)

/-- CONFIG_REQUEST, MSIX_UNMASK, LINK_TRAINED and SWAP_REGISTER_WRITE (R14, R363-R366, R373, R377, R380); a base address
register written with ones reads back its size. The DMA engine (R29, R243, R374-R376): an armed command that fails its
checks completes at once with its code; one that passes is copied with its descriptor and queued; four run at a time; a
completion frees the slot with its code, or waits for a pair that is held. COMPLETION_ARRIVE and HOST_READ_TIMEOUT (R298,
R370, R372): data gathers until the read is whole; a failed or timed-out read ends as failed; a completion that answers
nothing is malformed. -/
def Obligations.PortCommands : Prop :=
  (∀ s : State,
    (s.port.ready = false → s.start.stopped = false →
      ∀ o, exec (.configRequest o) s = .next { s with port.answer := .retryStatus }) ∧
    (s.port.ready = true ∨ s.start.stopped = true →
      exec (.configRequest .readId) s = .next { s with port.answer := .data (leBytes 4 0x86404B57) } ∧
      exec (.configRequest .readSubsystem) s = .next { s with port.answer := .data (leBytes 4 0x86404B57) } ∧
      exec (.configRequest .readClass) s = .next { s with port.answer := .data (leBytes 4 0x12000041) } ∧
      exec (.configRequest .readSerial) s = .next { s with port.answer := .data (leBytes 8 s.nvm.serial.toNat) } ∧
      (s.port.d3hot = false → exec (.configRequest (.busMaster true)) s = .next { s with
        port.busMasterEnable := true, port.sent := s.port.sent ++ s.port.waiting, port.waiting := []
        port.answer := .done }) ∧
      exec (.configRequest (.busMaster false)) s = .next { s with port.busMasterEnable := false, port.answer := .done } ∧
      exec (.configRequest (.power true)) s = .next { s with port.d3hot := true, port.answer := .done } ∧
      (∀ w n p, (w, n, p) ∈ [(4, 2 ^ 24, false), (6, 2 ^ 36, true), (8, 2 ^ 32, false)] →
        ∃ t, exec (.configRequest (.writeOther w 0xFFFFFFFF)) s = .next t ∧ t.port.answer = .done ∧
          exec (.configRequest (.readOther w)) t = .next { t with
            port.answer := .data (leBytes 4 ((2 ^ 32 - 1) / n * n + (if p then 8 else 0) + 4)) })) ∧
    (∀ v : Fin 64, hostFree s = true → s.port.pending = [] → ∃ t, exec (.msixUnmask v) s = .next t ∧
      msixEntry t v = { msixEntry s v with masked := false } ∧ (∀ k, k ≠ v.val → msixEntry t k = msixEntry s k) ∧
      t = { s with port.msix := t.port.msix }) ∧
    (∀ v : Fin 64, hostFree s = true → s.port.pending = [v.val] → s.port.msixEnable = true → s.port.functionMask = false →
      s.port.busMasterEnable = true → ∃ t, exec (.msixUnmask v) s = .next t ∧ t.port.pending = [] ∧
        t.port.sent = s.port.sent ++ [.msix v (msixEntry s v).addr (msixEntry s v).data]) ∧
    (∀ width speed flit, s.supply.service = false → 2 ≤ s.start.state → width ∈ [1, 2, 4, 8, 16] → 1 ≤ speed → speed ≤ 6 →
      exec (.linkTrained width speed flit) s = .next { s with
        port.linkUp := true, port.linkWidth := width, port.linkSpeed := speed, port.flitMode := flit }) ∧
    (∀ v : Quad, hostFree s = true →
      (swapIdle s = true → exec (.swapRegisterWrite false v) s =
        .next { s with port.swapBase := v &&& 0xFFFFFFFFFFFF0000 }) ∧
      (swapIdle s = true → (v &&& 0x000007FFFFFF0000).toNat ≤ 2 ^ 42 → exec (.swapRegisterWrite true v) s =
        .next { s with port.swapSize := v &&& 0x000007FFFFFF0000 }) ∧
      (swapIdle s = false → ∀ b, exec (.swapRegisterWrite b v) s = .next (Machine.reportFree 0x6040 subjPort subjPort s)))) ∧
  (∀ (s : State) (j : Fin 64),
    (∀ w : Quad, hostFree s = true → w.getLsbD 0 = true → (dmaSlot s j).phase = .free →
      w.extractLsb' 48 16 = (dmaSlot s j).gen + 1 → ∀ d : DmaSlot,
      d = { dmaSlot s j with words := (dmaSlot s j).words.set 7 w, gen := w.extractLsb' 48 16
                             copied := ((dmaSlot s j).words.set 7 w).take 7 } →
      (dmaCheck s d w = 0 → ∃ t, exec (.dmaArm j w) s = .next t ∧
        dmaSlot t j = { d with
          phase := .queued, descriptor := ((descEntry s d.desc).map (·.words)).getD 0
          image := (descEntry s d.desc).bind (·.image) } ∧
        (∀ k, k ≠ j.val → dmaSlot t k = dmaSlot s k) ∧ t.port.dmaQueue = s.port.dmaQueue ++ [j.val] ∧
        t = { s with port.dma := t.port.dma, port.dmaQueue := t.port.dmaQueue }) ∧
      (dmaCheck s d w ≠ 0 → ∃ t, exec (.dmaArm j w) s = .next t ∧
        dmaSlot t j = { d with phase := .free, code := dmaCheck s d w } ∧ t.port.dmaQueue = s.port.dmaQueue ∧
        (∀ k, k ≠ j.val → dmaSlot t k = dmaSlot s k) ∧ t.dram = s.dram)) ∧
    (∀ w : Quad, hostFree s = true → (w.getLsbD 0 = false ∨ (dmaSlot s j).phase ≠ .free) → ∃ t, exec (.dmaArm j w) s = .next t ∧
      t.port.dmaArmsIgnored = s.port.dmaArmsIgnored + 1 ∧
      dmaSlot t j = { dmaSlot s j with words := (dmaSlot s j).words.set 7 w }) ∧
    (∀ k rest, s.port.dmaQueue = k :: rest → running s < 4 → ∃ t, exec .dmaStart s = .next t ∧
      t.port.dmaQueue = rest ∧ dmaSlot t k = { dmaSlot s k with phase := .running } ∧
      (∀ i, i ≠ k → dmaSlot t i = dmaSlot s i) ∧
      ((dmaSlot s k).toHost = true → t.port.reads = s.port.reads) ∧
      ((dmaSlot s k).toHost = false →
        sumNat ((t.port.reads.drop s.port.reads.length).map (·.length)) = (dmaSlot s k).word 3) ∧ t.dram = s.dram) ∧
    ((dmaSlot s j).phase = .running → (dmaSlot s j).toHost = true ∨ (∀ r, r ∈ readsOf s j → r.ended.isSome = true) →
      (dmaWaits s j = true → exec (.dmaComplete j) s = .next (deferCommand (.dmaComplete j) s)) ∧
      (dmaWaits s j = false → ∀ r, r = (if (dmaSlot s j).toHost = true then dmaOut j s else dmaIn j s) →
        exec (.dmaComplete j) s = .next (dmaFree j r.1 (dmaRecord j r.1 r.2))))) ∧
  (∀ (s : State) (tag : Nat),
    (openRead s tag = none → (∀ e bs, exec (.completionArrive tag e bs) s = exec (.malformedTlp true) s) ∧
      exec (.hostReadTimeout tag) s = .next s) ∧
    (∀ r, openRead s tag = some r →
      (∀ bs, (r.data.length + bs.length < r.length) → ∃ t, exec (.completionArrive tag .ok bs) s = .next t ∧
        t.port.reads = s.port.reads.map (fun x => if x.tag = tag then { r with data := r.data ++ bs.map fun b => (b, false) } else x) ∧
        t = { s with port.reads := t.port.reads }) ∧
      (∀ bs, r.length ≤ r.data.length + bs.length → exec (.completionArrive tag .ok bs) s = .next
        (endRead { r with data := (r.data ++ bs.map fun b => (b, false)).take r.length }
          (if ((r.data ++ bs.map fun b => (b, false)).take r.length).any (·.2) then .poisoned else .ok) s)) ∧
      (∀ bs, exec (.completionArrive tag .failed bs) s = .next (endRead r .failed (noteRead .failed s))) ∧
      exec (.hostReadTimeout tag) s = .next (endRead r .failed (noteRead .failed s))))

/-- SEQ_CREATE, SEQ_FORK, SEQ_RELEASE and SEQ_QUERY (R275-R277, R282, R116): refused with 0x4C0B while one runs; an entry
that proves uncorrectable fails it with 0x3005 and stays poisoned; else the lowest FREE number is taken (a poisoned entry
does not read as FREE, entry 98), the page table and the references are shared, the blocks are released, or the entry's
words are read, with the codes 0x4C09 and 0x4C0A. -/
def Obligations.SequenceOperations : Prop :=
  ∀ (s : State) (h : HubSram), hostFree s = true →
    (∀ c, (c = .seqCreate h ∨ c = .seqFork h ∨ c = .seqRelease h ∨ c = .seqQuery h) → s.kv.op.busy = true →
      exec c s = .next { s with kv.op := s.kv.op.refuse 0x4C0B }) ∧
    (∀ c k, (c = .seqCreate h ∧ k = HubEntry.seq ((freeSeqNumber s).getD 0)) ∨
        ((c = .seqFork h ∨ c = .seqRelease h ∨ c = .seqQuery h) ∧ k = namedSeq s) →
      s.kv.op.busy = false → hubBad k h s = true → ∃ t, exec c s = .next t ∧
        t.kv = { s.kv with op := s.kv.op.begin 0x3005 } ∧ k ∈ t.protect.hubMarks ∧
        t.protect.hubUncorrectable = s.protect.hubUncorrectable + if h.bad then 1 else 0) ∧
    (s.kv.op.busy = false → h.bad = false →
      (HubEntry.seq 0 ∉ s.protect.hubMarks → (∀ k, k < sequenceCount s → ¬ ReadsFree s k) →
        exec (.seqCreate h) s = .next { metHub h s with kv.op := s.kv.op.begin 0x4C0A }) ∧
      (∀ q, q < sequenceCount s → ReadsFree s q → (∀ k, k < q → ¬ ReadsFree s k) → ∃ t, exec (.seqCreate h) s = .next t ∧
        seqEntry t q = { state := .idle, tenant := s.kv.seqTenant.toNat } ∧ (∀ k, k ≠ q → seqEntry t k = seqEntry s k) ∧
        t = { metHub h s with kv.seqs := t.kv.seqs, kv.seqId := BitVec.ofNat 16 q, kv.op := s.kv.op.begin 0 })) ∧
    (s.kv.op.busy = false → hubBad (namedSeq s) h s = false →
      (∀ q, q < sequenceCount s → ReadsFree s q → (∀ k, k < q → ¬ ReadsFree s k) →
        (seqEntry s s.kv.seqId.toNat).state = .idle → ∃ t, exec (.seqFork h) s = .next t ∧
          seqEntry t q = { seqEntry s s.kv.seqId.toNat with lastStep := 0 } ∧ (∀ k, k ≠ q → seqEntry t k = seqEntry s k) ∧
          (∀ n b, tabFind? s.kv.blocks n = some b → tabFind? t.kv.blocks n =
            some { b with refs := b.refs + (seqEntry s s.kv.seqId.toNat).pages.count (.resident n) }) ∧
          t = { metHub h s with
            kv.seqs := t.kv.seqs, kv.blocks := t.kv.blocks, kv.seqId := BitVec.ofNat 16 q, kv.op := s.kv.op.begin 0 }) ∧
      ((seqEntry s s.kv.seqId.toNat).state = .idle → (∀ k, k < sequenceCount s → ¬ ReadsFree s k) →
        exec (.seqFork h) s = .next { metHub h s with kv.op := s.kv.op.begin 0x4C0A }) ∧
      ((seqEntry s s.kv.seqId.toNat).state ≠ .idle →
        exec (.seqFork h) s = .next { metHub h s with kv.op := s.kv.op.begin 0x4C09 }) ∧
      ((seqEntry s s.kv.seqId.toNat).state = .free →
        exec (.seqRelease h) s = .next { metHub h s with kv.op := s.kv.op.begin 0x4C09 }) ∧
      (((seqEntry s s.kv.seqId.toNat).state = .idle ∨ (seqEntry s s.kv.seqId.toNat).state = .swapped) →
        ∃ t, exec (.seqRelease h) s = .next t ∧
          seqEntry t s.kv.seqId.toNat = {} ∧ (∀ k, k ≠ s.kv.seqId.toNat → seqEntry t k = seqEntry s k) ∧
          t.kv.op = s.kv.op.begin 0 ∧ t.kv.prefixes = s.kv.prefixes ∧ t.dram = s.dram ∧
          (∀ n, n ∉ s.kv.filling → .resident n ∉ (seqEntry s s.kv.seqId.toNat).pages →
            tabFind? t.kv.blocks n = tabFind? s.kv.blocks n ∧ n ∉ t.kv.filling)) ∧
      (((seqEntry s s.kv.seqId.toNat).state = .stepping ∨ (seqEntry s s.kv.seqId.toNat).state = .swappingOut ∨
        (seqEntry s s.kv.seqId.toNat).state = .swappingIn) → ∃ t, exec (.seqRelease h) s = .next t ∧
          seqEntry t s.kv.seqId.toNat = { seqEntry s s.kv.seqId.toNat with releasePending := true } ∧
          (∀ k, k ≠ s.kv.seqId.toNat → seqEntry t k = seqEntry s k) ∧
          t = { metHub h s with kv.seqs := t.kv.seqs, kv.op := s.kv.op.begin 0 }) ∧
      (s.kv.seqId.toNat < sequenceCount s → exec (.seqQuery h) s = .next { metHub h s with
        kv.op := s.kv.op.begin 0, kv.entry := seqWords (seqEntry s s.kv.seqId.toNat) }) ∧
      (sequenceCount s ≤ s.kv.seqId.toNat →
        exec (.seqQuery h) s = .next { metHub h s with kv.op := s.kv.op.begin 0x4C09 }))

/-- SWAP_OUT, SWAP_OUT_DONE, SWAP_IN, SWAP_IN_DONE and BLOCK_FILL_DONE (R276, R282-R285): the victim's private blocks go to
swap slots and its entries name them, a poisoned block releases the sequence, and a block whose pair is held is waited for
(R29, entry 28); a slot that passes its checks is restored to an allocated block, one that does not
releases the sequence; the states end as R276 has them; a filled block is free. R282: a block that loses a reference keeps
the rest; at 0 it is retained where the prefix table names it, and goes to its fill where not; no other block changes. -/
def Obligations.Swapping : Prop :=
  (∀ s : State,
    (swapWanted s = true → ∀ q, victim s = some q → ∀ d, cacheDecl s = some d →
      (slotCount s < s.kv.slots.length + (privateEntries s q).length ∨ s.lut.keysDrawn = false →
        exec .swapOut s = .next (noSwapSlot s)) ∧
      (s.kv.slots.length + (privateEntries s q).length ≤ slotCount s → s.lut.keysDrawn = true →
        ((∃ e, e ∈ privateEntries s q ∧ blockWaits s d e.2 = true) → exec .swapOut s = .next (deferCommand .swapOut s)) ∧
        ((∀ e, e ∈ privateEntries s q → blockWaits s d e.2 = false) →
          ∀ u p, swapOutBlocks d q (privateEntries s q) (onSeq q (fun e => { e with state := .swappingOut }) s) = (u, p) →
          (p = false → exec .swapOut s = .next u ∧
            (seqEntry u q).state = .swappingOut ∧ (∀ k, k ≠ q → seqEntry u k = seqEntry s k) ∧
            u.kv.swapOuts = s.kv.swapOuts + BitVec.ofNat 64 (privateEntries s q).length ∧
            u.kv.nonce = s.kv.nonce + BitVec.ofNat 64 (privateEntries s q).length ∧
            (∀ e, e ∈ privateEntries s q → ∃ k, (seqEntry u q).pages[e.1]? = some (.swapped k) ∧
              (tabFind? u.kv.slots k).map (fun x => (x.seq, x.entry, x.tenant)) = some (q, e.1, (seqEntry s q).tenant)) ∧
            ∀ k, storedData u k = storedData s k) ∧
          (p = true → ∃ t, exec .swapOut s = .next t ∧
            seqEntry t q = {} ∧ (∀ k, k ≠ q → seqEntry t k = seqEntry s k) ∧ t.scratch = s.scratch)))) ∧
    (swapWanted s = false ∨ victim s = none → exec .swapOut s = .next s) ∧
    (∀ q : Fin 65536, (seqEntry s q).state = .swappingOut → (seqEntry s q).releasePending = false →
      ∃ t, exec (.swapOutDone q) s = .next t ∧ seqEntry t q = { seqEntry s q with state := .swapped } ∧
        (∀ k, k ≠ q.val → seqEntry t k = seqEntry s k) ∧ t = { s with kv.seqs := t.kv.seqs }) ∧
    (∀ q : Fin 65536, (seqEntry s q).state = .swappingOut → (seqEntry s q).releasePending = true →
      exec (.swapOutDone q) s = .next (freeSeq q s)) ∧
    (∀ (q : Fin 65536) (x : SlotImage), (seqEntry s q).state = .swappingIn → s.port.busMasterEnable = true →
      s.port.d3hot = false → ∀ p k, firstSwapped (seqEntry s q) = some (p, k) → ∀ d, cacheDecl s = some d →
      ∀ n s1, allocBlock (seqEntry s q).tenant s = some (n, s1) →
      (blockWaits s d n = true → exec (.swapIn q x) s = .next (deferCommand (.swapIn q x) s)) ∧
      ∀ s2, blockWaits s d n = false → s2 = noteRead x.ended
        (sendReads (slotBytes d / 4096) (s1.port.swapBase + BitVec.ofNat 64 (k * slotBytes d)) (slotBytes d) s1) →
      (slotCheck s2 d q p x = none → ∃ t, exec (.swapIn q x) s = .next t ∧
        seqEntry t q = { seqEntry s q with pages := (seqEntry s q).pages.set p (.resident n) } ∧
        tabFind? t.kv.slots k = none ∧ t.kv.swapIns = s.kv.swapIns + 1 ∧ t.scratch = s.scratch) ∧
      (∀ c, slotCheck s2 d q p x = some c → exec (.swapIn q x) s = .next (swapInFails q n c s2))) ∧
    (∀ q : Fin 65536, (seqEntry s q).state = .swappingIn → firstSwapped (seqEntry s q) = none →
      (seqEntry s q).releasePending = false → ∃ t, exec (.swapInDone q) s = .next t ∧
        seqEntry t q = { seqEntry s q with state := .idle } ∧ (∀ k, k ≠ q.val → seqEntry t k = seqEntry s k) ∧
        t = { s with kv.seqs := t.kv.seqs }) ∧
    (∀ q : Fin 65536, (seqEntry s q).state = .swappingIn → firstSwapped (seqEntry s q) = none →
      (seqEntry s q).releasePending = true → exec (.swapInDone q) s = .next (failMember q 0x4C09 (freeSeq q s))) ∧
    (∀ n, n ∈ s.kv.filling → ∀ d, cacheDecl s = some d → exec (.blockFillDone n) s = .next
      { zeroRange (blockAddress s d n) (blockBytes d) s with kv.filling := setErase s.kv.filling n })) ∧
  (∀ (s : State) (n : Nat) (b : Block), tabFind? s.kv.blocks n = some b →
    (1 < b.refs → tabFind? (dropRef n s).kv.blocks n = some { b with refs := b.refs - 1 } ∧
      (dropRef n s).kv.filling = s.kv.filling) ∧
    (b.refs ≤ 1 → b.tree = true → tabFind? (dropRef n s).kv.blocks n = some { b with refs := 0 } ∧
      (dropRef n s).kv.filling = s.kv.filling) ∧
    (b.refs ≤ 1 → b.tree = false → tabFind? (dropRef n s).kv.blocks n = none ∧
      (dropRef n s).kv.filling = s.kv.filling ++ [n]) ∧
    (∀ k, k ≠ n → tabFind? (dropRef n s).kv.blocks k = tabFind? s.kv.blocks k))

/-- ARM and CANCEL (R296-R298, R306, R315): both are the write of a slot's word 31, a release. A word that arms a FREE slot
with the next generation is checked: refused, it leaves its code and the event, accepted, the slot is ADMITTING with its
words copied and the reads of host memory asked for, 4,096 bytes at most each (R364); a word that cancels marks the request;
another word is counted and ignored. -/
def Obligations.Arming : Prop :=
  ∀ (s : State) (i : Fin 4096) (w : Quad) (h : HubSram) (c : Instr), (c = .arm i w h ∨ c = .cancel i w h) → hostFree s = true →
    (Arms i w s → hubBad (.slot i) h s = false → armCheck (metHub h (armed i w s)) i (slotCopy s i) w ≠ 0 →
      ∃ t, exec c s = .next t ∧
      request t i = { request s i with
        gen := w.extractLsb' 48 16, code := armCheck (metHub h (armed i w s)) i (slotCopy s i) w } ∧
      OtherRequests i s t ∧ t.serve.refused = true ∧ t.serve.slotWords = (armed i w s).serve.slotWords ∧ t.kv = s.kv ∧
      t.order = (armed i w s).order) ∧
    (Arms i w s → hubBad (.slot i) h s = true → ∃ t, exec c s = .next t ∧
      request t i = { request s i with gen := w.extractLsb' 48 16, code := 0x3005 } ∧ OtherRequests i s t ∧
      t.serve.refused = true) ∧
    (Arms i w s → hubBad (.slot i) h s = false → armCheck (metHub h (armed i w s)) i (slotCopy s i) w = 0 →
      ∃ t, exec c s = .next t ∧
      (request t i).state = .admitting ∧ (request t i).gen = w.extractLsb' 48 16 ∧ (request t i).words = slotCopy s i ∧
      (request t i).armUs = s.us ∧ (request t i).bestEffort = (slotField (slotCopy s i) 0 39 39 == 1) ∧
      (request t i).deadline = (if slotField (slotCopy s i) 1 63 32 = 0 then none
        else some (s.us + slotField (slotCopy s i) 1 63 32)) ∧
      OtherRequests i s t ∧ t.serve.armCount = s.serve.armCount + 1 ∧ t.order = (armed i w s).order ∧
      (∃ rs : List HostRead, t.port.reads = s.port.reads ++ rs ∧ (∀ r, r ∈ rs → r.length ≤ 4096) ∧
        sumNat ((rs.filter (·.purpose == .prompt i)).map (·.length)) = 4 * slotField (slotCopy s i) 3 52 32 ∧
        sumNat ((rs.filter (·.purpose == .bias i)).map (·.length)) = 8 * slotField (slotCopy s i) 3 17 9) ∧
      t.kv = { s.kv with seqs := t.kv.seqs } ∧
      (∀ k, k ≠ slotField (slotCopy s i) 0 63 48 → seqEntry t k = seqEntry s k)) ∧
    (Cancels i w s → ∃ t, exec c s = .next t ∧ request t i = { request s i with cancelled := true, bestEffort := true } ∧
      OtherRequests i s t ∧ t = { armed i w s with serve.requests := t.serve.requests }) ∧
    (¬ Arms i w s → ¬ Cancels i w s → exec c s =
      .next { armed i w s with serve.armsIgnored := s.serve.armsIgnored + 1 })

/-- ADMISSION_DONE, DEADLINE and CLOSE_RECORD_WRITTEN (R281, R298, R300, R304, R306, R307): a request whose reads failed or
that names a token beyond the vocabulary closes, as one does whose page table proves uncorrectable (R116); an admitted one
is READY; one whose deadline passes while it waits closes; a closing one is FREE once its record is written. -/
def Obligations.RequestsOpenAndClose : Prop :=
  ∀ (s : State) (i : Fin 4096) (h : HubSram),
    (∀ p b, (request s i).state = .admitting → (request s i).promptRead = some p → (request s i).biasRead = some b →
      (p = false ∨ b = false → ∃ t, exec (.admissionDone i h) s = .next t ∧
        request t i = { request s i with state := .closing, why := .failed, code := 0x4011 } ∧ OtherRequests i s t ∧
        t = { s with serve.requests := t.serve.requests }) ∧
      (p = true → b = true → (∃ x, x ∈ (request s i).prompt ∧ vocabularySize s ≤ x.toNat) →
        ∃ t, exec (.admissionDone i h) s = .next t ∧
        request t i = { request s i with state := .closing, why := .failed, code := 0x4010 } ∧ OtherRequests i s t ∧
        t = { s with serve.requests := t.serve.requests }) ∧
      (p = true → b = true → (∀ x, x ∈ (request s i).prompt → x.toNat < vocabularySize s) →
        (∀ x, x ∈ (request s i).bias → x.1.toNat < vocabularySize s) →
        (hubBad (.seq (requestSeq (request s i))) h s = true → ∃ t, exec (.admissionDone i h) s = .next t ∧
          request t i = { request s i with state := .closing, why := .failed, code := 0x3005 } ∧ OtherRequests i s t) ∧
        (hubBad (.seq (requestSeq (request s i))) h s = false → ∃ t, exec (.admissionDone i h) s = .next t ∧
          (request t i).state = .ready ∧
          (request t i).history = keepHistory (request s i).prompt ∧
          ((request s i).prompt ≠ [] → (request t i).pendingToken = (request s i).prompt.getLast?) ∧
          (request t i).matched = (seqEntry t (requestSeq (request s i))).length -
            (seqEntry s (requestSeq (request s i))).length ∧
          OtherRequests i s t ∧ t.port = s.port ∧ t.dram = s.dram))) ∧
    (∀ d, (request s i).deadline = some d → (request s i).state = .admitting ∨ (request s i).state = .ready →
      ∀ at_, 5 ≤ s.start.state → d ≤ at_ → ∃ t, exec (.deadline i at_) s = .next t ∧
        request t i = { request s i with state := .closing, why := .deadline, code := 0 } ∧ OtherRequests i s t ∧
        t.kv = s.kv ∧ t.us = max s.us at_) ∧
    ((request s i).state = .closing → (∀ r, r ∈ s.port.reads → readOfSlot i r = false) →
      ∃ t, exec (.closeRecordWritten i) s = .next t ∧
      (request t i).state = .free ∧ (request t i).gen = (request s i).gen ∧ (request t i).code = (request s i).code ∧
      (request t i).update = (request s i).update + 1 ∧ OtherRequests i s t ∧
      t.serve.requestsClosed = s.serve.requestsClosed + 1 ∧ t.serve.closed = true ∧ t.kv = s.kv)

/-- STEP_SELECT and PREFILL_CHUNK_SELECT (R276, R320-R322): the class's requests that may be selected fill a step in its
order, and they are STEPPING; a step whose page tables prove uncorrectable has failed (R116); one in preparation goes on;
nothing is selected under a test, nor a chunk while a job holds the cores. R302, R321: a step holds at most eight positions,
each request in it at least one. -/
def Obligations.StepsSelected : Prop :=
  (∀ s : State,
    (∀ (be : Bool) (h : HubSram), getStep s (classStep be) = none → underTest s true [] = false →
      (∀ m ms, fillStep 8 (sortList (selectBefore s be) (s.serve.requests.filter fun e => selectable s be e.2 &&
          e.2.promptLeft == 0)) = m :: ms → ∃ t, exec (.stepSelect be h) s = .next t ∧
        (∃ x, getStep t (classStep be) = some x ∧ x.members = m :: ms ∧ x.selectedUs = s.us ∧
          (h.bad = true ∨ (∃ k, k ∈ m :: ms ∧ HubEntry.seq (memberSeq s k) ∈ s.protect.hubMarks) → x.failure.isSome = true)) ∧
        (∀ k, k ∈ m :: ms → (request t k.1).state = .stepping) ∧
        (∀ k, k ∉ (m :: ms).map (·.1) → request t k = request s k) ∧ t.tenancy = s.tenancy) ∧
      (fillStep 8 (sortList (selectBefore s be) (s.serve.requests.filter fun e => selectable s be e.2 &&
          e.2.promptLeft == 0)) = [] → exec (.stepSelect be h) s = .next s)) ∧
    (∀ (be : Bool) (h : HubSram) (x : Step), getStep s (classStep be) = some x →
      exec (.stepSelect be h) s = .next (prepare (classStep be) (readTables (classStep be) h s))) ∧
    (∀ n i r, s.serve.chunk = none → jobHolds s = false → underTest s false (corePlan (servingDecls s)) = false →
      chunkRequest s = some (i, r) → ∃ t, exec (.prefillChunkSelect n) s = .next t ∧
        (∃ x, t.serve.chunk = some x ∧ x.members = [(i, max 1 (min n r.promptLeft))] ∧ x.selectedUs = s.us) ∧
        (request t i).state = .stepping ∧ OtherRequests i s t ∧ t.tenancy = s.tenancy) ∧
    (∀ n, s.serve.chunk = none → jobHolds s = true → exec (.prefillChunkSelect n) s = .next s)) ∧
  (∀ l : List (Nat × Request), sumNat ((fillStep 8 l).map (·.2)) ≤ 8 ∧
    (∀ m, m ∈ fillStep 8 l → 1 ≤ m.2 ∧ ∃ r, (m.1, r) ∈ l ∧ m.2 ≤ wanted r) ∧ (l ≠ [] → fillStep 8 l ≠ []))

/-- SAMPLE (R302-R304, R309, R310): where the logits of a position are whole and its token is due, a draft takes the largest
logit's lowest token, the target the token that R303 gives; no candidate fails the step with 0x4020, a poisoned logit the
request with 0x3001; the logits are consumed. -/
def Obligations.Sampling : Prop :=
  ∀ (s : State) (be : Bool) (p : Fin 8) (draft : Bool) (x : Step) (m : Tab Word) (e : Nat × Nat) (i : Nat),
    getStep s (classStep be) = some x → tabFind? s.serve.logits (logitKey be p) = some m → memberAt x.members p = some (e, i) →
    x.prepared = true → x.failure = none → (request s e.1).failCode = none →
    vocabularySize s ≤ (m.filter fun e => decide (e.1 < vocabularySize s)).length →
    sampleDue (request s e.1) e.2 i draft = true →
    (logitKey be p ∉ s.serve.poisonedLogits → draft = true → ∃ t, exec (.sample be p draft) s = .next t ∧
      request t e.1 = { request s e.1 with drafts := (request s e.1).drafts ++ [BitVec.ofNat 32
        (((largest ((m.filter fun e => decide (e.1 < vocabularySize s)).map fun e =>
          (e.1, if (ofFp32 e.2).isNan then negInf else ofFp32 e.2))).map (·.1)).getD 0)] } ∧
      OtherRequests e.1 s t ∧ t.serve.samples = s.serve.samples + 1 ∧ tabFind? t.serve.logits (logitKey be p) = none ∧
      t = { s with serve := t.serve }) ∧
    (logitKey be p ∉ s.serve.poisonedLogits → draft = false →
      (∀ k, sampleToken (request s e.1).words ((m.filter fun e => decide (e.1 < vocabularySize s)).map fun z =>
          (z.1, adjust (request s e.1) (penaltySet (request s e.1) i) z.1 z.2)) (Config.freeDraw s.free) = some k →
        ∃ t, exec (.sample be p draft) s = .next t ∧
          request t e.1 = { request s e.1 with draws := (request s e.1).draws ++ [BitVec.ofNat 32 k] } ∧
          OtherRequests e.1 s t ∧ t.serve.samples = s.serve.samples + 1 ∧ tabFind? t.serve.logits (logitKey be p) = none ∧
          t = { s with serve := t.serve, free := s.free + 1 }) ∧
      (sampleToken (request s e.1).words ((m.filter fun e => decide (e.1 < vocabularySize s)).map fun z =>
          (z.1, adjust (request s e.1) (penaltySet (request s e.1) i) z.1 z.2)) (Config.freeDraw s.free) = none →
        ∃ t, exec (.sample be p draft) s = .next t ∧ getStep t (classStep be) = some { x with failure := some 0x4020 } ∧
          t.serve.requests = s.serve.requests ∧ t.serve.samples = s.serve.samples)) ∧
    (logitKey be p ∈ s.serve.poisonedLogits → ∃ t, exec (.sample be p draft) s = .next t ∧
      request t e.1 = { request s e.1 with failCode := some 0x3001 } ∧ OtherRequests e.1 s t ∧
      t.serve.samples = s.serve.samples)

/-- STEP_COMPLETE, PREFILL_CHUNK_COMPLETE and STEP_FAIL (R259, R276, R279, R299-R302, R308, R317, R328): each member ends,
the step is over and counts as a release; a chunk's positions are held, charged and counted; a step that fails closes all
its requests with the code taken first, what a chunk's cores returned before the code of another part (R206). R299, R302,
R317: what a member that ends well keeps, counts and pays: its draws up to the first end token and to its limit, 8 units a
token, one for its prompt's last position in its first step, one for each rejected draft. -/
def Obligations.StepsEnd : Prop :=
  (∀ s : State,
    (∀ (be : Bool) (bad : List Nat) (x : Step), getStep s (classStep be) = some x → x.prepared = true → x.failure = none →
      writesWait s = false →
      (∀ m, m ∈ x.members → (request s m.1).failCode.isSome = true ∨ runDone (request s m.1) m.2 = true) →
      ∃ t, exec (.stepComplete be bad) s = .next t ∧ getStep t (classStep be) = none ∧
        t.order.moduleReleases = s.order.moduleReleases + 1 ∧
        (∀ k, k ∉ x.members.map (·.1) → (request s k).state = .closing ∨ (request s k).state = .free →
          request t k = request s k) ∧
        (∀ k, (if be then 8 ≤ k else k < 8) → tabFind? t.serve.logits k = none)) ∧
    (∀ x : Step, s.serve.chunk = some x → ∀ i k, x.members = [(i, k)] → x.prepared = true → x.failure = none →
      writesWait s = false → coresCode s (corePlan (servingDecls s)) = none →
      (request s i).failCode = none → (request s i).deadline = none →
      (seqEntry s (requestSeq (request s i))).releasePending = false → ∃ t, exec .prefillChunkComplete s = .next t ∧
        t.serve.chunk = none ∧ (request t i).state = .ready ∧ (request t i).computed = (request s i).computed + k ∧
        (request t i).charged = (request s i).charged + k ∧ OtherRequests i s t ∧
        (seqEntry t (requestSeq (request s i))).state = .idle ∧
        (seqEntry t (requestSeq (request s i))).length = (seqEntry s (requestSeq (request s i))).length +
          (((request s i).prompt.drop ((request s i).matched + (request s i).computed)).take k).length ∧
        t.order.moduleReleases = s.order.moduleReleases + 1) ∧
    (∀ (w : StepId) (code : Half) (x : Step), getStep s w = some x →
      (∀ c, (x.failure.or (if w = .chunk then coresCode s (corePlan (servingDecls s)) else none) = some c ∨
          x.failure.or (if w = .chunk then coresCode s (corePlan (servingDecls s)) else none) = none ∧
            failureCode code = true ∧ c = code) → ∃ t, exec (.stepFail w code) s = .next t ∧
        getStep t w = none ∧ t.serve.stepsFailed = s.serve.stepsFailed + 1 ∧
        ∀ m, m ∈ x.members → (request t m.1).state = .closing ∧ (request t m.1).why = .failed ∧
          (request t m.1).code = (request s m.1).failCode.getD c) ∧
      (x.failure.or (if w = .chunk then coresCode s (corePlan (servingDecls s)) else none) = none → failureCode code = false →
        exec (.stepFail w code) s = .next s))) ∧
  (∀ (s : State) (i k : Nat) (kept : List Word), (request s i).tenant ≠ 0 →
    request (settleMember i k kept s) i = { request s i with
      steps := (request s i).steps + 1
      generated := (request s i).generated + kept.length
      proposed := (request s i).proposed + (if (request s i).drafts' = 0 then 0 else k)
      accepted := (request s i).accepted + keptDrafts (request s i) kept
      charged := (request s i).charged + (8 * kept.length + (if (request s i).steps = 0 ∧
        (request s i).prompt ≠ [] then 1 else 0) +
        ((if (request s i).drafts' = 0 then 0 else k) - keptDrafts (request s i) kept))
      firstTokenUs := if (request s i).generated = 0 then s.us - (request s i).armUs else (request s i).firstTokenUs
      history := keepHistory ((request s i).history ++ kept)
      pendingToken := kept.getLast? } ∧
    OtherRequests i s (settleMember i k kept s) ∧
    (tenantOf (settleMember i k kept s) (request s i).tenant).generated =
      (tenantOf s (request s i).tenant).generated + BitVec.ofNat 64 kept.length ∧
    (tenantOf (settleMember i k kept s) (request s i).tenant).balance =
      clampBalance ((tenantOf s (request s i).tenant).balance.toInt - ((8 * kept.length +
        (if (request s i).steps = 0 ∧ (request s i).prompt ≠ [] then 1 else 0) +
        ((if (request s i).drafts' = 0 then 0 else k) - keptDrafts (request s i) kept) : Nat) : Int)) ∧
    ∀ n, n ≠ (request s i).tenant → tenantOf (settleMember i k kept s) n = tenantOf s n)

/-- TENANT_ENABLE and TENANT_DISABLE (R313, R314, R318, R116): refused with 0x4845 while one runs, 0x4801 for tenant 0; an
entry that proves uncorrectable fails it with 0x3005; an enabled tenant is valid with its cap as its balance, a disabled one
is not valid; no other tenant changes. R313, R317, R318: a charge lowers the balance, not below the least 32-bit value, and
is counted; tenant 0 is never charged. REFILL and SLOWDOWN_WINDOW_CLOSE (R313, R318, R328): each valid tenant but tenant 0
gets its refill, up to its cap; each tenant's window gives its slowdown, 256 times measured over alone, and starts again. -/
def Obligations.Tenants : Prop :=
  (∀ (s : State) (t : Byte) (h : HubSram), hostFree s = true →
    (∀ c, (c = .tenantEnable t h ∨ c = .tenantDisable t h) →
      (s.tenancy.tenantOp.busy = true → exec c s = .next { s with
        tenancy.tenantArg := t, tenancy.tenantOp := s.tenancy.tenantOp.refuse 0x4845 }) ∧
      (s.tenancy.tenantOp.busy = false → hubBad (.tenant t.toNat) h s = true → ∃ u, exec c s = .next u ∧
        u.tenancy = { s.tenancy with tenantArg := t, tenantOp := s.tenancy.tenantOp.begin 0x3005 } ∧
        HubEntry.tenant t.toNat ∈ u.protect.hubMarks) ∧
      (s.tenancy.tenantOp.busy = false → hubBad (.tenant t.toNat) h s = false → t = 0 → exec c s = .next { metHub h s with
        tenancy.tenantArg := t, tenancy.tenantOp := s.tenancy.tenantOp.begin 0x4801 })) ∧
    (s.tenancy.tenantOp.busy = false → hubBad (.tenant t.toNat) h s = false → t ≠ 0 →
      (∃ u, exec (.tenantEnable t h) s = .next u ∧
        tenantOf u t.toNat = { tenantOf s t.toNat with valid := true, balance := clampBalance (tenantOf s t.toNat).cap.toNat } ∧
        (∀ k, k ≠ t.toNat → tenantOf u k = tenantOf s k) ∧
        u = { metHub h s with
          tenancy.tenants := u.tenancy.tenants, tenancy.tenantArg := t, tenancy.tenantOp := s.tenancy.tenantOp.begin 0 }) ∧
      (∃ u, exec (.tenantDisable t h) s = .next u ∧
        tenantOf u t.toNat = { tenantOf s t.toNat with valid := false } ∧
        (∀ k, k ≠ t.toNat → tenantOf u k = tenantOf s k) ∧
        u = { metHub h s with
          tenancy.tenants := u.tenancy.tenants, tenancy.tenantArg := t, tenancy.tenantOp := s.tenancy.tenantOp.begin 0 }))) ∧
  (∀ (s : State) (t units : Nat), chargeTenant 0 units s = s ∧
    (t ≠ 0 → tenantOf (chargeTenant t units s) t = { tenantOf s t with
        balance := BitVec.ofInt 32 (max (-2147483648) (min ((tenantOf s t).balance.toInt - units) 2147483647))
        charged := (tenantOf s t).charged + BitVec.ofNat 64 units } ∧
      OnlyTenant t s (chargeTenant t units s))) ∧
  (∀ s : State,
    (∃ t, exec .refill s = .next t ∧ t = { s with tenancy.tenants := t.tenancy.tenants } ∧ tenantOf t 0 = tenantOf s 0 ∧
      ∀ k, k ≠ 0 →
        ((tenantOf s k).valid = true → tenantOf t k = { tenantOf s k with
          balance := clampBalance (min (tenantOf s k).cap.toNat ((tenantOf s k).balance.toInt + (tenantOf s k).refill.toNat)) }) ∧
        ((tenantOf s k).valid = false → tenantOf t k = tenantOf s k)) ∧
    (∃ t, exec .slowdownWindowClose s = .next t ∧ t = { s with tenancy.tenants := t.tenancy.tenants } ∧ ∀ k,
      tenantOf t k = { tenantOf s k with
        slowdown := if (tenantOf s k).soloSum = 0 then 0
          else BitVec.ofNat 16 (min ((tenantOf s k).measuredSum * 256 / (tenantOf s k).soloSum) 0xFFFF)
        soloUs := BitVec.ofNat 32 (min (tenantOf s k).soloSum 0xFFFFFFFF)
        measuredUs := BitVec.ofNat 32 (min (tenantOf s k).measuredSum 0xFFFFFFFF)
        soloSum := 0
        measuredSum := 0 }))

/-- JOB_START and JOB_STOP (R324, R336): refused with 0x4846 while one runs; a start of a slot that holds a job, or for an
invalid tenant, ends with 0x4842, a stop of a slot that holds none with 0x4844; a started job waits, a stopped one is DONE,
at its boundary where it holds the cores. JOB_RUN, JOB_STEP_END, JOB_PREEMPT, JOB_SAVE_DONE, JOB_RESTORE and
JOB_RESTORE_DONE (R206, R212, R324-R327, R336, R390): the states of a job, the time it holds the cores, the step it is at,
the codes that stop it (a core's, a phrase's, a fenced core's or a tripped tile's), and the parts of the machine that a save
takes and a restore puts back. -/
def Obligations.Jobs : Prop :=
  (∀ s : State, hostFree s = true →
    (s.tenancy.jobOp.busy = true →
      exec .jobStart s = .next { s with tenancy.jobOp := s.tenancy.jobOp.refuse 0x4846 } ∧
      exec .jobStop s = .next { s with tenancy.jobOp := s.tenancy.jobOp.refuse 0x4846 }) ∧
    (s.tenancy.jobOp.busy = false →
      (jobDone (job s s.tenancy.jobSlot.toNat) = false ∨ tenantValid s s.tenancy.jobTenant.toNat = false →
        exec .jobStart s = .next { s with tenancy.jobOp := s.tenancy.jobOp.begin 0x4842 }) ∧
      (jobDone (job s s.tenancy.jobSlot.toNat) = true → tenantValid s s.tenancy.jobTenant.toNat = true →
        ∃ t, exec .jobStart s = .next t ∧ job t s.tenancy.jobSlot.toNat =
            { state := .waiting, tenant := s.tenancy.jobTenant.toNat, entry := s.tenancy.jobEntry.toNat
              args := s.tenancy.jobArgs, code := (job s s.tenancy.jobSlot.toNat).code } ∧
          (∀ k, k ≠ s.tenancy.jobSlot.toNat → job t k = job s k) ∧
          t = { s with tenancy.jobs := t.tenancy.jobs, tenancy.jobOp := s.tenancy.jobOp.begin 0 }) ∧
      (jobDone (job s s.tenancy.jobSlot.toNat) = true →
        exec .jobStop s = .next { s with tenancy.jobOp := s.tenancy.jobOp.begin 0x4844 }) ∧
      (jobDone (job s s.tenancy.jobSlot.toNat) = false → ∃ t, exec .jobStop s = .next t ∧
        ((job s s.tenancy.jobSlot.toNat).state = .running ∨ (job s s.tenancy.jobSlot.toNat).state = .saving →
          job t s.tenancy.jobSlot.toNat = { job s s.tenancy.jobSlot.toNat with stopTaken := true } ∧ t.saved = s.saved) ∧
        ((job s s.tenancy.jobSlot.toNat).state = .waiting ∨ (job s s.tenancy.jobSlot.toNat).state = .saved ∨
          (job s s.tenancy.jobSlot.toNat).state = .restoring → (job t s.tenancy.jobSlot.toNat).state = .done) ∧
        ((job s s.tenancy.jobSlot.toNat).state = .saved ∨ (job s s.tenancy.jobSlot.toNat).state = .restoring →
          t.saved = none) ∧
        (∀ k, k ≠ s.tenancy.jobSlot.toNat → job t k = job s k) ∧
        t.tenancy.jobOp = s.tenancy.jobOp.begin 0 ∧ t.dense = s.dense))) ∧
  (∀ (s : State) (j : Fin 8),
    ((job s j).state = .waiting → jobHolds s = false → chunkRequest s = none → s.serve.chunk = none →
      (∀ e, e ∈ s.tenancy.jobs → e.2.state ≠ .saved) →
      (planFault s (jobCores s j) = none → ∃ t, exec (.jobRun j) s = .next t ∧
        OnlyJob j s t ∧ job t j = { job s j with state := .running, heldSince := s.us }) ∧
      (∀ c, planFault s (jobCores s j) = some c → ∃ t, exec (.jobRun j) s = .next t ∧
        (∀ k, k ≠ j.val → job t k = job s k) ∧ (job t j).state = .failed ∧ (job t j).code = c ∧ t.dense = s.dense)) ∧
    ((job s j).state = .running → stoppedBy j 0 s = none → ∀ d, jobDecl s (job s j).entry = some d →
      ((job s j).stopTaken = false → (job s j).step + 1 < d.steps.length → planFault s d.cores = none →
        ∃ t, exec (.jobStepEnd j 0) s = .next t ∧ OnlyJob j s t ∧ job t j = { job s j with step := (job s j).step + 1 }) ∧
      ((job s j).stopTaken = true ∨ d.steps.length ≤ (job s j).step + 1 → ∃ t, exec (.jobStepEnd j 0) s = .next t ∧
        OnlyJob j s t ∧ job t j = { job s j with
          step := (job s j).step + 1, state := .done, us := (job s j).us + BitVec.ofNat 64 (s.us - (job s j).heldSince) })) ∧
    (∀ code c, stoppedBy j code s = some c → (job s j).state = .running ∨ (job s j).state = .saving →
      ∃ t, exec (.jobStepEnd j code) s = .next t ∧ job t j = { job s j with
        state := .failed, code := c, us := (job s j).us + BitVec.ofNat 64 (s.us - (job s j).heldSince) } ∧
      (∀ k, k ≠ j.val → job t k = job s k) ∧ t.saved = none ∧
      ∀ g, core t g = { core s g with stepCode := (core t g).stepCode }) ∧
    (∀ ticks, lcPromptReady s = true →
      ((job s j).state = .running → stoppedBy j 0 s = none → ∀ d, jobDecl s (job s j).entry = some d →
        ((job s j).stopTaken = false → (job s j).step + 1 < d.steps.length → ∃ t, exec (.jobPreempt j ticks) s = .next t ∧
          OnlyJob j s t ∧ job t j = { job s j with state := .saving, step := (job s j).step + 1 }) ∧
        ((job s j).stopTaken = true ∨ d.steps.length ≤ (job s j).step + 1 → ∃ t, exec (.jobPreempt j ticks) s = .next t ∧
          OnlyJob j s t ∧ job t j = { job s j with
            step := (job s j).step + 1, state := .done, us := (job s j).us + BitVec.ofNat 64 (s.us - (job s j).heldSince) })) ∧
      (∀ c, (job s j).state = .running → stoppedBy j 0 s = some c → ∃ t, exec (.jobPreempt j ticks) s = .next t ∧
        job t j = { job s j with
          state := .failed, code := c, us := (job s j).us + BitVec.ofNat 64 (s.us - (job s j).heldSince) } ∧
        (∀ k, k ≠ j.val → job t k = job s k) ∧ t.saved = none) ∧
      ((job s j).state = .restoring → ∃ t, exec (.jobPreempt j ticks) s = .next t ∧
        job t j = { job s j with
          state := .saved, us := (job s j).us + BitVec.ofNat 64 (s.us - (job s j).heldSince) } ∧
        t.tenancy.preemptions = s.tenancy.preemptions + 1 ∧ t.tenancy.lastSwitch = ticks ∧ t.saved = s.saved)) ∧
    (∀ ticks, lcPromptReady s = false → exec (.jobPreempt j ticks) s = .next s) ∧
    (∀ ticks, (job s j).state = .saving → ∃ t, exec (.jobSaveDone j ticks) s = .next t ∧
      (job t j).state = (if (job s j).stopTaken then .done else .saved) ∧
      (∀ k, k ≠ j.val → job t k = job s k) ∧
      t.saved = (if (job s j).stopTaken then none else some (saveParts (jobDecl s (job s j).entry) s)) ∧
      t.tenancy.preemptions = s.tenancy.preemptions + 1 ∧ t.tenancy.lastSwitch = ticks ∧
      (s.tenancy.maxSwitch.toNat < ticks.toNat → t.tenancy.maxSwitch = ticks) ∧
      t.order.moduleReleases = s.order.moduleReleases + 1 ∧ t.dense = s.dense ∧ t.scratch = s.scratch) ∧
    (∀ at_, 5 ≤ s.start.state → (job s j).state = .saved → lcPromptHeld s = false → jobHolds s = false →
      s.tenancy.lastLcPrompt + s.tenancy.resumeHold.toNat ≤ at_ → ∃ t, exec (.jobRestore j at_) s = .next t ∧
        (job t j).state = .restoring ∧ (∀ k, k ≠ j.val → job t k = job s k) ∧ t.saved = s.saved ∧ t.us = max s.us at_) ∧
    (Inv s → (job s j).state = .restoring → ∀ x, s.saved = some x → (∀ e, e ∈ x.bytes → inBanks x.banks e.1 = true) →
      planFault s (jobCores s j) = none → ∃ t, exec (.jobRestoreDone j) s = .next t ∧
      job t j = { job s j with state := .running } ∧ t.saved = none ∧
      (∀ k, k < 32 → collector t k = restoreCollector x k (collector s k)) ∧ t.near.owners = s.near.owners ∧
      (∀ g, g < 128 → core t g = restoreCore x g (core s g)) ∧
      (∀ a, inBanks x.banks a = false → scratchByte t a = scratchByte s a) ∧ t.dram = s.dram))

/-- ADAPTER_LOAD, ADAPTER_INSTALL, ADAPTER_RETIRE, their end, and ADAPTER_FILL_DONE (R69, R330-R334, R437): the codes of the
rows that fail; a slot is taken and LOADING, with what the operation brings, until the end writes it there and commits it
with the next version, or gives it up; a retired slot is filled once no request is bound to it, and is then FREE. -/
def Obligations.Adapters : Prop :=
  ∀ s : State,
    (∀ (t : Byte) (ended : ReadEnd) (o : ImageObject), hostFree s = true →
      (s.tenancy.adapterOp.busy = true →
        (s.tenancy.adapterOp.taken = none → exec (.adapterLoad t ended o) s = .next (refuseAdapter (setAdapterTenant t s))) ∧
        exec (.adapterInstall t) s = .next (refuseAdapter (setAdapterTenant t s)) ∧
        exec (.adapterRetire t) s = .next (refuseAdapter (setAdapterTenant t s))) ∧
      (s.tenancy.adapterOp.busy = false → s.tenancy.adapterOp.taken = none →
        (∀ c, adapterCheck (setAdapterTenant t s) true = some c →
          exec (.adapterLoad t ended o) s = .next (beginAdapter c 0 (setAdapterTenant t s))) ∧
        (adapterCheck (setAdapterTenant t s) true = none → ∀ a, freeAdapter s = some a →
          (∀ c, adapterImageCheck (takeSlot a (setAdapterTenant t s)) ended o = some c →
            ∃ u, exec (.adapterLoad t ended o) s = .next u ∧
            (adapter u a).state = .loading ∧ (adapter u a).tenant = t.toNat ∧
            u.tenancy.adapterOp = s.tenancy.adapterOp.begin 0x4833 ∧ u.tenancy.adapterCause = c ∧ u.dram = s.dram) ∧
          (adapterImageCheck (takeSlot a (setAdapterTenant t s)) ended o = none →
            (slotSize s < ((o.manifest.allocs[0]?).map (·.size)).getD 0 → ∃ u, exec (.adapterLoad t ended o) s = .next u ∧
              (adapter u a).state = .loading ∧ u.tenancy.adapterOp = s.tenancy.adapterOp.begin 0x4834 ∧ u.dram = s.dram) ∧
            (((o.manifest.allocs[0]?).map (·.size)).getD 0 ≤ slotSize s → ∃ u, exec (.adapterLoad t ended o) s = .next u ∧
              adapter u a = { state := .loading, tenant := t.toNat
                              replaces := if s.tenancy.predValid = true then some s.tenancy.predecessor.toNat else none } ∧
              (∀ k, k ≠ a → adapter u k = adapter s k) ∧ u.tenancy.adapterBytes = slotParts o.manifest ∧
              u.tenancy.adapterOp = s.tenancy.adapterOp.begin 0 ∧ u.scratch = s.scratch ∧ u.dram = s.dram))) ∧
        (∀ c, adapterCheck (setAdapterTenant t s) (installJobOk (setAdapterTenant t s)) = some c →
          exec (.adapterInstall t) s = .next (beginAdapter c 0 (setAdapterTenant t s))) ∧
        (adapterCheck (setAdapterTenant t s) (installJobOk (setAdapterTenant t s)) = none → ∀ a, freeAdapter s = some a →
          (∀ x, x ∈ installParts (takeSlot a (setAdapterTenant t s)) → x.1 + x.2.length ≤ slotSize s) →
          ∃ u, exec (.adapterInstall t) s = .next u ∧
            (adapter u a).state = .loading ∧ (adapter u a).tenant = t.toNat ∧ (∀ k, k ≠ a → adapter u k = adapter s k) ∧
            u.tenancy.adapterBytes = installParts (takeSlot a (setAdapterTenant t s)) ∧
            u.tenancy.adapterOp = s.tenancy.adapterOp.begin 0 ∧ u.scratch = s.scratch ∧ u.dram = s.dram) ∧
        (t = 0 ∨ tenantValid s t.toNat = true →
          (isCurrent s s.tenancy.adapterArg.toNat = false →
            exec (.adapterRetire t) s = .next (beginAdapter 0x4836 0 (setAdapterTenant t s))) ∧
          (isCurrent s s.tenancy.adapterArg.toNat = true → ∃ u, exec (.adapterRetire t) s = .next u ∧
            (adapter u s.tenancy.adapterArg.toNat).state =
              (if inFlight s s.tenancy.adapterArg.toNat = 0 then .filling else .retiring) ∧
            (adapter u s.tenancy.adapterArg.toNat).successor = none ∧
            u.tenancy.adapterOp = s.tenancy.adapterOp.begin 0 ∧ u.dram = s.dram)))) ∧
    (s.tenancy.adapterOp.busy = true → s.tenancy.adapterOp.taken = none → ∀ a, loadingSlot s = some a → slotWaits a s = false →
      (s.tenancy.adapterOp.outcome = 0 → (adapter s a).replaces ≠ some a → ∃ u, exec (.operationEnd .adapter) s = .next u ∧
        adapter u a = { adapter s a with state := .current, version := s.tenancy.nextVersion, replaces := none } ∧
        u.tenancy.nextVersion = s.tenancy.nextVersion + 1 ∧ u.tenancy.adapterArg = BitVec.ofNat 10 a ∧
        (∀ p, (adapter s a).replaces = some p → (adapter u p).state = (if inFlight s p = 0 then .filling else .retiring) ∧
          (adapter u p).successor = some a) ∧
        u.tenancy.adapterOp = { s.tenancy.adapterOp with busy := false, result := 0 } ∧ u.dram = (fillSlot a s).dram) ∧
      (s.tenancy.adapterOp.outcome ≠ 0 → ∃ u, exec (.operationEnd .adapter) s = .next u ∧
        adapter u a = { adapter s a with state := .filling } ∧ (∀ k, k ≠ a → adapter u k = adapter s k) ∧
        u.tenancy.adapterOp = { s.tenancy.adapterOp with busy := false, result := s.tenancy.adapterOp.outcome } ∧
        u.dram = s.dram)) ∧
    (∀ a : Fin 1024, (adapter s a).state = .filling → ∃ u, exec (.adapterFillDone a) s = .next u ∧
      adapter u a = {} ∧ (∀ k, k ≠ a.val → adapter u k = adapter s k) ∧
      u.protect.freeFills = s.protect.freeFills + 1 ∧ u.scratch = s.scratch)

/-- R344, R345: a link that is up takes a flit exactly where its checks hold and its SEQ is the one expected, which then
moves on; any other sequenced flit asks once for a retry; no link that is down takes anything. R29, R249, R342, R343, R346,
R356: of an arriving flit: one that has to wait for stacked memory, or comes behind one that waits, is kept in order; not
taken, nothing more happens; else the first check that fails is a violation with its code, and a flit for another node goes
on with one hop more. -/
def Obligations.LinksTakeInOrder : Prop :=
  (∀ (s : State) (l t : Nat) (f : Flit),
    (linkUp s l = false → receive l t f s = (advanceTo t s, false)) ∧
    (linkUp s l = true →
      ((receive l t f s).2 = true ↔
        f.type ≠ 0 ∧ f.fecOk = true ∧ crcGood f = true ∧ f.seq = (link s l).expected) ∧
      ((receive l t f s).2 = true →
        (link (receive l t f s).1 l).expected = ((link s l).expected + 1) % 4096 ∧
        (link (receive l t f s).1 l).retryReq = false ∧
        (link (receive l t f s).1 l).flitsRx = (link s l).flitsRx + 1) ∧
      ((receive l t f s).2 = false → f.type ≠ 0 → (link s l).retryReq = false →
        (link (receive l t f s).1 l).retryReq = true ∧ (link (receive l t f s).1 l).retries = (link s l).retries + 1 ∧
        (link (receive l t f s).1 l).expected = (link s l).expected) ∧
      ∀ k, k ≠ l → link (receive l t f s).1 k = link s k)) ∧
  (∀ (s : State) (c : Instr) (l : Fin 36) (f : Flit) (t : Nat), flitRow c = some (l, f, t) → linkUp s l = true →
    (linkBlocked l s = true ∨ flitWaits f s = true → exec c s = .next (deferCommand (arrival l f t) s)) ∧
    (linkBlocked l s = false → flitWaits f s = false →
    (∀ u, receive l t f s = (u, false) → exec c s = .next u) ∧
    (∀ u, receive l t f s = (u, true) →
      (opOk f = false ∨ f.unusedZero = false → exec c s = .next (violate l 0x5010 true f u)) ∧
      (opOk f = true → f.unusedZero = true →
        (overCredit (link u l) f = true → exec c s = .next (violate l 0x5011 true f u)) ∧
        (overCredit (link u l) f = false →
          (shapeOk f = false → exec c s = .next (violate l 0x5012 true f u)) ∧
          (shapeOk f = true → f.type ≠ 7 →
            (f.dest ≠ nodeOf u → hasRoute u f.dest = false → exec c s = .next (violate l 0x5014 true f u)) ∧
            (f.dest = nodeOf u ∨ hasRoute u f.dest = true → 7 < f.hops → exec c s = .next (violate l 0x5015 true f u)) ∧
            (f.dest ≠ nodeOf u → hasRoute u f.dest = true → f.hops ≤ 7 →
              exec c s = .next (routeFlit { f with hops := f.hops + 1 } u))))))))

/-- WRITE, READ, READ_RESPONSE, ATOMIC_ADD, FENCE_REQUEST and FENCE_ACK at their node (R347, R348, R350, R356, R361): inside
a window that grants it a write stores its sectors, a read is answered, an atomic adds; outside, 0x5013; a request for a
fence is acknowledged, an acknowledgement or a response is taken by what awaits it, and is 0x5016 where nothing does.
RREAD_GO, RREAD_TIMEOUT and the end of a remote read (R361, R453). -/
def Obligations.PacketsAct : Prop :=
  (∀ (s : State) (l : Fin 36) (f : Flit) (t : Nat),
    (f.type = 1 → ∀ u, Passes l t f s u →
      (windowFor u (fun w => w.write) f (32 * f.sectors) = true →
        exec (.fabricWrite l f t) s = .next (remoteStore f f.sectors (receivePort f u))) ∧
      (windowFor u (fun w => w.write) f (32 * f.sectors) = false →
        exec (.fabricWrite l f t) s = .next (violate l 0x5013 true f u))) ∧
    (f.type = 2 → f.op = 0 → ∀ u, Passes l t f s u →
      (windowFor u (fun w => w.read) f (32 * f.sectors) = true → exec (.fabricRead l f t) s = .next
        (sendOrdered (response (remoteFetch f f.sectors (receivePort f u)).2 f 0 0 (remoteFetch f f.sectors (receivePort f u)).1)
          (remoteFetch f f.sectors (receivePort f u)).2)) ∧
      (windowFor u (fun w => w.read) f (32 * f.sectors) = false → exec (.fabricRead l f t) s = .next
        (sendOrdered (response u f 1 0x5013 []) (violate l 0x5013 false f u)))) ∧
    (f.type = 3 → ∀ u, Passes l t f s u →
      (u.fabric.rreadTag = some f.tag → ∃ v, exec (.readResponse l f t) s = .next v ∧
        v.fabric.rreadTag = none ∧ v.fabric.rread = { u.fabric.rread with busy := false, result := f.status } ∧
        (f.op = 0 → v.fabric.rreadPoison = f.poison ∧ ∀ k, k < 4 * f.sectors →
          tabGet 0 v.fabric.rreadData k = wordOf (f.data.getD (k / 4) 0) (k % 4)) ∧
        (f.op ≠ 0 → v.fabric.rreadData = u.fabric.rreadData) ∧ v.dram = u.dram ∧ v.fabric.links = u.fabric.links) ∧
      (u.fabric.rreadTag ≠ some f.tag → exec (.readResponse l f t) s = .next (violate l 0x5016 true f u))) ∧
    (f.type = 4 → ∀ u, Passes l t f s u →
      (windowFor u (fun w => w.atomic) f 8 = false → exec (.atomicAdd l f t) s = .next (violate l 0x5013 true f u)) ∧
      (windowFor u (fun w => w.atomic) f 8 = true → Inv s → u.scratch.bad = [] →
        resolve f.address = some (Alias.normal, f.address) → ∃ v, exec (.atomicAdd l f t) s = .next v ∧
          leValue (memReadN v.scratch.bytes f.address 8) =
            (leValue (memReadN u.scratch.bytes f.address 8) + (f.data.getD 0 0).toNat % 2 ^ 64) % 2 ^ 64 ∧
          (∀ a, a < f.address ∨ f.address + 8 ≤ a → scratchByte v a = scratchByte u a) ∧ v.dram = u.dram)) ∧
    (f.type = 5 → f.op = 0 → ∀ u, Passes l t f s u → exec (.fenceRequest l f t) s = .next
      (sendOrdered { type := 5, op := 1, dest := f.src, src := nodeOf u, tag := f.tag } u)) ∧
    (f.type = 5 → f.op = 1 → ∀ u, Passes l t f s u →
      ((∃ r, r ∈ u.order.releases ∧ (f.src, f.tag) ∈ r.awaiting) → exec (.fenceAck l f t) s = .next { u with
        order.releases := u.order.releases.map fun r => { r with awaiting := r.awaiting.filter fun p => p != (f.src, f.tag) } }) ∧
      ((∀ r, r ∈ u.order.releases → (f.src, f.tag) ∉ r.awaiting) →
        exec (.fenceAck l f t) s = .next (violate l 0x5016 true f u)))) ∧
  (∀ s : State,
    (hostFree s = true →
      (s.fabric.rread.busy = true →
        exec .rreadGo s = .next { s with fabric.rread := s.fabric.rread.refuse 0x5035 }) ∧
      (s.fabric.rread.busy = false → orderedLink s s.fabric.rreadNode.toNat = none →
        exec .rreadGo s = .next { s with fabric.rread := s.fabric.rread.begin 0x5033 }) ∧
      (∀ l, s.fabric.rread.busy = false → orderedLink s s.fabric.rreadNode.toNat = some l → ∃ t, exec .rreadGo s = .next t ∧
        t.fabric.rread = s.fabric.rread.begin 0 ∧ t.fabric.rreadTag = some s.fabric.nextTag ∧
        t.fabric.nextTag = (s.fabric.nextTag + 1) % 2 ^ 24 ∧ (∀ k, k ≠ l → link t k = link s k) ∧
        ((link s l).queue = [] → canSend (link s l) { type := 2 } = true → ∃ f, t.fabric.sent = s.fabric.sent ++ [(l, f)] ∧
          f.type = 2 ∧ f.dest = s.fabric.rreadNode.toNat ∧ f.src = s.fabric.node.toNat ∧ f.tag = s.fabric.nextTag ∧
          f.sectors = s.fabric.rreadSectors.toNat ∧ f.address = s.fabric.rreadAddr.toNat ∧ f.scratch = s.fabric.rreadSpace) ∧
        t.dram = s.dram)) ∧
    (∀ g, s.fabric.rreadTag = some g → exec .rreadTimeout s = .next { s with
      fabric.rreadTag := none, fabric.rread := { s.fabric.rread with busy := false, result := 0x5033 } }))

/-- COLLECTIVE_SUM, COLLECTIVE_MAX, COLLECTIVE_RESULT and COLL_TIMEOUT (R352, R353, R356): partials of an awaited node for
one of the two open rounds are added once; another node, element or round is a violation; a result is kept for the
broadcast; what a last sector holds beyond the slice is ignored (the model's choice, log entry 104); a round that times out is poisoned where it is unfinished, recorded with 0x5040, and the next round takes its
place. What a contribution adds to an element of a round (R35, R183, R353): one term of the sum, or of the maximum, and the
child; no other element changes. -/
def Obligations.Collectives : Prop :=
  (∀ (s : State) (l : Fin 36) (f : Flit) (t : Nat),
    (f.type = 6 → ∀ u, Passes l t f s u → ∀ e : Instr, (f.op = 0 ∧ e = .collectiveSum l f t) ∨ (f.op = 1 ∧
      e = .collectiveMax l f t) →
      (coll? u f.collId = none → exec e s = .next (violate l 0x5017 true f u)) ∧
      (∀ c, coll? u f.collId = some c →
        (sliceOf c.decl f.element = none → exec e s = .next (violate l 0x5017 true f u)) ∧
        (∀ sl, sliceOf c.decl f.element = some sl →
          (elementsTo (sliceEnd c.decl sl) 4 f = none ∨ f.src ∉ awaited u c.decl sl →
            exec e s = .next (violate l 0x5017 true f u)) ∧
          (∀ n, elementsTo (sliceEnd c.decl sl) 4 f = some n → f.src ∈ awaited u c.decl sl →
            (pickRound c f.round = none → exec e s = .next (violate l 0x5018 true f u)) ∧
            (∀ now, pickRound c f.round = some now →
              ((∃ i, i < n ∧ f.src ∈ tabGet [] (roundOf c now).children (f.element + i)) →
                exec e s = .next (violate l 0x5018 true f u)) ∧
              ((∀ i, i < n → f.src ∉ tabGet [] (roundOf c now).children (f.element + i)) →
                exec e s = .next (addContributions f.collId now f.src f.element ((flitPartials f).take n) u))))))) ∧
    (f.type = 6 → f.op = 2 → ∀ u, Passes l t f s u →
      (coll? u f.collId = none → exec (.collectiveResult l f t) s = .next (violate l 0x5017 true f u)) ∧
      (∀ c, coll? u f.collId = some c →
        ((∀ sl n, sliceOf c.decl f.element = some sl → elementsTo (sliceEnd c.decl sl) (if c.decl.format = 1 then 16 else 8) f ≠
          some n) → exec (.collectiveResult l f t) s = .next (violate l 0x5017 true f u)) ∧
        (∀ sl n, sliceOf c.decl f.element = some sl →
          elementsTo (sliceEnd c.decl sl) (if c.decl.format = 1 then 16 else 8) f = some n →
          ∃ v, exec (.collectiveResult l f t) s = .next v ∧
            (∃ d, coll? v f.collId = some d ∧ d.current = c.current ∧ d.next = c.next ∧ d.decl = c.decl ∧
              ∀ i, i < n → tabGet 0 d.result (f.element + i) =
                BitVec.ofNat 32 ((f.data.getD (i / (if c.decl.format = 1 then 16 else 8)) 0).toNat /
                  2 ^ ((if c.decl.format = 1 then 16 else 32) * (i % (if c.decl.format = 1 then 16 else 8))) %
                  2 ^ (if c.decl.format = 1 then 16 else 32))) ∧
            (∀ k, k ≠ f.collId → coll? v k = coll? u k) ∧ v.fabric.links = u.fabric.links))) ∧
    (∀ id, (coll? s id = none → exec (.collTimeout id) s = .next s) ∧
      (∀ c, coll? s id = some c → c.current.children ≠ [] → ∃ v, exec (.collTimeout id) s =
          .next (Machine.reportFree 0x5040 subjModule subjModule v) ∧
        (coll? v id).map (fun d => d.current) = some c.next))) ∧
  (∀ (isMax poison : Bool) (child e : Nat) (v : Val) (r : Round),
    tabGet [] (contribute isMax child e v poison r).children e = tabGet [] r.children e ++ [child] ∧
    (isMax = false → tabGet ({} : Acc) (contribute isMax child e v poison r).accs e =
      (tabGet ({} : Acc) r.accs e).applyMarked v poison ∧ (contribute isMax child e v poison r).maxes = r.maxes) ∧
    (isMax = true → tabGet emptyMax (contribute isMax child e v poison r).maxes e =
      maxSlot (tabGet emptyMax r.maxes e) v poison ∧ (contribute isMax child e v poison r).accs = r.accs) ∧
    (∀ k, k ≠ e → tabGet [] (contribute isMax child e v poison r).children k = tabGet [] r.children k ∧
      tabGet ({} : Acc) (contribute isMax child e v poison r).accs k = tabGet ({} : Acc) r.accs k ∧
      tabGet emptyMax (contribute isMax child e v poison r).maxes k = tabGet emptyMax r.maxes k))

/-- HELLO on a link that is up, NAK, TUNE, DRAIN, IDLE, RETRY_REQ_REPEAT, REPLAY_TIMEOUT and TUNE_PERIOD (R343-R345, R354,
R357, R358). LINK_QUARANTINE, QUARANTINE_HOLD_EXPIRY, SWEEP_DONE, LOCK_DONE, ALIGN_DONE, BRINGUP_TIMEOUT, LINK_RETRY and the
HELLO of bring-up (R344, R355, R358, R359, R361): the states of a link. LASER_INSERT, SOURCE_OUTPUT_POWER and LASER_REMOVE
(R339, R359, R445): the sockets; with one source lost light goes on (0x5001), with both every link is down (0x5002). -/
def Obligations.LinkStates : Prop :=
  (∀ (s : State) (l : Fin 36) (f : Flit) (t : Nat),
    (f.type = 7 → ∀ u, Passes l t f s u →
      (f.op = 0 → linkUp s l = true → exec (.hello l f t) s = .next u) ∧
      (f.op = 1 → exec (.nak l f t) s = .next (Machine.report 0x5023 (subjLink l) (subjLink l) (BitVec.ofNat 32 f.status.toNat)
        (onLink l (fun k => { k with naksReceived := k.naksReceived + 1 }) u))) ∧
      (f.op = 2 → ∃ v, exec (.tune l f t) s = .next v ∧ OnlyLink l u v ∧ link v l = { link u l with
        peerTune := [0, 1, 2, 3].map fun k => (f.data.getD 0 0).extractLsb' (32 * k) 32
        peerPeriod := (f.data.getD 0 0).extractLsb' 128 32 }) ∧
      (f.op = 3 → exec (.drain l f t) s = .next u)) ∧
    (linkUp s l = true → crcGood (asType f 0 f.op) = true → f.retryReq = false → f.creditClass = 3 → (link s l).queue = [] →
      (f.ack + 4096 - (link s l).ackedSeq) % 4096 ≤ (link s l).replay.length → ∃ v,
        link v l = { link s l with
          ackedSeq := f.ack, replay := (link s l).replay.drop ((f.ack + 4096 - (link s l).ackedSeq) % 4096) } ∧
        (∀ k, k ≠ l.val → link v k = link s k) ∧ v.fabric.sent = s.fabric.sent ∧ v.log = s.log ∧
        (opOk (asType f 0 f.op) = false ∨ (asType f 0 f.op).unusedZero = false →
          exec (.idle l f t) s = .next (violate l 0x5010 true (asType f 0 f.op) v)) ∧
        (opOk (asType f 0 f.op) = true → (asType f 0 f.op).unusedZero = true → shapeOk (asType f 0 f.op) = false →
          exec (.idle l f t) s = .next (violate l 0x5012 true (asType f 0 f.op) v)) ∧
        (opOk (asType f 0 f.op) = true → (asType f 0 f.op).unusedZero = true → shapeOk (asType f 0 f.op) = true →
          exec (.idle l f t) s = .next v)) ∧
    (linkUp s l = true → (link s l).retryReq = true → ∃ v, exec (.retryReqRepeat l) s = .next v ∧
      (∃ g, v.fabric.sent = s.fabric.sent ++ [(l.val, g)] ∧ g.type = 0 ∧ g.retryReq = true ∧
        g.ack = ((link s l).expected + 4095) % 4096) ∧ (link v l).replay = (link s l).replay ∧
      (∀ k, k ≠ l.val → link v k = link s k) ∧ v.dram = s.dram) ∧
    (linkUp s l = true → (link s l).replay ≠ [] → ∃ v, exec (.replayTimeout l) s = .next v ∧
      (v.fabric.sent.drop s.fabric.sent.length).map (fun p => (p.1, p.2.seq, p.2.data)) =
        ((link s l).replay.take 1).map (fun g => (l.val, g.seq, g.data)) ∧
      (link v l).flitsTx = (link s l).flitsTx + 1 ∧
      (link v l).replay = (link s l).replay ∧ (∀ k, k ≠ l.val → link v k = link s k) ∧ v.dram = s.dram) ∧
    (∀ (corrected : List Nat) (bad : Nat), linkUp s l = true → ∃ v, exec (.tunePeriod l corrected bad t) s = .next v ∧
      (link v l).period = (link s l).period + 1 ∧
      (link v l).fecCorrected = (link s l).fecCorrected + BitVec.ofNat 64 (sumNat (corrected.take 4)) ∧
      (link v l).fecUncorrectable = (link s l).fecUncorrectable + BitVec.ofNat 64 bad ∧
      (s.fabric.switchUs = none → (link s l).period % 8 ≠ 7 → (link v l).rxHeater = (link s l).rxHeater ∧
        (link v l).txHeater = (link s l).txHeater) ∧
      (∀ k, k ≠ l.val → link v k = link s k) ∧ v.us = (advanceTo t s).us ∧ v.dram = s.dram)) ∧
  (∀ (s : State) (l : Fin 36),
    (∀ (lost : Bool) (t : Nat), linkUp s l = true → (lost = true ∨ overLimit (advanceTo t s) (link s l) = true) →
      ∃ v, exec (.linkQuarantine l lost t) s = .next (drainHeld v) ∧ (link v l).state = .quarantined ∧
        (link v l).replay = [] ∧ (link v l).queue = [] ∧ (link v l).quarantines = satAdd (link s l).quarantines 1 ∧
        (∀ k, k ≠ l.val → link v k = link s k)) ∧
    ((link s l).state = .quarantined → (link s l).staysDown = true → ∃ v, exec (.quarantineHoldExpiry l) s = .next v ∧
      OnlyLink l s v ∧ link v l = { link s l with state := .down }) ∧
    ((link s l).state = .quarantined → (link s l).staysDown = false → ∃ v, exec (.quarantineHoldExpiry l) s = .next v ∧
      OnlyLink l s v ∧ (link v l).state = (if (link s l).enabled = true ∧ lightOn s = true then .sweep else .down)) ∧
    (∀ tx rx : Quad, (link s l).state = .sweep → ∃ v, exec (.sweepDone l tx rx) s = .next v ∧ OnlyLink l s v ∧
      link v l = { link s l with
        state := .lock, txHeater := tx &&& 0x0FFF0FFF0FFF0FFF, rxHeater := rx &&& 0x0FFF0FFF0FFF0FFF }) ∧
    ((link s l).state = .lock → exec (.lockDone l) s =
      .next (settleStart (onLink l (fun k => { k with state := .align }) s))) ∧
    ((link s l).state = .align → linkPlanHigh s = false → ∃ v, exec (.alignDone l) s = .next v ∧
      link v l = { link s l with state := .hello } ∧ (∀ k, k ≠ l.val → link v k = link s k) ∧
      v.fabric.sent = s.fabric.sent ++ [(l.val, sealFlit (helloFlit s l))] ∧
      v = { s with fabric.links := v.fabric.links, fabric.sent := v.fabric.sent }) ∧
    (∀ (f : Flit) (t : Nat), (link s l).state = .hello → crcGood (asType f 7 0) = true → f.fecOk = true →
      (f.src = (link s l).peerNode.toNat → f.tag = (link s l).peerLink →
        exec (.hello l f t) s = .next (settleStart (comeUp l (advanceTo t s)))) ∧
      (f.src ≠ (link s l).peerNode.toNat ∨ f.tag ≠ (link s l).peerLink →
        exec (.hello l f t) s = .next (settleStart (leaveDown l (advanceTo t s))))) ∧
    (link (comeUp l s) l = { link s l with
      state := .up, nextSeq := 0, ackedSeq := 4095, expected := 0, retryReq := false, retryDue := false, replay := []
      queue := [], credits := { req := 384, rsp := 256, col := 384 }, peerCounts := {}, freed := {}, peerUsed := {}
      rotate := 0 }) ∧
    ((link s l).state = .sweep ∨ (link s l).state = .lock ∨ (link s l).state = .hello ∨
      ((link s l).state = .align ∧ linkPlanHigh s = false) →
      exec (.bringupTimeout l) s = .next (settleStart (Machine.reportFree 0x5020 (subjLink l) (subjLink l)
        (onLink l (fun k => { k with state := .down, staysDown := true }) s)))) ∧
    (hostFree s = true → (link s l).staysDown = true → (link s l).state = .down ∨ (link s l).state = .quarantined →
      ∃ v, exec (.linkRetry l) s = .next v ∧ OnlyLink l s v ∧ (link v l).staysDown = false ∧
        (link v l).state = (if (link s l).enabled = true ∧ lightOn s = true then .sweep else .down))) ∧
  (∀ s : State,
    (s.fabric.socketA = .empty → exec (.laserInsert 0) s = .next { s with fabric.socketA := .dark }) ∧
    (s.fabric.socketB = .empty → exec (.laserInsert 1) s = .next { s with fabric.socketB := .dark }) ∧
    (s.fabric.socketA = .dark → ∃ t, exec (.sourceOutputPower 0) s = .next t ∧ t.fabric.socketA = .lasing ∧
      t.fabric.socketB = s.fabric.socketB ∧ t.fabric.switchUs = some s.us ∧ t.dram = s.dram) ∧
    (s.fabric.socketB = .dark → ∃ t, exec (.sourceOutputPower 1) s = .next t ∧ t.fabric.socketB = .lasing ∧
      t.fabric.socketA = s.fabric.socketA ∧ t.fabric.switchUs = some s.us ∧ t.dram = s.dram) ∧
    (∀ failed, s.fabric.socketA ≠ .empty → s.fabric.socketB = .lasing → exec (.laserRemove 0 failed) s =
      .next (drainHeld (Machine.reportFree 0x5001 subjModule subjModule
        { s with fabric.socketA := if failed then .dark else .empty, fabric.switchUs := some s.us }))) ∧
    (∀ failed, s.fabric.socketA = .lasing → s.fabric.socketB ≠ .lasing → ∃ v, exec (.laserRemove 0 failed) s =
        .next (drainHeld (settleStart (Machine.reportFree 0x5002 subjModule subjModule v))) ∧
      v.fabric.socketA = (if failed then .dark else .empty) ∧ (∀ k, k < 36 → (link v k).state = .down) ∧
      ∀ r, r ∈ v.order.releases → r.awaiting = []) ∧
    (∀ failed, s.fabric.socketB ≠ .empty → s.fabric.socketA = .lasing → exec (.laserRemove 1 failed) s =
      .next (drainHeld (Machine.reportFree 0x5001 subjModule subjModule
        { s with fabric.socketB := if failed then .dark else .empty, fabric.switchUs := some s.us }))) ∧
    (∀ failed, s.fabric.socketB = .lasing → s.fabric.socketA ≠ .lasing → ∃ v, exec (.laserRemove 1 failed) s =
        .next (drainHeld (settleStart (Machine.reportFree 0x5002 subjModule subjModule v))) ∧
      v.fabric.socketB = (if failed then .dark else .empty) ∧ (∀ k, k < 36 → (link v k).state = .down) ∧
      ∀ r, r ∈ v.order.releases → r.awaiting = []))

/-- SENSOR_SAMPLE and ROUND_END (R384, R385, R388-R391, R410), from step 5 of start-up on: a sample is stored with its validity, and trips its tile or
the module where it passes the limits of its class; a round is counted, and the heat of each tile goes at once to a lower
target and one step towards a higher one, never out of 4 to 16. R390, R391: no sample, round, halt or limit clears a trip,
and after the trip of the whole module every tile is tripped. ENTROPY_FAIL, ENTROPY_TESTS_PASS and OP_HOURS_WRITE (R382,
R383, R393, R430). TEST_START, TEST_FORCE and TEST_END (R394-R396, R401, R410): a forced test of a subject begins once
nothing runs there, another one where Luthier picks the subject in its window; a test is forced after 23 hours; one that
passes is counted and timed, one that fails is repeated, a part that fails twice is fenced and recorded with 0x7030, one
that passes the repeat is recorded with 0x7032; parts that are already fenced are judged by no test. UNIT_UNRESPONSIVE and
CORE_UNRESPONSIVE (R104, R150, R400, R401): the unit is isolated, what it owes its collector is supplied as poison and no
longer awaited; the step fails with 0x7041, which is recorded. -/
def Obligations.Housekeeping : Prop :=
  (∀ s : State, luthierRuns s = false ∨ s.start.state < 5 →
    (∀ (k : Fin 256) (v : Half), exec (.sensorSample k v) s = .next s) ∧ exec .roundEnd s = .next s) ∧
  (∀ s : State, luthierRuns s = true → 5 ≤ s.start.state →
    (∀ (k : Fin 256) (v : Half), ∃ t, exec (.sensorSample k v) s = .next t ∧
      (reading t k).raw = v ∧ (reading t k).valid = true ∧ (∀ j, j ≠ k.val → reading t j = reading s j) ∧
      (∀ i, k.val < 64 → i = k.val / 8 → (reading s k).broken = false → 110 * 16 ≤ v.toInt → tileTripped t i = true) ∧
      (∀ i, 64 ≤ k.val → k.val < 192 → i = (k.val - 64) / 16 → (reading s k).broken = false → 105 * 16 ≤ v.toInt →
        tileTripped t i = true) ∧
      (k.val < 64 → v.toInt < 110 * 16 → t.lut.heat = s.lut.heat ∧ t.dense = s.dense ∧ t.serve = s.serve) ∧
      (TripsAgree s → (192 ≤ k.val ∧ k.val < 198 ∧ 110 * 16 ≤ v.toInt ∨ 200 ≤ k.val ∧ k.val < 216 ∧ 135 * 16 ≤ v.toInt) →
        (reading s k).broken = false → ∀ i, i < 8 → tileTripped t i = true) ∧
      (216 ≤ k.val → t = { s with lut.readings := t.lut.readings })) ∧
    (∃ t, exec .roundEnd s = .next t ∧ t.lut.rounds = s.lut.rounds + 1 ∧
      (∀ i, i < 8 → (heat s i).fraction ≤ 16 → 4 ≤ (heat s i).fraction →
        (heat t i).fraction ≤ (heat s i).fraction + 1 ∧ 4 ≤ (heat t i).fraction ∧ (heat t i).fraction ≤ 16 ∧
        (heat t i).tripped = (heat s i).tripped) ∧
      t.lut.modulePower = BitVec.ofNat 16 (min 65535 (inputPower s / 100000)))) ∧
  (TripsAgree State.reset ∧ ∀ (s t : State) (c : Instr),
    ((∃ k v, c = .sensorSample k v) ∨ c = .roundEnd ∨ (∃ n h p, c = .halt n h p) ∨ (∃ w n h p, c = .lowerLimit w n h p)) →
    exec c s = .next t → (∀ i, tileTripped s i = true → tileTripped t i = true) ∧ (TripsAgree s → TripsAgree t)) ∧
  (∀ s : State,
    (s.lut.entropyOk = true → luthierRuns s = true → exec .entropyFail s =
      .next (Machine.reportFree 0x7001 subjLuthier subjLuthier { s with lut.entropyOk := false })) ∧
    (s.lut.entropyOk = true → luthierRuns s = false → exec .entropyFail s = .next { s with lut.entropyOk := false }) ∧
    (s.lut.entropyOk = false → exec .entropyFail s = .next s) ∧
    (7 ≤ s.start.state → exec .entropyTestsPass s = .next { s with lut.entropyOk := true, lut.keysDrawn := true }) ∧
    (s.start.state < 7 → exec .entropyTestsPass s = .next { s with lut.entropyOk := true }) ∧
    (luthierRuns s = true → flashOk 0 s = true → exec .opHoursWrite s = .next { s with
      nvm.opHours := s.lut.opHours, nvm.powerCycles := s.lut.powerCycles
      lut.held := s.lut.held.filter (· != .hours) }) ∧
    (luthierRuns s = true → flashOk 0 s = false → .hours ∉ s.lut.held → exec .opHoursWrite s =
      .next (Machine.reportFree 0x7060 subjLuthier subjLuthier { s with lut.held := s.lut.held ++ [.hours] })) ∧
    (luthierRuns s = true → flashOk 0 s = false → .hours ∈ s.lut.held → exec .opHoursWrite s = .next s)) ∧
  (∀ (s : State) (x : TestSubject),
    (luthierRuns s = true → testable s x = true → (∀ r, r ∈ s.lut.tests → r.subject ≠ x) →
      ((∃ r, r ∈ s.lut.forced ∧ r.subject = x) ∧ quiet s x = true ∨
        (∀ r, r ∈ s.lut.forced → r.subject ≠ x) ∧ picked s x = true) → ∃ t, exec (.testStart x) s = .next t ∧
        (∃ r, t.lut.tests = s.lut.tests ++ [r] ∧ r.subject = x ∧
          ((∀ q, q ∈ s.lut.forced → q.subject ≠ x) → r.isRepeat = false ∧ r.firstFailed = [])) ∧
        t = { s with lut.tests := t.lut.tests, lut.forced := t.lut.forced }) ∧
    (∀ k, passKey x = some k → luthierRuns s = true → testable s x = true →
      (tabGet s.lut.startTest s.lut.lastPass k).toNat + 23 * 65536 ≤ s.lut.opHours.toNat →
      exec (.testForce x) s = .next (forceWindow x 1 false s)) ∧
    (∀ k, passKey x = some k → s.lut.opHours.toNat < (tabGet s.lut.startTest s.lut.lastPass k).toNat + 23 * 65536 →
      exec (.testForce x) s = .next s) ∧
    ((∀ r, r ∈ s.lut.tests → r.subject ≠ x) → ∀ l, exec (.testEnd x l) s = .next s) ∧
    (∀ r, s.lut.tests.find? (fun r => r.subject == x) = some r →
      (∀ l, r.isRepeat = false → (∀ i, i ∈ l → partFenced s x i = true) → ∃ t, exec (.testEnd x l) s = .next t ∧
        t.lut.testsRun = s.lut.testsRun + 1 ∧ t.lut.tests = removeFirst (fun r => r.subject == x) s.lut.tests ∧
        (∀ k, passKey x = some k → tabGet s.lut.startTest t.lut.lastPass k = s.lut.opHours) ∧ t.log = s.log) ∧
      (∀ l, r.isRepeat = false → (∃ i, i ∈ l ∧ partFenced s x i = false) → ∃ t, exec (.testEnd x l) s = .next t ∧
        t.lut.testsRun = s.lut.testsRun + 1 ∧ t.lut.tests = removeFirst (fun r => r.subject == x) s.lut.tests ++
          [{ r with isRepeat := true, firstFailed := l.filter fun i => !partFenced s x i }] ∧
        t = { s with lut.testsRun := t.lut.testsRun, lut.tests := t.lut.tests, lut.lastTest := t.lut.lastTest }) ∧
      (∀ l, r.isRepeat = true → ∃ t, exec (.testEnd x l) s = .next t ∧ t.lut.testsRun = s.lut.testsRun + 1 ∧
        (∀ i, i ∈ r.firstFailed → i ∈ l → partFenced s x i = false →
          (∀ c, x = .channel c → (unit t (16 * c + i)).fenced = true ∧ 16 * c + i ∈ t.lut.fencedUnits) ∧
          (∀ u, x = .unit u → (unit t u).fenced = true) ∧ (∀ g, x = .core g → (core t g).fenced = true)) ∧
        ((∀ i, i ∈ r.firstFailed → i ∉ l) → (∀ u, (unit t u).fenced = (unit s u).fenced) ∧
          ∀ g, (core t g).fenced = (core s g).fenced)))) ∧
  (∀ (s : State) (u : Fin 8192) (g : Fin 128),
    (∃ v, exec (.unitUnresponsive u none) s = .next (Machine.reportFree 0x7041 (silentSubject s u) (subjChannel (u.val / 16)) v) ∧
      unit v u = { unit s u with isolated := true, out := [], run := none } ∧ (∀ k, k ≠ u.val → unit v k = unit s k) ∧
      (∀ r, (unit s u).run = some r → ∀ x, x ∈ (collector s (collectorOf (u.val / 16))).reductions → x.number = r.reduction →
        ∃ y, y ∈ (collector v (collectorOf (u.val / 16))).reductions ∧ y.number = x.number ∧ y.owed ≤ x.owed - r.owes ∧
          ∀ e, e ∈ r.declared → e ∈ y.poisoned) ∧ v.serve = s.serve) ∧
    (∀ w x, getStep s w = some x → ∃ v, exec (.unitUnresponsive u (some w)) s =
        .next (Machine.reportFree 0x7041 (silentSubject s u) (subjChannel (u.val / 16)) v) ∧
      getStep v w = some { x with failure := some (x.failure.getD 0x7041) }) ∧
    ((∀ e, e ∈ (core s g).owed → e.2 = 0) → ∀ w, exec (.coreUnresponsive g w) s = .next s) ∧
    ((∃ e, e ∈ (core s g).owed ∧ e.2 ≠ 0) →
      exec (.coreUnresponsive g none) s = .next (Machine.reportFree 0x7041 (subjCore g) (subjTile (g.val / 16)) s) ∧
      ∀ w, exec (.coreUnresponsive g (some w)) s =
        .next (Machine.reportFree 0x7041 (subjCore g) (subjTile (g.val / 16)) (failStep w 0x7041 s))))

/-- The mailbox (R403-R408, R421, R422): busy is 0x7063; a report or the certificates go to host memory where ARG1 is enough
(0x7070); an object that does not verify is 0x7061 or 0x7062, one whose read failed 0x7064; an update that verifies is
written to the slot that does not run; a log clear clears, or is held where the flash is out of 0 to 95 °C (R393); a test is
forced for its subject. The sideband (R378, R409): a
command whose PEC fails, or that Luthier does not run to take, is not acknowledged; the readings; an attestation and its
pages; a limit below that of the class, and a halt that trips every tile, where the command is authentic and its counter
new, else 0x7067. -/
def Obligations.MailboxAndSideband : Prop :=
  (∀ s : State, hostFree s = true →
    (s.lut.mbox.busy = true →
      exec .getAttestation s = .next { s with lut.mboxCmd := 0x01, lut.mbox := s.lut.mbox.refuse 0x7063 } ∧
      exec .getCerts s = .next { s with lut.mboxCmd := 0x02, lut.mbox := s.lut.mbox.refuse 0x7063 } ∧
      exec .svnCommit s = .next { s with lut.mboxCmd := 0x12, lut.mbox := s.lut.mbox.refuse 0x7063 } ∧
      exec .testNow s = .next { s with lut.mboxCmd := 0x30, lut.mbox := s.lut.mbox.refuse 0x7063 }) ∧
    (s.lut.mbox.busy = false →
      ((attestation { s with lut.mboxCmd := 0x01 }).1.length ≤ s.lut.mboxArg1.toNat → ∃ t, exec .getAttestation s = .next t ∧
        t.lut.mbox = s.lut.mbox.begin 0 ∧ t.nvm = s.nvm ∧ t.dram = s.dram ∧ ∃ d,
          (s.port.busMasterEnable = true → s.port.d3hot = false →
            t.port.sent = s.port.sent ++ [.write s.lut.mboxArg0 d false]) ∧
          d.length = 128 + 64 * s.lut.measurements.length + 16608) ∧
      (Config.certificates.length ≤ s.lut.mboxArg1.toNat → ∃ t, exec .getCerts s = .next t ∧
        t.lut.mbox = s.lut.mbox.begin 0 ∧
        (s.port.busMasterEnable = true → s.port.d3hot = false →
          t.port.sent = s.port.sent ++ [.write s.lut.mboxArg0 Config.certificates false])) ∧
      (s.lut.mboxArg1.toNat < Config.certificates.length → exec .getCerts s = .next { s with
        lut.mboxCmd := 0x02, lut.mbox := s.lut.mbox.begin 0x7070 }) ∧
      (exec .svnCommit s = .next { s with
        lut.mboxCmd := 0x12, lut.mbox := s.lut.mbox.begin 0
        nvm.fusesBlown := max s.nvm.fusesBlown (((runningFirmware s).map fun o => o.hdr.svn).getD 0) }) ∧
      (testNowSubject s = none → exec .testNow s = .next { s with
        lut.mboxCmd := 0x30, lut.mbox := s.lut.mbox.begin 0x7063 }) ∧
      (∀ x, testNowSubject s = some x → exec .testNow s = .next (forceWindow x 2 true { s with
        lut.mboxCmd := 0x30, lut.mbox := s.lut.mbox.begin 0 })) ∧
      (∀ (o : FirmwareObject) (b : Bool), s.lut.mbox.taken = none → plainLength o.hdr ≤ s.lut.mboxArg1.toNat →
        (firmwareCode s o ≠ 0 → exec (.fwUpdate .ok o b) s = .next { s with
          lut.mboxCmd := 0x10, lut.mbox := s.lut.mbox.begin (firmwareCode s o) }) ∧
        (firmwareCode s o = 0 → flashOk (updateFlash s) s = true → ∃ t, exec (.fwUpdate .ok o true) s = .next t ∧
          firmwareSlot t.nvm (!s.lut.runningSlotB) = {
            object := some o
            updateSeq := (firmwareSlot s.nvm s.lut.runningSlotB).updateSeq + 1
            tried := false
            bootOk := false } ∧
          firmwareSlot t.nvm s.lut.runningSlotB = firmwareSlot s.nvm s.lut.runningSlotB ∧
          t.lut.mbox = s.lut.mbox.begin 0 ∧ t.lut.pendingFirmware = none ∧ t.dram = s.dram)) ∧
      (∀ (o : ConfigObject), s.lut.mbox.taken = none → plainLength o.hdr ≤ s.lut.mboxArg1.toNat →
        (verifies s 2 o.hdr o.checks = false → ∀ b, exec (.configUpdate .ok o b) s = .next { s with
          lut.mboxCmd := 0x11, lut.mbox := s.lut.mbox.begin 0x7061 }) ∧
        (verifies s 2 o.hdr o.checks = true → flashOk 0 s = true → ∃ t, exec (.configUpdate .ok o true) s = .next t ∧
          t.nvm = { s.nvm with config := some o } ∧ t.start.config = s.start.config ∧
          t.lut.mbox = s.lut.mbox.begin 0)) ∧
      (∀ o : ClearObject, s.lut.mbox.taken = none →
        (clearOk s o = false → exec (.logClear .ok o) s = .next { s with
          lut.mboxCmd := 0x20, lut.mbox := s.lut.mbox.begin 0x7061 }) ∧
        (clearOk s o = true → flashOk 0 s = true → exec (.logClear .ok o) s = .next (clearLog o.upTo { s with
          lut.mboxCmd := 0x20, lut.mbox := s.lut.mbox.begin 0, lut.pendingClear := none
          lut.held := s.lut.held.filter (· != .clear) })) ∧
        (clearOk s o = true → flashOk 0 s = false → .clear ∉ s.lut.held → exec (.logClear .ok o) s =
          .next (Machine.reportFree 0x7060 subjLuthier subjLuthier { s with
            lut.mboxCmd := 0x20, lut.mbox := s.lut.mbox.begin 0, lut.pendingClear := some o.upTo
            lut.held := s.lut.held ++ [.clear] }))))) ∧
  (∀ s : State,
    (∀ c : Instr, ((∃ k, c = .readReading k false) ∨ c = .readThermal false ∨ (∃ p, c = .readReport p false) ∨ c = .attest false ∨
        (∃ w n h, c = .lowerLimit w n h false) ∨ (∃ n h, c = .halt n h false)) →
      exec c s = .next { s with port.answer := .nack }) ∧
    (luthierRuns s = true →
      (∀ k : Fin 256, exec (.readReading k true) s = .next { s with
        port.answer := .data (leBytes 4 ((if (reading s k).broken then 2 ^ 31 else 0) + (reading s k).raw.toNat)) }) ∧
      (∃ t, exec (.readThermal true) s = .next t ∧ t = { s with port.answer := t.port.answer } ∧
        ∃ d : List Byte, t.port.answer = .data d ∧ d.length = 66 ∧ d.drop 64 = leBytes 2 s.lut.modulePower.toNat) ∧
      (∀ p, exec (.readReport p true) s = .next { s with port.answer := .data ((s.lut.report.drop (240 * p)).take 240) }) ∧
      (∃ t, exec (.attest true) s = .next t ∧ t.port.answer = .done ∧
        t.lut.report.length = 128 + 64 * s.lut.measurements.length + 16608 ∧
        t = { s with free := t.free, lut.report := t.lut.report, port.answer := .done }) ∧
      (∀ (w : Half) (n : Nat), s.start.config.isSome = true → s.lut.sidebandCounter < n →
        (w.toNat < classLimit s.start.thermalClass → exec (.lowerLimit w n true true) s = .next { s with
          lut.sidebandCounter := n, lut.powerLimit := w, port.answer := .done }) ∧
        (classLimit s.start.thermalClass ≤ w.toNat → exec (.lowerLimit w n true true) s = .next { s with
          lut.sidebandCounter := n, port.answer := .done })) ∧
      (∀ n, TripsAgree s → s.start.config.isSome = true → s.lut.sidebandCounter < n →
        ∃ t, exec (.halt n true true) s = .next t ∧
        (∀ i, i < 8 → tileTripped t i = true) ∧ t.lut.sidebandCounter = n ∧ t.port.answer = .done) ∧
      (∀ (w : Half) (n : Nat) (h : Bool), s.start.config = none ∨ h = false ∨ n ≤ s.lut.sidebandCounter →
        exec (.lowerLimit w n h true) s =
          .next (answer .nack (Machine.reportFree 0x7067 subjLuthier subjLuthier s)) ∧
        exec (.halt n h true) s = .next (answer .nack (Machine.reportFree 0x7067 subjLuthier subjLuthier s)))))

/-- FEED_ACCEPTED, FEED_LOST and BOTH_FEEDS_LOST (R392, R443, R446-R448): a feed; one lost while the other stands is
recorded with 0x7050, and its return with 0x7051; without feeds everything volatile is at its reset and the flashes stay.
CONVENTIONAL_RESET, LINK_DOWN and RESET_RELEASE (R365, R404, R424, R429-R431, R447): a reset loses what is volatile and
keeps the flashes; a release starts the module where a feed is good and it does not run; a start whose firmware does not
verify stops with 0x1001; a link that goes down is recorded. R359, R429: the start ends, with READY set and BOOT_OK noted in
its slot, when step 9 waits for no link any more. LOAD, LOAD_COMMIT and UNLOAD (R432-R439): refused with 0x1011 while one
runs; a load that fails a row keeps nothing, one that passes brings its allocations; the commit transfers its bytes once
their banks are free, checks them and makes the image, or undoes the load; an unload of a free image number, of a serving
image with requests, or of one whose allocations the host names is refused; one that is taken drops the image, and its jobs
fail with 0x4843 (R327). -/
def Obligations.StartAndLoad : Prop :=
  (∀ (s : State) (limit : Nat),
    (∀ (b : Fin 2) (h : Bool), (feedOf s b).accepted = true → exec (.feedAccepted b h) s = .next s) ∧
    (∀ (b : Fin 2) (h : Bool), (feedOf s b).accepted = false → (feedOf s b).lostOnce = false →
      ∃ t, exec (.feedAccepted b h) s = .next t ∧ feedOf t b = { accepted := true, lostOnce := false } ∧
        feedOf t (1 - b.val) = feedOf s (1 - b.val) ∧ t.supply.sampled = true ∧
        t.supply.service = (if s.supply.sampled then s.supply.service else h) ∧ t = { s with supply := t.supply }) ∧
    (∀ (b : Fin 2) (h : Bool), (feedOf s b).accepted = false → (feedOf s b).lostOnce = true → luthierRuns s = true →
      s.supply.sampled = true → exec (.feedAccepted b h) s = .next (Machine.report 0x7051 subjModule subjLuthier
        (BitVec.ofNat 32 b.val) (setFeed b { accepted := true, lostOnce := false } s))) ∧
    (∀ b : Fin 2, (feedOf s b).accepted = true → (feedOf s (1 - b.val)).accepted = true → luthierRuns s = true →
      exec (.feedLost b limit) s = .next (Machine.report 0x7050 subjModule subjLuthier (BitVec.ofNat 32 b.val)
        (setFeed b { accepted := false, lostOnce := true } s))) ∧
    (∀ b : Fin 2, (feedOf s b).accepted = true → (feedOf s (1 - b.val)).accepted = false →
      exec (.feedLost b limit) s = exec (.bothFeedsLost limit) s) ∧
    (s.supply.feedA.accepted = true ∨ s.supply.feedB.accepted = true → luthierRuns s = false →
      exec (.bothFeedsLost limit) s = .next { volatileLost s with supply := {} }) ∧
    (s.supply.feedA.accepted = true ∨ s.supply.feedB.accepted = true → ∃ t, exec (.bothFeedsLost limit) s = .next t ∧
      t.dram = State.reset.dram ∧ t.tables = State.reset.tables ∧ t.near = State.reset.near ∧ t.start.state = 0 ∧
      t.port.ready = false ∧ t.nvm.slotA = s.nvm.slotA ∧ t.nvm.slotB = s.nvm.slotB ∧ t.nvm.config = s.nvm.config ∧
      t.nvm.serial = s.nvm.serial) ∧
    (s.supply.feedA.accepted = false → s.supply.feedB.accepted = false → exec (.bothFeedsLost limit) s = .next s)) ∧
  (∀ s : State,
    (∀ perst limit, s.supply.service = false → s.start.state ≠ 0 → ∃ t, exec (.conventionalReset perst limit) s = .next t ∧
      t.start.state = 1 ∧ t.start.perstLow = perst ∧ t.port.ready = false ∧ t.supply = s.supply ∧ t.dram = State.reset.dram ∧
      t.tables = State.reset.tables ∧ t.kv = State.reset.kv ∧ t.nvm.slotA = s.nvm.slotA ∧ t.nvm.slotB = s.nvm.slotB ∧
      t.nvm.config = s.nvm.config) ∧
    (∀ perst limit, (s.supply.service = true ∨ s.start.state = 0) →
      exec (.conventionalReset perst limit) s = .next { s with start.perstLow := perst }) ∧
    (s.port.linkUp = true → luthierRuns s = true →
      exec .linkDown s = .next (Machine.reportFree 0x6050 subjPort subjPort { s with port.linkUp := false })) ∧
    (s.port.linkUp = true → luthierRuns s = false → exec .linkDown s = .next { s with port.linkUp := false }) ∧
    (∀ x, mayStart s = false → exec (.resetRelease x) s = .next { s with start.perstLow := false }) ∧
    (∀ x, mayStart s = true → chooseSlot s (x.bootNvm == .high) = none → exec (.resetRelease x) s = .next { s with
      start.perstLow := false, start.state := 3, start.starting := false, start.stopped := true, start.startCode := 0x1001
      start.straps := strapBits x, lut.bootSample0 := x.flash0, lut.bootSample1 := x.flash1 }) ∧
    (∀ x b, mayStart s = true → chooseSlot s (x.bootNvm == .high) = some b → ∃ t, exec (.resetRelease x) s = .next t ∧
      t.us = 0 ∧ (t.start.state = 8 ∧ t.start.starting = true ∨ t.start.state = 10 ∧ t.start.starting = false ∧
        t.port.ready = true) ∧
      t.start.stopped = s.start.stopped ∧ t.start.straps = strapBits x ∧ t.start.perstLow = false ∧
      t.lut.runningSlotB = b.1 ∧ t.lut.powerCycles = s.nvm.powerCycles + 1 ∧ t.protect.startFillDone = true ∧
      (firmwareSlot t.nvm b.1).tried = true)) ∧
  (∀ s : State,
    (s.start.starting = true → s.start.state = 8 → (∀ l, l < 36 → inBringup s l = false) →
      (settleStart s).start.state = 10 ∧ (settleStart s).port.ready = true ∧ (settleStart s).start.starting = false ∧
      (firmwareSlot (settleStart s).nvm s.lut.runningSlotB).bootOk = true ∧ (settleStart s).fabric = s.fabric) ∧
    ((∃ l, l < 36 ∧ inBringup s l = true) → settleStart s = s)) ∧
  (∀ s : State,
    (hostFree s = true →
      (s.load.op.busy = true →
        (s.load.op.taken = none → ∀ e o, exec (.load e o) s = .next { s with load.op := s.load.op.refuse 0x1011 }) ∧
        exec .unload s = .next { s with load.op := s.load.op.refuse 0x1011 }) ∧
      (s.load.op.busy = false →
        (∀ e o, s.load.op.taken = none → ∀ r, loadCheck s e o = some r → r.code ≠ 0x1013 → exec (.load e o) s = .next { s with
          load.op := s.load.op.begin r.code
          load.cause := r.cause, load.detail := r.detail, load.bytes := 0 }) ∧
        (∀ e o, s.load.op.taken = none → loadCheck s e o = none → ∃ t, exec (.load e o) s = .next t ∧
          t.load.op = s.load.op.begin 0 ∧ t.load.phase = .transfer ∧ t.load.object = some o ∧ t.load.images = s.load.images ∧
          t.kv = s.kv ∧ t.tenancy = s.tenancy) ∧
        (tabFind? s.load.images s.load.index.toNat = none → exec .unload s = .next { s with
          load.op := s.load.op.begin 0x1030 }) ∧
        (∀ i, tabFind? s.load.images s.load.index.toNat = some i →
          (i.manifest.serves = true → (∃ e, e ∈ s.serve.requests ∧ e.2.state ≠ .free) →
            exec .unload s = .next { s with load.op := s.load.op.begin 0x1031 }) ∧
          ((i.manifest.serves = false ∨ ∀ e, e ∈ s.serve.requests → e.2.state = .free) → hostNames s i = true →
            exec .unload s = .next { s with load.op := s.load.op.begin 0x1032 }) ∧
          (i.manifest.serves = true → (∀ e, e ∈ s.serve.requests → e.2.state = .free) → hostNames s i = false →
            ∃ t, exec .unload s = .next t ∧ tabFind? t.load.images s.load.index.toNat = none ∧ t.kv.blocks = [] ∧
              t.kv.prefixes = [] ∧
              t.tenancy.adapters = [] ∧ t.load.op = s.load.op.begin 0) ∧
          (i.manifest.serves = false → hostNames s i = false → ∃ t, exec .unload s = .next t ∧
            tabFind? t.load.images s.load.index.toNat = none ∧
            (∀ k, k ≠ s.load.index.toNat → tabFind? t.load.images k = tabFind? s.load.images k) ∧
            (∀ w, w ∈ t.fabric.inbound ↔ w ∈ s.fabric.inbound ∧ w.image ≠ s.load.index.toNat) ∧
            (∀ w, w ∈ t.fabric.exports ↔ w ∈ s.fabric.exports ∧ w.image ≠ s.load.index.toNat) ∧
            t.load.op = s.load.op.begin 0 ∧ t.kv = s.kv ∧
            (∀ j d, Decl.job d ∈ i.decls → (job s j).entry = d.entry → jobDone (job s j) = false →
              (job t j).state = .failed ∧ (job t j).code = 0x4843 ∧ (job t j).us = jobUs s (job s j) ∧
              ((job s j).state = .saving ∨ (job s j).state = .saved ∨ (job s j).state = .restoring → t.saved = none)))))) ∧
    (s.load.object = none → exec .loadCommit s = .next s) ∧
    (∀ o, s.load.object = some o →
      (o.manifest.segments.any (segmentWaits s) = true → exec .loadCommit s = .next (deferCommand .loadCommit s)) ∧
      (o.manifest.segments.any (segmentWaits s) = false →
        (contentCheck (transferAll o s) o.manifest = none → ∃ t, exec .loadCommit s = .next t ∧
          (∃ i, tabFind? t.load.images (freeImage s) = some i ∧ i.version = o.hdr.version ∧ i.allocs = s.load.allocs ∧
            i.decls = imageDecls o.manifest) ∧ t.load.phase = .commit ∧ t.load.object = none ∧
          t.load.bytes = BitVec.ofNat 64 (sumNat (o.manifest.segments.map (·.length))) ∧
          t.load.index = BitVec.ofNat 3 (freeImage s) ∧ t.load.op = s.load.op) ∧
        (∀ r, contentCheck (transferAll o s) o.manifest = some r → ∃ t, exec .loadCommit s = .next t ∧
          t.load.images = s.load.images ∧ t.load.phase = .undo ∧ t.load.object = none ∧
          t.load.op = { s.load.op with outcome := r.code } ∧ t.load.cause = r.cause ∧ t.load.detail = r.detail ∧
          (∀ i, i ∈ s.load.allocs → (tabGet ({} : Alloc) t.tables.allocs i).valid = false)))))

end
end

