-- ==== Sys2Proof/Laws/Tab.lean ====
section
/-! SUPPORT. Laws of the sparse tables: read after write, and the canonical form of memory, which every write keeps. -/
namespace Sys2Proof.Machine

variable {α : Type}

@[simp] theorem tabGet_nil (d : α) (k : Nat) : tabGet d [] k = d := rfl

theorem tabGet_eq_find (d : α) (t : Tab α) (k : Nat) : tabGet d t k = (tabFind? t k).getD d := by
  induction t with
  | nil => rfl
  | cons e t ih => grind [tabGet, tabFind?]

/-- A lookup after a put. -/
theorem tabFind_tabPut (t : Tab α) (i k : Nat) (v : α) :
    tabFind? (tabPut t i v) k = if k = i then some v else tabFind? t k := by
  fun_induction tabPut t i v with
  | case1 => simp [tabFind?, eq_comm]
  | case2 => simp [tabFind?, eq_comm]
  | case3 => simp only [tabFind?]; grind
  | case4 => simp only [tabFind?]; grind

@[simp] theorem tabFind_tabPut_self (t : Tab α) (i : Nat) (v : α) : tabFind? (tabPut t i v) i = some v := by
  simp [tabFind_tabPut]

/-- A read after a put, of any table. -/
theorem tabGet_tabPut (d : α) (t : Tab α) (i k : Nat) (v : α) :
    tabGet d (tabPut t i v) k = if k = i then v else tabGet d t k := by
  simp only [tabGet_eq_find, tabFind_tabPut, apply_ite (Option.getD · d), Option.getD_some]

@[simp] theorem tabGet_tabPut_self (d : α) (t : Tab α) (i : Nat) (v : α) : tabGet d (tabPut t i v) i = v := by
  simp [tabGet_tabPut]

theorem tabGet_tabPut_ne (d : α) (t : Tab α) {i k : Nat} (v : α) (h : k ≠ i) :
    tabGet d (tabPut t i v) k = tabGet d t k := by simp [tabGet_tabPut, h]

/-- A put twice at one key is the later put. -/
theorem tabPut_tabPut (t : Tab α) (i : Nat) (v w : α) : tabPut (tabPut t i v) i w = tabPut t i w := by
  fun_induction tabPut t i v <;> grind [tabPut]

theorem tabFind_filter_key (p : Nat → Bool) (t : Tab α) (k : Nat) :
    tabFind? (t.filter fun e => p e.1) k = if p k then tabFind? t k else none := by
  induction t with
  | nil => simp [tabFind?]
  | cons e t ih => rw [List.filter_cons]; grind [tabFind?]

theorem tabFind_tabDel (t : Tab α) (i k : Nat) : tabFind? (tabDel t i) k = if k = i then none else tabFind? t k := by
  unfold tabDel
  rw [tabFind_filter_key (fun j => j != i)]
  by_cases h : k = i <;> simp [h]

theorem tabGet_tabDel (d : α) (t : Tab α) (i k : Nat) : tabGet d (tabDel t i) k = if k = i then d else tabGet d t k := by
  simp only [tabGet_eq_find, tabFind_tabDel]
  by_cases h : k = i <;> simp [h]

section Canonical
variable [DecidableEq α]

/-- A write in canonical form leaves every other key alone. -/
theorem tabGet_tabSet_ne (d : α) (t : Tab α) {i k : Nat} (v : α) (h : k ≠ i) :
    tabGet d (tabSet d t i v) k = tabGet d t k := by
  fun_induction tabSet d t i v <;> grind [tabGet]

/-- What the canonical form says of a first entry. -/
theorem tabWfFrom_cons (d : α) (lo : Option Nat) (e : Nat × α) (t : Tab α) :
    tabWfFrom d lo (e :: t) = true ↔ (∀ l, lo = some l → l < e.1) ∧ e.2 ≠ d ∧ tabWfFrom d (some e.1) t = true := by
  cases lo <;> simp [tabWfFrom, and_assoc]

/-- A lower bound may be lowered. -/
theorem tabWfFrom_mono (d : α) {a b : Option Nat} {t : Tab α} (h : tabWfFrom d b t = true)
    (hab : ∀ x, a = some x → ∃ y, b = some y ∧ x ≤ y) : tabWfFrom d a t = true := by
  cases t <;> grind [tabWfFrom, tabWfFrom_cons]

/-- Above its bound, a canonical table lists nothing at or below it. -/
theorem tabGet_of_wfFrom (d : α) {l : Nat} {t : Tab α} (h : tabWfFrom d (some l) t = true) {k : Nat} (hk : k ≤ l) :
    tabGet d t k = d := by
  induction t generalizing l <;> grind [tabWfFrom_cons, tabGet]

theorem tabGet_tabSet_from (d : α) {lo : Option Nat} {t : Tab α} (h : tabWfFrom d lo t = true) (i : Nat) (v : α) :
    tabGet d (tabSet d t i v) i = v := by
  fun_induction tabSet d t i v generalizing lo <;> grind [tabWfFrom_cons, tabGet, tabGet_of_wfFrom]

/-- A read after a write of a canonical table. -/
theorem tabGet_tabSet (d : α) {t : Tab α} (h : tabWf d t = true) (i k : Nat) (v : α) :
    tabGet d (tabSet d t i v) k = if k = i then v else tabGet d t k := by
  by_cases hk : k = i
  · subst hk; simp [tabGet_tabSet_from d h]
  · simp [hk, tabGet_tabSet_ne d t v hk]

theorem tabWfFrom_tabSet (d : α) {lo : Option Nat} {t : Tab α} (h : tabWfFrom d lo t = true) (i : Nat) (v : α)
    (hi : ∀ l, lo = some l → l < i) : tabWfFrom d lo (tabSet d t i v) = true := by
  fun_induction tabSet d t i v generalizing lo <;> grind [tabWfFrom, tabWfFrom_cons, tabWfFrom_mono]

/-- A write in canonical form keeps the canonical form. -/
theorem tabWf_tabSet (d : α) {t : Tab α} (h : tabWf d t = true) (i : Nat) (v : α) : tabWf d (tabSet d t i v) = true :=
  tabWfFrom_tabSet d h i v (by intro l hl; cases hl)

theorem tabWfFrom_filter (d : α) (p : Nat × α → Bool) {lo : Option Nat} {t : Tab α} (h : tabWfFrom d lo t = true) :
    tabWfFrom d lo (t.filter p) = true := by
  induction t generalizing lo with
  | nil => rfl
  | cons e t ih => rw [List.filter_cons]; grind [tabWfFrom_cons, tabWfFrom_mono]

/-- Removing entries keeps the canonical form. -/
theorem tabWf_filter (d : α) (p : Nat × α → Bool) {t : Tab α} (h : tabWf d t = true) : tabWf d (t.filter p) = true :=
  tabWfFrom_filter d p h

theorem tabWf_tabDel (d : α) {t : Tab α} (h : tabWf d t = true) (i : Nat) : tabWf d (tabDel t i) = true :=
  tabWf_filter d _ h

theorem tabWf_tabClear (d : α) {t : Tab α} (h : tabWf d t = true) (lo hi : Nat) : tabWf d (tabClear t lo hi) = true :=
  tabWf_filter d _ h

end Canonical

/-! Memory. -/

theorem memRead_memWrite {m : Mem} (h : Memory.wf m = true) (a x : Nat) (b : Byte) :
    memRead (memWrite m a b) x = if x = a then b else memRead m x := tabGet_tabSet 0 h a x b

theorem memRead_memWrite_ne (m : Mem) {a x : Nat} (b : Byte) (h : x ≠ a) : memRead (memWrite m a b) x = memRead m x :=
  tabGet_tabSet_ne 0 m b h

theorem wf_memWrite {m : Mem} (h : Memory.wf m = true) (a : Nat) (b : Byte) : Memory.wf (memWrite m a b) = true :=
  tabWf_tabSet 0 h a b

theorem wf_memWriteL {m : Mem} (h : Memory.wf m = true) (a : Nat) (bs : List Byte) :
    Memory.wf (memWriteL m a bs) = true := by
  induction bs generalizing m a with
  | nil => exact h
  | cons b bs ih => exact ih (wf_memWrite h a b) (a + 1)

theorem wf_tabClear {m : Mem} (h : Memory.wf m = true) (lo hi : Nat) : Memory.wf (tabClear m lo hi) = true :=
  tabWf_tabClear 0 h lo hi

theorem wf_filter {m : Mem} (h : Memory.wf m = true) (p : Nat × Byte → Bool) : Memory.wf (m.filter p) = true :=
  tabWf_filter 0 p h

/-- A write of bytes leaves every byte outside its range alone. -/
theorem memRead_memWriteL_out (m : Mem) (a : Nat) (bs : List Byte) {x : Nat} (h : x < a ∨ a + bs.length ≤ x) :
    memRead (memWriteL m a bs) x = memRead m x := by
  induction bs generalizing m a with
  | nil => rfl
  | cons b bs ih =>
    simp only [List.length_cons] at h
    rw [memWriteL, ih _ _ (by omega), memRead_memWrite_ne _ _ (by omega)]

/-- A write of bytes, read back inside its range. -/
theorem memRead_memWriteL_in {m : Mem} (hm : Memory.wf m = true) (a : Nat) (bs : List Byte) {i : Nat} (h : i < bs.length) :
    memRead (memWriteL m a bs) (a + i) = bs[i] := by
  induction bs generalizing m a i with
  | nil => simp at h
  | cons b bs ih =>
    cases i with
    | zero =>
      rw [memWriteL, memRead_memWriteL_out _ _ _ (by omega)]
      simp [memRead_memWrite hm]
    | succ i =>
      have := ih (wf_memWrite hm a b) (a + 1) (i := i) (by simpa using h)
      simpa [memWriteL, Nat.add_assoc, Nat.add_comm 1 i] using this

@[simp] theorem memReadN_length (m : Mem) (a n : Nat) : (memReadN m a n).length = n := by
  induction n generalizing a with
  | zero => rfl
  | succ n ih => simp [memReadN, ih]

theorem memReadN_get (m : Mem) (a : Nat) {n i : Nat} (h : i < n) : (memReadN m a n)[i]'(by simpa using h) = memRead m (a + i) := by
  induction n generalizing a i with
  | zero => omega
  | succ n ih =>
    cases i with
    | zero => rfl
    | succ i =>
      simp only [memReadN, List.getElem_cons_succ]
      rw [ih (a + 1) (by omega)]
      congr 1; omega

/-- The bytes just written read back. -/
theorem memReadN_memWriteL {m : Mem} (h : Memory.wf m = true) (a : Nat) (bs : List Byte) :
    memReadN (memWriteL m a bs) a bs.length = bs := by
  apply List.ext_getElem (by simp)
  intro i h1 h2
  rw [memReadN_get _ _ h2, memRead_memWriteL_in h a bs h2]

/-- Bytes outside a written range read as before. -/
theorem memReadN_memWriteL_out (m : Mem) (a : Nat) (bs : List Byte) (x n : Nat) (h : x + n ≤ a ∨ a + bs.length ≤ x) :
    memReadN (memWriteL m a bs) x n = memReadN m x n := by
  induction n generalizing x with
  | zero => rfl
  | succ n ih => rw [memReadN, memReadN, ih _ (by omega), memRead_memWriteL_out _ _ _ (by omega)]

/-! Little-endian bytes (R8). -/

@[simp] theorem leBytes_length (n v : Nat) : (leBytes n v).length = n := by
  induction n generalizing v with
  | zero => rfl
  | succ n ih => simp [leBytes, ih]

theorem leValue_leBytes (n v : Nat) : leValue (leBytes n v) = v % 256 ^ n := by
  induction n generalizing v with
  | zero => simp [leBytes, leValue, Nat.mod_one]
  | succ n ih =>
    have h : 256 ^ (n + 1) = 256 * 256 ^ n := by rw [Nat.pow_succ, Nat.mul_comm]
    rw [h, Nat.mod_mul, leBytes, leValue, ih, BitVec.toNat_ofNat]

/-! Sets of numbers. -/

theorem mem_setInsert (l : List Nat) (i x : Nat) : x ∈ setInsert l i ↔ x = i ∨ x ∈ l := by
  induction l with
  | nil => simp [setInsert]
  | cons k t ih =>
    unfold setInsert
    split
    · simp
    · split
      · subst_vars; simp
      · simp [ih]; constructor <;> (rintro (h | h | h) <;> simp [h])

theorem mem_setErase (l : List Nat) (i x : Nat) : x ∈ setErase l i ↔ x ∈ l ∧ x ≠ i := by simp [setErase]

end Sys2Proof.Machine
end

