-- ==== Sys2Proof/Laws/State.lean ====
section
/-! SUPPORT. What each update of one part of the state leaves of the rest, a lemma a field, and what is read back of the part. -/
namespace Sys2Proof.Machine

/-! setChan. -/
@[simp] theorem setChan_us (c : Nat) (v : Channel) (s : State) : (setChan c v s).us = s.us := rfl
@[simp] theorem setChan_lut (c : Nat) (v : Channel) (s : State) : (setChan c v s).lut = s.lut := rfl
@[simp] theorem setChan_log (c : Nat) (v : Channel) (s : State) : (setChan c v s).log = s.log := rfl
@[simp] theorem setChan_events (c : Nat) (v : Channel) (s : State) : (setChan c v s).events = s.events := rfl
@[simp] theorem setChan_nvm (c : Nat) (v : Channel) (s : State) : (setChan c v s).nvm = s.nvm := rfl
@[simp] theorem setChan_opTicks (c : Nat) (v : Channel) (s : State) : (setChan c v s).opTicks = s.opTicks := rfl
@[simp] theorem setChan_start (c : Nat) (v : Channel) (s : State) : (setChan c v s).start = s.start := rfl
@[simp] theorem setChan_supply (c : Nat) (v : Channel) (s : State) : (setChan c v s).supply = s.supply := rfl
@[simp] theorem setChan_spread (c : Nat) (v : Channel) (s : State) : (setChan c v s).spread = s.spread := rfl
@[simp] theorem setChan_protect (c : Nat) (v : Channel) (s : State) : (setChan c v s).protect = s.protect := rfl
@[simp] theorem setChan_free (c : Nat) (v : Channel) (s : State) : (setChan c v s).free = s.free := rfl
@[simp] theorem setChan_scratch (c : Nat) (v : Channel) (s : State) : (setChan c v s).scratch = s.scratch := rfl
@[simp] theorem setChan_tables (c : Nat) (v : Channel) (s : State) : (setChan c v s).tables = s.tables := rfl
@[simp] theorem setChan_order (c : Nat) (v : Channel) (s : State) : (setChan c v s).order = s.order := rfl
@[simp] theorem setChan_port (c : Nat) (v : Channel) (s : State) : (setChan c v s).port = s.port := rfl
@[simp] theorem setChan_load (c : Nat) (v : Channel) (s : State) : (setChan c v s).load = s.load := rfl
@[simp] theorem setChan_heldHost (c : Nat) (v : Channel) (s : State) : (setChan c v s).heldHost = s.heldHost := rfl
@[simp] theorem setChan_kv (c : Nat) (v : Channel) (s : State) : (setChan c v s).kv = s.kv := rfl
@[simp] theorem setChan_serve (c : Nat) (v : Channel) (s : State) : (setChan c v s).serve = s.serve := rfl
@[simp] theorem setChan_tenancy (c : Nat) (v : Channel) (s : State) : (setChan c v s).tenancy = s.tenancy := rfl
@[simp] theorem setChan_saved (c : Nat) (v : Channel) (s : State) : (setChan c v s).saved = s.saved := rfl
@[simp] theorem setChan_near (c : Nat) (v : Channel) (s : State) : (setChan c v s).near = s.near := rfl
@[simp] theorem setChan_dense (c : Nat) (v : Channel) (s : State) : (setChan c v s).dense = s.dense := rfl
@[simp] theorem setChan_fabric (c : Nat) (v : Channel) (s : State) : (setChan c v s).fabric = s.fabric := rfl
@[simp] theorem setChan_deferred (c : Nat) (v : Channel) (s : State) : (setChan c v s).deferred = s.deferred := rfl
@[simp] theorem setChan_pending (c : Nat) (v : Channel) (s : State) : (setChan c v s).pending = s.pending := rfl
theorem chan_setChan (c : Nat) (v : Channel) (s : State) (n' : Nat) :
    chan (setChan c v s) n' = if n' = c then v else chan s n' := tabGet_tabPut ..
@[simp] theorem chan_setChan_same (c : Nat) (v : Channel) (s : State) : chan (setChan c v s) c = v := by simp [chan_setChan]
@[simp] theorem chan_setChan_ne (c : Nat) (v : Channel) (s : State) {n' : Nat} (h : n' ≠ c) : chan (setChan c v s) n' = chan s n' := by
  simp [chan_setChan, h]

/-! onChan. -/
@[simp] theorem onChan_us (c : Nat) (f : Channel → Channel) (s : State) : (onChan c f s).us = s.us := rfl
@[simp] theorem onChan_lut (c : Nat) (f : Channel → Channel) (s : State) : (onChan c f s).lut = s.lut := rfl
@[simp] theorem onChan_log (c : Nat) (f : Channel → Channel) (s : State) : (onChan c f s).log = s.log := rfl
@[simp] theorem onChan_events (c : Nat) (f : Channel → Channel) (s : State) : (onChan c f s).events = s.events := rfl
@[simp] theorem onChan_nvm (c : Nat) (f : Channel → Channel) (s : State) : (onChan c f s).nvm = s.nvm := rfl
@[simp] theorem onChan_opTicks (c : Nat) (f : Channel → Channel) (s : State) : (onChan c f s).opTicks = s.opTicks := rfl
@[simp] theorem onChan_start (c : Nat) (f : Channel → Channel) (s : State) : (onChan c f s).start = s.start := rfl
@[simp] theorem onChan_supply (c : Nat) (f : Channel → Channel) (s : State) : (onChan c f s).supply = s.supply := rfl
@[simp] theorem onChan_spread (c : Nat) (f : Channel → Channel) (s : State) : (onChan c f s).spread = s.spread := rfl
@[simp] theorem onChan_protect (c : Nat) (f : Channel → Channel) (s : State) : (onChan c f s).protect = s.protect := rfl
@[simp] theorem onChan_free (c : Nat) (f : Channel → Channel) (s : State) : (onChan c f s).free = s.free := rfl
@[simp] theorem onChan_scratch (c : Nat) (f : Channel → Channel) (s : State) : (onChan c f s).scratch = s.scratch := rfl
@[simp] theorem onChan_tables (c : Nat) (f : Channel → Channel) (s : State) : (onChan c f s).tables = s.tables := rfl
@[simp] theorem onChan_order (c : Nat) (f : Channel → Channel) (s : State) : (onChan c f s).order = s.order := rfl
@[simp] theorem onChan_port (c : Nat) (f : Channel → Channel) (s : State) : (onChan c f s).port = s.port := rfl
@[simp] theorem onChan_load (c : Nat) (f : Channel → Channel) (s : State) : (onChan c f s).load = s.load := rfl
@[simp] theorem onChan_heldHost (c : Nat) (f : Channel → Channel) (s : State) : (onChan c f s).heldHost = s.heldHost := rfl
@[simp] theorem onChan_kv (c : Nat) (f : Channel → Channel) (s : State) : (onChan c f s).kv = s.kv := rfl
@[simp] theorem onChan_serve (c : Nat) (f : Channel → Channel) (s : State) : (onChan c f s).serve = s.serve := rfl
@[simp] theorem onChan_tenancy (c : Nat) (f : Channel → Channel) (s : State) : (onChan c f s).tenancy = s.tenancy := rfl
@[simp] theorem onChan_saved (c : Nat) (f : Channel → Channel) (s : State) : (onChan c f s).saved = s.saved := rfl
@[simp] theorem onChan_near (c : Nat) (f : Channel → Channel) (s : State) : (onChan c f s).near = s.near := rfl
@[simp] theorem onChan_dense (c : Nat) (f : Channel → Channel) (s : State) : (onChan c f s).dense = s.dense := rfl
@[simp] theorem onChan_fabric (c : Nat) (f : Channel → Channel) (s : State) : (onChan c f s).fabric = s.fabric := rfl
@[simp] theorem onChan_deferred (c : Nat) (f : Channel → Channel) (s : State) : (onChan c f s).deferred = s.deferred := rfl
@[simp] theorem onChan_pending (c : Nat) (f : Channel → Channel) (s : State) : (onChan c f s).pending = s.pending := rfl
theorem chan_onChan (c : Nat) (f : Channel → Channel) (s : State) (n' : Nat) :
    chan (onChan c f s) n' = if n' = c then f (chan s c) else chan s n' := tabGet_tabPut ..
@[simp] theorem chan_onChan_same (c : Nat) (f : Channel → Channel) (s : State) : chan (onChan c f s) c = f (chan s c) := by simp [chan_onChan]
@[simp] theorem chan_onChan_ne (c : Nat) (f : Channel → Channel) (s : State) {n' : Nat} (h : n' ≠ c) : chan (onChan c f s) n' = chan s n' := by
  simp [chan_onChan, h]

/-! setUnit. -/
@[simp] theorem setUnit_us (u : Nat) (v : Unit) (s : State) : (setUnit u v s).us = s.us := rfl
@[simp] theorem setUnit_lut (u : Nat) (v : Unit) (s : State) : (setUnit u v s).lut = s.lut := rfl
@[simp] theorem setUnit_log (u : Nat) (v : Unit) (s : State) : (setUnit u v s).log = s.log := rfl
@[simp] theorem setUnit_events (u : Nat) (v : Unit) (s : State) : (setUnit u v s).events = s.events := rfl
@[simp] theorem setUnit_nvm (u : Nat) (v : Unit) (s : State) : (setUnit u v s).nvm = s.nvm := rfl
@[simp] theorem setUnit_opTicks (u : Nat) (v : Unit) (s : State) : (setUnit u v s).opTicks = s.opTicks := rfl
@[simp] theorem setUnit_start (u : Nat) (v : Unit) (s : State) : (setUnit u v s).start = s.start := rfl
@[simp] theorem setUnit_supply (u : Nat) (v : Unit) (s : State) : (setUnit u v s).supply = s.supply := rfl
@[simp] theorem setUnit_dram (u : Nat) (v : Unit) (s : State) : (setUnit u v s).dram = s.dram := rfl
@[simp] theorem setUnit_spread (u : Nat) (v : Unit) (s : State) : (setUnit u v s).spread = s.spread := rfl
@[simp] theorem setUnit_protect (u : Nat) (v : Unit) (s : State) : (setUnit u v s).protect = s.protect := rfl
@[simp] theorem setUnit_free (u : Nat) (v : Unit) (s : State) : (setUnit u v s).free = s.free := rfl
@[simp] theorem setUnit_scratch (u : Nat) (v : Unit) (s : State) : (setUnit u v s).scratch = s.scratch := rfl
@[simp] theorem setUnit_tables (u : Nat) (v : Unit) (s : State) : (setUnit u v s).tables = s.tables := rfl
@[simp] theorem setUnit_order (u : Nat) (v : Unit) (s : State) : (setUnit u v s).order = s.order := rfl
@[simp] theorem setUnit_port (u : Nat) (v : Unit) (s : State) : (setUnit u v s).port = s.port := rfl
@[simp] theorem setUnit_load (u : Nat) (v : Unit) (s : State) : (setUnit u v s).load = s.load := rfl
@[simp] theorem setUnit_heldHost (u : Nat) (v : Unit) (s : State) : (setUnit u v s).heldHost = s.heldHost := rfl
@[simp] theorem setUnit_kv (u : Nat) (v : Unit) (s : State) : (setUnit u v s).kv = s.kv := rfl
@[simp] theorem setUnit_serve (u : Nat) (v : Unit) (s : State) : (setUnit u v s).serve = s.serve := rfl
@[simp] theorem setUnit_tenancy (u : Nat) (v : Unit) (s : State) : (setUnit u v s).tenancy = s.tenancy := rfl
@[simp] theorem setUnit_saved (u : Nat) (v : Unit) (s : State) : (setUnit u v s).saved = s.saved := rfl
@[simp] theorem setUnit_dense (u : Nat) (v : Unit) (s : State) : (setUnit u v s).dense = s.dense := rfl
@[simp] theorem setUnit_fabric (u : Nat) (v : Unit) (s : State) : (setUnit u v s).fabric = s.fabric := rfl
@[simp] theorem setUnit_deferred (u : Nat) (v : Unit) (s : State) : (setUnit u v s).deferred = s.deferred := rfl
@[simp] theorem setUnit_pending (u : Nat) (v : Unit) (s : State) : (setUnit u v s).pending = s.pending := rfl
theorem unit_setUnit (u : Nat) (v : Unit) (s : State) (n' : Nat) :
    unit (setUnit u v s) n' = if n' = u then v else unit s n' := tabGet_tabPut ..
@[simp] theorem unit_setUnit_same (u : Nat) (v : Unit) (s : State) : unit (setUnit u v s) u = v := by simp [unit_setUnit]
@[simp] theorem unit_setUnit_ne (u : Nat) (v : Unit) (s : State) {n' : Nat} (h : n' ≠ u) : unit (setUnit u v s) n' = unit s n' := by
  simp [unit_setUnit, h]

/-! onUnit. -/
@[simp] theorem onUnit_us (u : Nat) (f : Unit → Unit) (s : State) : (onUnit u f s).us = s.us := rfl
@[simp] theorem onUnit_lut (u : Nat) (f : Unit → Unit) (s : State) : (onUnit u f s).lut = s.lut := rfl
@[simp] theorem onUnit_log (u : Nat) (f : Unit → Unit) (s : State) : (onUnit u f s).log = s.log := rfl
@[simp] theorem onUnit_events (u : Nat) (f : Unit → Unit) (s : State) : (onUnit u f s).events = s.events := rfl
@[simp] theorem onUnit_nvm (u : Nat) (f : Unit → Unit) (s : State) : (onUnit u f s).nvm = s.nvm := rfl
@[simp] theorem onUnit_opTicks (u : Nat) (f : Unit → Unit) (s : State) : (onUnit u f s).opTicks = s.opTicks := rfl
@[simp] theorem onUnit_start (u : Nat) (f : Unit → Unit) (s : State) : (onUnit u f s).start = s.start := rfl
@[simp] theorem onUnit_supply (u : Nat) (f : Unit → Unit) (s : State) : (onUnit u f s).supply = s.supply := rfl
@[simp] theorem onUnit_dram (u : Nat) (f : Unit → Unit) (s : State) : (onUnit u f s).dram = s.dram := rfl
@[simp] theorem onUnit_spread (u : Nat) (f : Unit → Unit) (s : State) : (onUnit u f s).spread = s.spread := rfl
@[simp] theorem onUnit_protect (u : Nat) (f : Unit → Unit) (s : State) : (onUnit u f s).protect = s.protect := rfl
@[simp] theorem onUnit_free (u : Nat) (f : Unit → Unit) (s : State) : (onUnit u f s).free = s.free := rfl
@[simp] theorem onUnit_scratch (u : Nat) (f : Unit → Unit) (s : State) : (onUnit u f s).scratch = s.scratch := rfl
@[simp] theorem onUnit_tables (u : Nat) (f : Unit → Unit) (s : State) : (onUnit u f s).tables = s.tables := rfl
@[simp] theorem onUnit_order (u : Nat) (f : Unit → Unit) (s : State) : (onUnit u f s).order = s.order := rfl
@[simp] theorem onUnit_port (u : Nat) (f : Unit → Unit) (s : State) : (onUnit u f s).port = s.port := rfl
@[simp] theorem onUnit_load (u : Nat) (f : Unit → Unit) (s : State) : (onUnit u f s).load = s.load := rfl
@[simp] theorem onUnit_heldHost (u : Nat) (f : Unit → Unit) (s : State) : (onUnit u f s).heldHost = s.heldHost := rfl
@[simp] theorem onUnit_kv (u : Nat) (f : Unit → Unit) (s : State) : (onUnit u f s).kv = s.kv := rfl
@[simp] theorem onUnit_serve (u : Nat) (f : Unit → Unit) (s : State) : (onUnit u f s).serve = s.serve := rfl
@[simp] theorem onUnit_tenancy (u : Nat) (f : Unit → Unit) (s : State) : (onUnit u f s).tenancy = s.tenancy := rfl
@[simp] theorem onUnit_saved (u : Nat) (f : Unit → Unit) (s : State) : (onUnit u f s).saved = s.saved := rfl
@[simp] theorem onUnit_dense (u : Nat) (f : Unit → Unit) (s : State) : (onUnit u f s).dense = s.dense := rfl
@[simp] theorem onUnit_fabric (u : Nat) (f : Unit → Unit) (s : State) : (onUnit u f s).fabric = s.fabric := rfl
@[simp] theorem onUnit_deferred (u : Nat) (f : Unit → Unit) (s : State) : (onUnit u f s).deferred = s.deferred := rfl
@[simp] theorem onUnit_pending (u : Nat) (f : Unit → Unit) (s : State) : (onUnit u f s).pending = s.pending := rfl
theorem unit_onUnit (u : Nat) (f : Unit → Unit) (s : State) (n' : Nat) :
    unit (onUnit u f s) n' = if n' = u then f (unit s u) else unit s n' := tabGet_tabPut ..
@[simp] theorem unit_onUnit_same (u : Nat) (f : Unit → Unit) (s : State) : unit (onUnit u f s) u = f (unit s u) := by simp [unit_onUnit]
@[simp] theorem unit_onUnit_ne (u : Nat) (f : Unit → Unit) (s : State) {n' : Nat} (h : n' ≠ u) : unit (onUnit u f s) n' = unit s n' := by
  simp [unit_onUnit, h]

/-! onCollector. -/
@[simp] theorem onCollector_us (k : Nat) (f : Collector → Collector) (s : State) : (onCollector k f s).us = s.us := rfl
@[simp] theorem onCollector_lut (k : Nat) (f : Collector → Collector) (s : State) : (onCollector k f s).lut = s.lut := rfl
@[simp] theorem onCollector_log (k : Nat) (f : Collector → Collector) (s : State) : (onCollector k f s).log = s.log := rfl
@[simp] theorem onCollector_events (k : Nat) (f : Collector → Collector) (s : State) : (onCollector k f s).events = s.events := rfl
@[simp] theorem onCollector_nvm (k : Nat) (f : Collector → Collector) (s : State) : (onCollector k f s).nvm = s.nvm := rfl
@[simp] theorem onCollector_opTicks (k : Nat) (f : Collector → Collector) (s : State) : (onCollector k f s).opTicks = s.opTicks := rfl
@[simp] theorem onCollector_start (k : Nat) (f : Collector → Collector) (s : State) : (onCollector k f s).start = s.start := rfl
@[simp] theorem onCollector_supply (k : Nat) (f : Collector → Collector) (s : State) : (onCollector k f s).supply = s.supply := rfl
@[simp] theorem onCollector_dram (k : Nat) (f : Collector → Collector) (s : State) : (onCollector k f s).dram = s.dram := rfl
@[simp] theorem onCollector_spread (k : Nat) (f : Collector → Collector) (s : State) : (onCollector k f s).spread = s.spread := rfl
@[simp] theorem onCollector_protect (k : Nat) (f : Collector → Collector) (s : State) : (onCollector k f s).protect = s.protect := rfl
@[simp] theorem onCollector_free (k : Nat) (f : Collector → Collector) (s : State) : (onCollector k f s).free = s.free := rfl
@[simp] theorem onCollector_scratch (k : Nat) (f : Collector → Collector) (s : State) : (onCollector k f s).scratch = s.scratch := rfl
@[simp] theorem onCollector_tables (k : Nat) (f : Collector → Collector) (s : State) : (onCollector k f s).tables = s.tables := rfl
@[simp] theorem onCollector_order (k : Nat) (f : Collector → Collector) (s : State) : (onCollector k f s).order = s.order := rfl
@[simp] theorem onCollector_port (k : Nat) (f : Collector → Collector) (s : State) : (onCollector k f s).port = s.port := rfl
@[simp] theorem onCollector_load (k : Nat) (f : Collector → Collector) (s : State) : (onCollector k f s).load = s.load := rfl
@[simp] theorem onCollector_heldHost (k : Nat) (f : Collector → Collector) (s : State) : (onCollector k f s).heldHost = s.heldHost := rfl
@[simp] theorem onCollector_kv (k : Nat) (f : Collector → Collector) (s : State) : (onCollector k f s).kv = s.kv := rfl
@[simp] theorem onCollector_serve (k : Nat) (f : Collector → Collector) (s : State) : (onCollector k f s).serve = s.serve := rfl
@[simp] theorem onCollector_tenancy (k : Nat) (f : Collector → Collector) (s : State) : (onCollector k f s).tenancy = s.tenancy := rfl
@[simp] theorem onCollector_saved (k : Nat) (f : Collector → Collector) (s : State) : (onCollector k f s).saved = s.saved := rfl
@[simp] theorem onCollector_dense (k : Nat) (f : Collector → Collector) (s : State) : (onCollector k f s).dense = s.dense := rfl
@[simp] theorem onCollector_fabric (k : Nat) (f : Collector → Collector) (s : State) : (onCollector k f s).fabric = s.fabric := rfl
@[simp] theorem onCollector_deferred (k : Nat) (f : Collector → Collector) (s : State) : (onCollector k f s).deferred = s.deferred := rfl
@[simp] theorem onCollector_pending (k : Nat) (f : Collector → Collector) (s : State) : (onCollector k f s).pending = s.pending := rfl
theorem collector_onCollector (k : Nat) (f : Collector → Collector) (s : State) (n' : Nat) :
    collector (onCollector k f s) n' = if n' = k then f (collector s k) else collector s n' := tabGet_tabPut ..
@[simp] theorem collector_onCollector_same (k : Nat) (f : Collector → Collector) (s : State) : collector (onCollector k f s) k = f (collector s k) := by simp [collector_onCollector]
@[simp] theorem collector_onCollector_ne (k : Nat) (f : Collector → Collector) (s : State) {n' : Nat} (h : n' ≠ k) : collector (onCollector k f s) n' = collector s n' := by
  simp [collector_onCollector, h]

/-! onOwner. -/
@[simp] theorem onOwner_us (t : Nat) (f : Owner → Owner) (s : State) : (onOwner t f s).us = s.us := rfl
@[simp] theorem onOwner_lut (t : Nat) (f : Owner → Owner) (s : State) : (onOwner t f s).lut = s.lut := rfl
@[simp] theorem onOwner_log (t : Nat) (f : Owner → Owner) (s : State) : (onOwner t f s).log = s.log := rfl
@[simp] theorem onOwner_events (t : Nat) (f : Owner → Owner) (s : State) : (onOwner t f s).events = s.events := rfl
@[simp] theorem onOwner_nvm (t : Nat) (f : Owner → Owner) (s : State) : (onOwner t f s).nvm = s.nvm := rfl
@[simp] theorem onOwner_opTicks (t : Nat) (f : Owner → Owner) (s : State) : (onOwner t f s).opTicks = s.opTicks := rfl
@[simp] theorem onOwner_start (t : Nat) (f : Owner → Owner) (s : State) : (onOwner t f s).start = s.start := rfl
@[simp] theorem onOwner_supply (t : Nat) (f : Owner → Owner) (s : State) : (onOwner t f s).supply = s.supply := rfl
@[simp] theorem onOwner_dram (t : Nat) (f : Owner → Owner) (s : State) : (onOwner t f s).dram = s.dram := rfl
@[simp] theorem onOwner_spread (t : Nat) (f : Owner → Owner) (s : State) : (onOwner t f s).spread = s.spread := rfl
@[simp] theorem onOwner_protect (t : Nat) (f : Owner → Owner) (s : State) : (onOwner t f s).protect = s.protect := rfl
@[simp] theorem onOwner_free (t : Nat) (f : Owner → Owner) (s : State) : (onOwner t f s).free = s.free := rfl
@[simp] theorem onOwner_scratch (t : Nat) (f : Owner → Owner) (s : State) : (onOwner t f s).scratch = s.scratch := rfl
@[simp] theorem onOwner_tables (t : Nat) (f : Owner → Owner) (s : State) : (onOwner t f s).tables = s.tables := rfl
@[simp] theorem onOwner_order (t : Nat) (f : Owner → Owner) (s : State) : (onOwner t f s).order = s.order := rfl
@[simp] theorem onOwner_port (t : Nat) (f : Owner → Owner) (s : State) : (onOwner t f s).port = s.port := rfl
@[simp] theorem onOwner_load (t : Nat) (f : Owner → Owner) (s : State) : (onOwner t f s).load = s.load := rfl
@[simp] theorem onOwner_heldHost (t : Nat) (f : Owner → Owner) (s : State) : (onOwner t f s).heldHost = s.heldHost := rfl
@[simp] theorem onOwner_kv (t : Nat) (f : Owner → Owner) (s : State) : (onOwner t f s).kv = s.kv := rfl
@[simp] theorem onOwner_serve (t : Nat) (f : Owner → Owner) (s : State) : (onOwner t f s).serve = s.serve := rfl
@[simp] theorem onOwner_tenancy (t : Nat) (f : Owner → Owner) (s : State) : (onOwner t f s).tenancy = s.tenancy := rfl
@[simp] theorem onOwner_saved (t : Nat) (f : Owner → Owner) (s : State) : (onOwner t f s).saved = s.saved := rfl
@[simp] theorem onOwner_dense (t : Nat) (f : Owner → Owner) (s : State) : (onOwner t f s).dense = s.dense := rfl
@[simp] theorem onOwner_fabric (t : Nat) (f : Owner → Owner) (s : State) : (onOwner t f s).fabric = s.fabric := rfl
@[simp] theorem onOwner_deferred (t : Nat) (f : Owner → Owner) (s : State) : (onOwner t f s).deferred = s.deferred := rfl
@[simp] theorem onOwner_pending (t : Nat) (f : Owner → Owner) (s : State) : (onOwner t f s).pending = s.pending := rfl
theorem owner_onOwner (t : Nat) (f : Owner → Owner) (s : State) (n' : Nat) :
    owner (onOwner t f s) n' = if n' = t then f (owner s t) else owner s n' := tabGet_tabPut ..
@[simp] theorem owner_onOwner_same (t : Nat) (f : Owner → Owner) (s : State) : owner (onOwner t f s) t = f (owner s t) := by simp [owner_onOwner]
@[simp] theorem owner_onOwner_ne (t : Nat) (f : Owner → Owner) (s : State) {n' : Nat} (h : n' ≠ t) : owner (onOwner t f s) n' = owner s n' := by
  simp [owner_onOwner, h]

/-! setCore. -/
@[simp] theorem setCore_us (g : Nat) (v : Core) (s : State) : (setCore g v s).us = s.us := rfl
@[simp] theorem setCore_lut (g : Nat) (v : Core) (s : State) : (setCore g v s).lut = s.lut := rfl
@[simp] theorem setCore_log (g : Nat) (v : Core) (s : State) : (setCore g v s).log = s.log := rfl
@[simp] theorem setCore_events (g : Nat) (v : Core) (s : State) : (setCore g v s).events = s.events := rfl
@[simp] theorem setCore_nvm (g : Nat) (v : Core) (s : State) : (setCore g v s).nvm = s.nvm := rfl
@[simp] theorem setCore_opTicks (g : Nat) (v : Core) (s : State) : (setCore g v s).opTicks = s.opTicks := rfl
@[simp] theorem setCore_start (g : Nat) (v : Core) (s : State) : (setCore g v s).start = s.start := rfl
@[simp] theorem setCore_supply (g : Nat) (v : Core) (s : State) : (setCore g v s).supply = s.supply := rfl
@[simp] theorem setCore_dram (g : Nat) (v : Core) (s : State) : (setCore g v s).dram = s.dram := rfl
@[simp] theorem setCore_spread (g : Nat) (v : Core) (s : State) : (setCore g v s).spread = s.spread := rfl
@[simp] theorem setCore_protect (g : Nat) (v : Core) (s : State) : (setCore g v s).protect = s.protect := rfl
@[simp] theorem setCore_free (g : Nat) (v : Core) (s : State) : (setCore g v s).free = s.free := rfl
@[simp] theorem setCore_scratch (g : Nat) (v : Core) (s : State) : (setCore g v s).scratch = s.scratch := rfl
@[simp] theorem setCore_tables (g : Nat) (v : Core) (s : State) : (setCore g v s).tables = s.tables := rfl
@[simp] theorem setCore_order (g : Nat) (v : Core) (s : State) : (setCore g v s).order = s.order := rfl
@[simp] theorem setCore_port (g : Nat) (v : Core) (s : State) : (setCore g v s).port = s.port := rfl
@[simp] theorem setCore_load (g : Nat) (v : Core) (s : State) : (setCore g v s).load = s.load := rfl
@[simp] theorem setCore_heldHost (g : Nat) (v : Core) (s : State) : (setCore g v s).heldHost = s.heldHost := rfl
@[simp] theorem setCore_kv (g : Nat) (v : Core) (s : State) : (setCore g v s).kv = s.kv := rfl
@[simp] theorem setCore_serve (g : Nat) (v : Core) (s : State) : (setCore g v s).serve = s.serve := rfl
@[simp] theorem setCore_tenancy (g : Nat) (v : Core) (s : State) : (setCore g v s).tenancy = s.tenancy := rfl
@[simp] theorem setCore_saved (g : Nat) (v : Core) (s : State) : (setCore g v s).saved = s.saved := rfl
@[simp] theorem setCore_near (g : Nat) (v : Core) (s : State) : (setCore g v s).near = s.near := rfl
@[simp] theorem setCore_fabric (g : Nat) (v : Core) (s : State) : (setCore g v s).fabric = s.fabric := rfl
@[simp] theorem setCore_deferred (g : Nat) (v : Core) (s : State) : (setCore g v s).deferred = s.deferred := rfl
@[simp] theorem setCore_pending (g : Nat) (v : Core) (s : State) : (setCore g v s).pending = s.pending := rfl
theorem core_setCore (g : Nat) (v : Core) (s : State) (n' : Nat) :
    core (setCore g v s) n' = if n' = g then v else core s n' := tabGet_tabPut ..
@[simp] theorem core_setCore_same (g : Nat) (v : Core) (s : State) : core (setCore g v s) g = v := by simp [core_setCore]
@[simp] theorem core_setCore_ne (g : Nat) (v : Core) (s : State) {n' : Nat} (h : n' ≠ g) : core (setCore g v s) n' = core s n' := by
  simp [core_setCore, h]

/-! onCore. -/
@[simp] theorem onCore_us (g : Nat) (f : Core → Core) (s : State) : (onCore g f s).us = s.us := rfl
@[simp] theorem onCore_lut (g : Nat) (f : Core → Core) (s : State) : (onCore g f s).lut = s.lut := rfl
@[simp] theorem onCore_log (g : Nat) (f : Core → Core) (s : State) : (onCore g f s).log = s.log := rfl
@[simp] theorem onCore_events (g : Nat) (f : Core → Core) (s : State) : (onCore g f s).events = s.events := rfl
@[simp] theorem onCore_nvm (g : Nat) (f : Core → Core) (s : State) : (onCore g f s).nvm = s.nvm := rfl
@[simp] theorem onCore_opTicks (g : Nat) (f : Core → Core) (s : State) : (onCore g f s).opTicks = s.opTicks := rfl
@[simp] theorem onCore_start (g : Nat) (f : Core → Core) (s : State) : (onCore g f s).start = s.start := rfl
@[simp] theorem onCore_supply (g : Nat) (f : Core → Core) (s : State) : (onCore g f s).supply = s.supply := rfl
@[simp] theorem onCore_dram (g : Nat) (f : Core → Core) (s : State) : (onCore g f s).dram = s.dram := rfl
@[simp] theorem onCore_spread (g : Nat) (f : Core → Core) (s : State) : (onCore g f s).spread = s.spread := rfl
@[simp] theorem onCore_protect (g : Nat) (f : Core → Core) (s : State) : (onCore g f s).protect = s.protect := rfl
@[simp] theorem onCore_free (g : Nat) (f : Core → Core) (s : State) : (onCore g f s).free = s.free := rfl
@[simp] theorem onCore_scratch (g : Nat) (f : Core → Core) (s : State) : (onCore g f s).scratch = s.scratch := rfl
@[simp] theorem onCore_tables (g : Nat) (f : Core → Core) (s : State) : (onCore g f s).tables = s.tables := rfl
@[simp] theorem onCore_order (g : Nat) (f : Core → Core) (s : State) : (onCore g f s).order = s.order := rfl
@[simp] theorem onCore_port (g : Nat) (f : Core → Core) (s : State) : (onCore g f s).port = s.port := rfl
@[simp] theorem onCore_load (g : Nat) (f : Core → Core) (s : State) : (onCore g f s).load = s.load := rfl
@[simp] theorem onCore_heldHost (g : Nat) (f : Core → Core) (s : State) : (onCore g f s).heldHost = s.heldHost := rfl
@[simp] theorem onCore_kv (g : Nat) (f : Core → Core) (s : State) : (onCore g f s).kv = s.kv := rfl
@[simp] theorem onCore_serve (g : Nat) (f : Core → Core) (s : State) : (onCore g f s).serve = s.serve := rfl
@[simp] theorem onCore_tenancy (g : Nat) (f : Core → Core) (s : State) : (onCore g f s).tenancy = s.tenancy := rfl
@[simp] theorem onCore_saved (g : Nat) (f : Core → Core) (s : State) : (onCore g f s).saved = s.saved := rfl
@[simp] theorem onCore_near (g : Nat) (f : Core → Core) (s : State) : (onCore g f s).near = s.near := rfl
@[simp] theorem onCore_fabric (g : Nat) (f : Core → Core) (s : State) : (onCore g f s).fabric = s.fabric := rfl
@[simp] theorem onCore_deferred (g : Nat) (f : Core → Core) (s : State) : (onCore g f s).deferred = s.deferred := rfl
@[simp] theorem onCore_pending (g : Nat) (f : Core → Core) (s : State) : (onCore g f s).pending = s.pending := rfl
theorem core_onCore (g : Nat) (f : Core → Core) (s : State) (n' : Nat) :
    core (onCore g f s) n' = if n' = g then f (core s g) else core s n' := tabGet_tabPut ..
@[simp] theorem core_onCore_same (g : Nat) (f : Core → Core) (s : State) : core (onCore g f s) g = f (core s g) := by simp [core_onCore]
@[simp] theorem core_onCore_ne (g : Nat) (f : Core → Core) (s : State) {n' : Nat} (h : n' ≠ g) : core (onCore g f s) n' = core s n' := by
  simp [core_onCore, h]

/-! onLink. -/
@[simp] theorem onLink_us (l : Nat) (f : Link → Link) (s : State) : (onLink l f s).us = s.us := rfl
@[simp] theorem onLink_lut (l : Nat) (f : Link → Link) (s : State) : (onLink l f s).lut = s.lut := rfl
@[simp] theorem onLink_log (l : Nat) (f : Link → Link) (s : State) : (onLink l f s).log = s.log := rfl
@[simp] theorem onLink_events (l : Nat) (f : Link → Link) (s : State) : (onLink l f s).events = s.events := rfl
@[simp] theorem onLink_nvm (l : Nat) (f : Link → Link) (s : State) : (onLink l f s).nvm = s.nvm := rfl
@[simp] theorem onLink_opTicks (l : Nat) (f : Link → Link) (s : State) : (onLink l f s).opTicks = s.opTicks := rfl
@[simp] theorem onLink_start (l : Nat) (f : Link → Link) (s : State) : (onLink l f s).start = s.start := rfl
@[simp] theorem onLink_supply (l : Nat) (f : Link → Link) (s : State) : (onLink l f s).supply = s.supply := rfl
@[simp] theorem onLink_dram (l : Nat) (f : Link → Link) (s : State) : (onLink l f s).dram = s.dram := rfl
@[simp] theorem onLink_spread (l : Nat) (f : Link → Link) (s : State) : (onLink l f s).spread = s.spread := rfl
@[simp] theorem onLink_protect (l : Nat) (f : Link → Link) (s : State) : (onLink l f s).protect = s.protect := rfl
@[simp] theorem onLink_free (l : Nat) (f : Link → Link) (s : State) : (onLink l f s).free = s.free := rfl
@[simp] theorem onLink_scratch (l : Nat) (f : Link → Link) (s : State) : (onLink l f s).scratch = s.scratch := rfl
@[simp] theorem onLink_tables (l : Nat) (f : Link → Link) (s : State) : (onLink l f s).tables = s.tables := rfl
@[simp] theorem onLink_order (l : Nat) (f : Link → Link) (s : State) : (onLink l f s).order = s.order := rfl
@[simp] theorem onLink_port (l : Nat) (f : Link → Link) (s : State) : (onLink l f s).port = s.port := rfl
@[simp] theorem onLink_load (l : Nat) (f : Link → Link) (s : State) : (onLink l f s).load = s.load := rfl
@[simp] theorem onLink_heldHost (l : Nat) (f : Link → Link) (s : State) : (onLink l f s).heldHost = s.heldHost := rfl
@[simp] theorem onLink_kv (l : Nat) (f : Link → Link) (s : State) : (onLink l f s).kv = s.kv := rfl
@[simp] theorem onLink_serve (l : Nat) (f : Link → Link) (s : State) : (onLink l f s).serve = s.serve := rfl
@[simp] theorem onLink_tenancy (l : Nat) (f : Link → Link) (s : State) : (onLink l f s).tenancy = s.tenancy := rfl
@[simp] theorem onLink_saved (l : Nat) (f : Link → Link) (s : State) : (onLink l f s).saved = s.saved := rfl
@[simp] theorem onLink_near (l : Nat) (f : Link → Link) (s : State) : (onLink l f s).near = s.near := rfl
@[simp] theorem onLink_dense (l : Nat) (f : Link → Link) (s : State) : (onLink l f s).dense = s.dense := rfl
@[simp] theorem onLink_deferred (l : Nat) (f : Link → Link) (s : State) : (onLink l f s).deferred = s.deferred := rfl
@[simp] theorem onLink_pending (l : Nat) (f : Link → Link) (s : State) : (onLink l f s).pending = s.pending := rfl
theorem link_onLink (l : Nat) (f : Link → Link) (s : State) (n' : Nat) :
    link (onLink l f s) n' = if n' = l then f (link s l) else link s n' := tabGet_tabPut ..
@[simp] theorem link_onLink_same (l : Nat) (f : Link → Link) (s : State) : link (onLink l f s) l = f (link s l) := by simp [link_onLink]
@[simp] theorem link_onLink_ne (l : Nat) (f : Link → Link) (s : State) {n' : Nat} (h : n' ≠ l) : link (onLink l f s) n' = link s n' := by
  simp [link_onLink, h]

/-! setSeq. -/
@[simp] theorem setSeq_us (q : Nat) (e : Sequence) (s : State) : (setSeq q e s).us = s.us := rfl
@[simp] theorem setSeq_lut (q : Nat) (e : Sequence) (s : State) : (setSeq q e s).lut = s.lut := rfl
@[simp] theorem setSeq_log (q : Nat) (e : Sequence) (s : State) : (setSeq q e s).log = s.log := rfl
@[simp] theorem setSeq_events (q : Nat) (e : Sequence) (s : State) : (setSeq q e s).events = s.events := rfl
@[simp] theorem setSeq_nvm (q : Nat) (e : Sequence) (s : State) : (setSeq q e s).nvm = s.nvm := rfl
@[simp] theorem setSeq_opTicks (q : Nat) (e : Sequence) (s : State) : (setSeq q e s).opTicks = s.opTicks := rfl
@[simp] theorem setSeq_start (q : Nat) (e : Sequence) (s : State) : (setSeq q e s).start = s.start := rfl
@[simp] theorem setSeq_supply (q : Nat) (e : Sequence) (s : State) : (setSeq q e s).supply = s.supply := rfl
@[simp] theorem setSeq_dram (q : Nat) (e : Sequence) (s : State) : (setSeq q e s).dram = s.dram := rfl
@[simp] theorem setSeq_spread (q : Nat) (e : Sequence) (s : State) : (setSeq q e s).spread = s.spread := rfl
@[simp] theorem setSeq_protect (q : Nat) (e : Sequence) (s : State) : (setSeq q e s).protect = s.protect := rfl
@[simp] theorem setSeq_free (q : Nat) (e : Sequence) (s : State) : (setSeq q e s).free = s.free := rfl
@[simp] theorem setSeq_scratch (q : Nat) (e : Sequence) (s : State) : (setSeq q e s).scratch = s.scratch := rfl
@[simp] theorem setSeq_tables (q : Nat) (e : Sequence) (s : State) : (setSeq q e s).tables = s.tables := rfl
@[simp] theorem setSeq_order (q : Nat) (e : Sequence) (s : State) : (setSeq q e s).order = s.order := rfl
@[simp] theorem setSeq_port (q : Nat) (e : Sequence) (s : State) : (setSeq q e s).port = s.port := rfl
@[simp] theorem setSeq_load (q : Nat) (e : Sequence) (s : State) : (setSeq q e s).load = s.load := rfl
@[simp] theorem setSeq_heldHost (q : Nat) (e : Sequence) (s : State) : (setSeq q e s).heldHost = s.heldHost := rfl
@[simp] theorem setSeq_serve (q : Nat) (e : Sequence) (s : State) : (setSeq q e s).serve = s.serve := rfl
@[simp] theorem setSeq_tenancy (q : Nat) (e : Sequence) (s : State) : (setSeq q e s).tenancy = s.tenancy := rfl
@[simp] theorem setSeq_saved (q : Nat) (e : Sequence) (s : State) : (setSeq q e s).saved = s.saved := rfl
@[simp] theorem setSeq_near (q : Nat) (e : Sequence) (s : State) : (setSeq q e s).near = s.near := rfl
@[simp] theorem setSeq_dense (q : Nat) (e : Sequence) (s : State) : (setSeq q e s).dense = s.dense := rfl
@[simp] theorem setSeq_fabric (q : Nat) (e : Sequence) (s : State) : (setSeq q e s).fabric = s.fabric := rfl
@[simp] theorem setSeq_deferred (q : Nat) (e : Sequence) (s : State) : (setSeq q e s).deferred = s.deferred := rfl
@[simp] theorem setSeq_pending (q : Nat) (e : Sequence) (s : State) : (setSeq q e s).pending = s.pending := rfl
theorem seqEntry_setSeq (q : Nat) (e : Sequence) (s : State) (n' : Nat) :
    seqEntry (setSeq q e s) n' = if n' = q then e else seqEntry s n' := tabGet_tabPut ..
@[simp] theorem seqEntry_setSeq_same (q : Nat) (e : Sequence) (s : State) : seqEntry (setSeq q e s) q = e := by simp [seqEntry_setSeq]
@[simp] theorem seqEntry_setSeq_ne (q : Nat) (e : Sequence) (s : State) {n' : Nat} (h : n' ≠ q) : seqEntry (setSeq q e s) n' = seqEntry s n' := by
  simp [seqEntry_setSeq, h]

/-! onSeq. -/
@[simp] theorem onSeq_us (q : Nat) (f : Sequence → Sequence) (s : State) : (onSeq q f s).us = s.us := rfl
@[simp] theorem onSeq_lut (q : Nat) (f : Sequence → Sequence) (s : State) : (onSeq q f s).lut = s.lut := rfl
@[simp] theorem onSeq_log (q : Nat) (f : Sequence → Sequence) (s : State) : (onSeq q f s).log = s.log := rfl
@[simp] theorem onSeq_events (q : Nat) (f : Sequence → Sequence) (s : State) : (onSeq q f s).events = s.events := rfl
@[simp] theorem onSeq_nvm (q : Nat) (f : Sequence → Sequence) (s : State) : (onSeq q f s).nvm = s.nvm := rfl
@[simp] theorem onSeq_opTicks (q : Nat) (f : Sequence → Sequence) (s : State) : (onSeq q f s).opTicks = s.opTicks := rfl
@[simp] theorem onSeq_start (q : Nat) (f : Sequence → Sequence) (s : State) : (onSeq q f s).start = s.start := rfl
@[simp] theorem onSeq_supply (q : Nat) (f : Sequence → Sequence) (s : State) : (onSeq q f s).supply = s.supply := rfl
@[simp] theorem onSeq_dram (q : Nat) (f : Sequence → Sequence) (s : State) : (onSeq q f s).dram = s.dram := rfl
@[simp] theorem onSeq_spread (q : Nat) (f : Sequence → Sequence) (s : State) : (onSeq q f s).spread = s.spread := rfl
@[simp] theorem onSeq_protect (q : Nat) (f : Sequence → Sequence) (s : State) : (onSeq q f s).protect = s.protect := rfl
@[simp] theorem onSeq_free (q : Nat) (f : Sequence → Sequence) (s : State) : (onSeq q f s).free = s.free := rfl
@[simp] theorem onSeq_scratch (q : Nat) (f : Sequence → Sequence) (s : State) : (onSeq q f s).scratch = s.scratch := rfl
@[simp] theorem onSeq_tables (q : Nat) (f : Sequence → Sequence) (s : State) : (onSeq q f s).tables = s.tables := rfl
@[simp] theorem onSeq_order (q : Nat) (f : Sequence → Sequence) (s : State) : (onSeq q f s).order = s.order := rfl
@[simp] theorem onSeq_port (q : Nat) (f : Sequence → Sequence) (s : State) : (onSeq q f s).port = s.port := rfl
@[simp] theorem onSeq_load (q : Nat) (f : Sequence → Sequence) (s : State) : (onSeq q f s).load = s.load := rfl
@[simp] theorem onSeq_heldHost (q : Nat) (f : Sequence → Sequence) (s : State) : (onSeq q f s).heldHost = s.heldHost := rfl
@[simp] theorem onSeq_serve (q : Nat) (f : Sequence → Sequence) (s : State) : (onSeq q f s).serve = s.serve := rfl
@[simp] theorem onSeq_tenancy (q : Nat) (f : Sequence → Sequence) (s : State) : (onSeq q f s).tenancy = s.tenancy := rfl
@[simp] theorem onSeq_saved (q : Nat) (f : Sequence → Sequence) (s : State) : (onSeq q f s).saved = s.saved := rfl
@[simp] theorem onSeq_near (q : Nat) (f : Sequence → Sequence) (s : State) : (onSeq q f s).near = s.near := rfl
@[simp] theorem onSeq_dense (q : Nat) (f : Sequence → Sequence) (s : State) : (onSeq q f s).dense = s.dense := rfl
@[simp] theorem onSeq_fabric (q : Nat) (f : Sequence → Sequence) (s : State) : (onSeq q f s).fabric = s.fabric := rfl
@[simp] theorem onSeq_deferred (q : Nat) (f : Sequence → Sequence) (s : State) : (onSeq q f s).deferred = s.deferred := rfl
@[simp] theorem onSeq_pending (q : Nat) (f : Sequence → Sequence) (s : State) : (onSeq q f s).pending = s.pending := rfl
theorem seqEntry_onSeq (q : Nat) (f : Sequence → Sequence) (s : State) (n' : Nat) :
    seqEntry (onSeq q f s) n' = if n' = q then f (seqEntry s q) else seqEntry s n' := tabGet_tabPut ..
@[simp] theorem seqEntry_onSeq_same (q : Nat) (f : Sequence → Sequence) (s : State) : seqEntry (onSeq q f s) q = f (seqEntry s q) := by simp [seqEntry_onSeq]
@[simp] theorem seqEntry_onSeq_ne (q : Nat) (f : Sequence → Sequence) (s : State) {n' : Nat} (h : n' ≠ q) : seqEntry (onSeq q f s) n' = seqEntry s n' := by
  simp [seqEntry_onSeq, h]

/-! setBlock. -/
@[simp] theorem setBlock_us (n : Nat) (b : Block) (s : State) : (setBlock n b s).us = s.us := rfl
@[simp] theorem setBlock_lut (n : Nat) (b : Block) (s : State) : (setBlock n b s).lut = s.lut := rfl
@[simp] theorem setBlock_log (n : Nat) (b : Block) (s : State) : (setBlock n b s).log = s.log := rfl
@[simp] theorem setBlock_events (n : Nat) (b : Block) (s : State) : (setBlock n b s).events = s.events := rfl
@[simp] theorem setBlock_nvm (n : Nat) (b : Block) (s : State) : (setBlock n b s).nvm = s.nvm := rfl
@[simp] theorem setBlock_opTicks (n : Nat) (b : Block) (s : State) : (setBlock n b s).opTicks = s.opTicks := rfl
@[simp] theorem setBlock_start (n : Nat) (b : Block) (s : State) : (setBlock n b s).start = s.start := rfl
@[simp] theorem setBlock_supply (n : Nat) (b : Block) (s : State) : (setBlock n b s).supply = s.supply := rfl
@[simp] theorem setBlock_dram (n : Nat) (b : Block) (s : State) : (setBlock n b s).dram = s.dram := rfl
@[simp] theorem setBlock_spread (n : Nat) (b : Block) (s : State) : (setBlock n b s).spread = s.spread := rfl
@[simp] theorem setBlock_protect (n : Nat) (b : Block) (s : State) : (setBlock n b s).protect = s.protect := rfl
@[simp] theorem setBlock_free (n : Nat) (b : Block) (s : State) : (setBlock n b s).free = s.free := rfl
@[simp] theorem setBlock_scratch (n : Nat) (b : Block) (s : State) : (setBlock n b s).scratch = s.scratch := rfl
@[simp] theorem setBlock_tables (n : Nat) (b : Block) (s : State) : (setBlock n b s).tables = s.tables := rfl
@[simp] theorem setBlock_order (n : Nat) (b : Block) (s : State) : (setBlock n b s).order = s.order := rfl
@[simp] theorem setBlock_port (n : Nat) (b : Block) (s : State) : (setBlock n b s).port = s.port := rfl
@[simp] theorem setBlock_load (n : Nat) (b : Block) (s : State) : (setBlock n b s).load = s.load := rfl
@[simp] theorem setBlock_heldHost (n : Nat) (b : Block) (s : State) : (setBlock n b s).heldHost = s.heldHost := rfl
@[simp] theorem setBlock_serve (n : Nat) (b : Block) (s : State) : (setBlock n b s).serve = s.serve := rfl
@[simp] theorem setBlock_tenancy (n : Nat) (b : Block) (s : State) : (setBlock n b s).tenancy = s.tenancy := rfl
@[simp] theorem setBlock_saved (n : Nat) (b : Block) (s : State) : (setBlock n b s).saved = s.saved := rfl
@[simp] theorem setBlock_near (n : Nat) (b : Block) (s : State) : (setBlock n b s).near = s.near := rfl
@[simp] theorem setBlock_dense (n : Nat) (b : Block) (s : State) : (setBlock n b s).dense = s.dense := rfl
@[simp] theorem setBlock_fabric (n : Nat) (b : Block) (s : State) : (setBlock n b s).fabric = s.fabric := rfl
@[simp] theorem setBlock_deferred (n : Nat) (b : Block) (s : State) : (setBlock n b s).deferred = s.deferred := rfl
@[simp] theorem setBlock_pending (n : Nat) (b : Block) (s : State) : (setBlock n b s).pending = s.pending := rfl

/-! onRequest. -/
@[simp] theorem onRequest_us (i : Nat) (f : Request → Request) (s : State) : (onRequest i f s).us = s.us := rfl
@[simp] theorem onRequest_lut (i : Nat) (f : Request → Request) (s : State) : (onRequest i f s).lut = s.lut := rfl
@[simp] theorem onRequest_log (i : Nat) (f : Request → Request) (s : State) : (onRequest i f s).log = s.log := rfl
@[simp] theorem onRequest_events (i : Nat) (f : Request → Request) (s : State) : (onRequest i f s).events = s.events := rfl
@[simp] theorem onRequest_nvm (i : Nat) (f : Request → Request) (s : State) : (onRequest i f s).nvm = s.nvm := rfl
@[simp] theorem onRequest_opTicks (i : Nat) (f : Request → Request) (s : State) : (onRequest i f s).opTicks = s.opTicks := rfl
@[simp] theorem onRequest_start (i : Nat) (f : Request → Request) (s : State) : (onRequest i f s).start = s.start := rfl
@[simp] theorem onRequest_supply (i : Nat) (f : Request → Request) (s : State) : (onRequest i f s).supply = s.supply := rfl
@[simp] theorem onRequest_dram (i : Nat) (f : Request → Request) (s : State) : (onRequest i f s).dram = s.dram := rfl
@[simp] theorem onRequest_spread (i : Nat) (f : Request → Request) (s : State) : (onRequest i f s).spread = s.spread := rfl
@[simp] theorem onRequest_protect (i : Nat) (f : Request → Request) (s : State) : (onRequest i f s).protect = s.protect := rfl
@[simp] theorem onRequest_free (i : Nat) (f : Request → Request) (s : State) : (onRequest i f s).free = s.free := rfl
@[simp] theorem onRequest_scratch (i : Nat) (f : Request → Request) (s : State) : (onRequest i f s).scratch = s.scratch := rfl
@[simp] theorem onRequest_tables (i : Nat) (f : Request → Request) (s : State) : (onRequest i f s).tables = s.tables := rfl
@[simp] theorem onRequest_order (i : Nat) (f : Request → Request) (s : State) : (onRequest i f s).order = s.order := rfl
@[simp] theorem onRequest_port (i : Nat) (f : Request → Request) (s : State) : (onRequest i f s).port = s.port := rfl
@[simp] theorem onRequest_load (i : Nat) (f : Request → Request) (s : State) : (onRequest i f s).load = s.load := rfl
@[simp] theorem onRequest_heldHost (i : Nat) (f : Request → Request) (s : State) : (onRequest i f s).heldHost = s.heldHost := rfl
@[simp] theorem onRequest_kv (i : Nat) (f : Request → Request) (s : State) : (onRequest i f s).kv = s.kv := rfl
@[simp] theorem onRequest_tenancy (i : Nat) (f : Request → Request) (s : State) : (onRequest i f s).tenancy = s.tenancy := rfl
@[simp] theorem onRequest_saved (i : Nat) (f : Request → Request) (s : State) : (onRequest i f s).saved = s.saved := rfl
@[simp] theorem onRequest_near (i : Nat) (f : Request → Request) (s : State) : (onRequest i f s).near = s.near := rfl
@[simp] theorem onRequest_dense (i : Nat) (f : Request → Request) (s : State) : (onRequest i f s).dense = s.dense := rfl
@[simp] theorem onRequest_fabric (i : Nat) (f : Request → Request) (s : State) : (onRequest i f s).fabric = s.fabric := rfl
@[simp] theorem onRequest_deferred (i : Nat) (f : Request → Request) (s : State) : (onRequest i f s).deferred = s.deferred := rfl
@[simp] theorem onRequest_pending (i : Nat) (f : Request → Request) (s : State) : (onRequest i f s).pending = s.pending := rfl
theorem request_onRequest (i : Nat) (f : Request → Request) (s : State) (n' : Nat) :
    request (onRequest i f s) n' = if n' = i then f (request s i) else request s n' := tabGet_tabPut ..
@[simp] theorem request_onRequest_same (i : Nat) (f : Request → Request) (s : State) : request (onRequest i f s) i = f (request s i) := by simp [request_onRequest]
@[simp] theorem request_onRequest_ne (i : Nat) (f : Request → Request) (s : State) {n' : Nat} (h : n' ≠ i) : request (onRequest i f s) n' = request s n' := by
  simp [request_onRequest, h]

/-! onTenant. -/
@[simp] theorem onTenant_us (t : Nat) (f : Tenant → Tenant) (s : State) : (onTenant t f s).us = s.us := rfl
@[simp] theorem onTenant_lut (t : Nat) (f : Tenant → Tenant) (s : State) : (onTenant t f s).lut = s.lut := rfl
@[simp] theorem onTenant_log (t : Nat) (f : Tenant → Tenant) (s : State) : (onTenant t f s).log = s.log := rfl
@[simp] theorem onTenant_events (t : Nat) (f : Tenant → Tenant) (s : State) : (onTenant t f s).events = s.events := rfl
@[simp] theorem onTenant_nvm (t : Nat) (f : Tenant → Tenant) (s : State) : (onTenant t f s).nvm = s.nvm := rfl
@[simp] theorem onTenant_opTicks (t : Nat) (f : Tenant → Tenant) (s : State) : (onTenant t f s).opTicks = s.opTicks := rfl
@[simp] theorem onTenant_start (t : Nat) (f : Tenant → Tenant) (s : State) : (onTenant t f s).start = s.start := rfl
@[simp] theorem onTenant_supply (t : Nat) (f : Tenant → Tenant) (s : State) : (onTenant t f s).supply = s.supply := rfl
@[simp] theorem onTenant_dram (t : Nat) (f : Tenant → Tenant) (s : State) : (onTenant t f s).dram = s.dram := rfl
@[simp] theorem onTenant_spread (t : Nat) (f : Tenant → Tenant) (s : State) : (onTenant t f s).spread = s.spread := rfl
@[simp] theorem onTenant_protect (t : Nat) (f : Tenant → Tenant) (s : State) : (onTenant t f s).protect = s.protect := rfl
@[simp] theorem onTenant_free (t : Nat) (f : Tenant → Tenant) (s : State) : (onTenant t f s).free = s.free := rfl
@[simp] theorem onTenant_scratch (t : Nat) (f : Tenant → Tenant) (s : State) : (onTenant t f s).scratch = s.scratch := rfl
@[simp] theorem onTenant_tables (t : Nat) (f : Tenant → Tenant) (s : State) : (onTenant t f s).tables = s.tables := rfl
@[simp] theorem onTenant_order (t : Nat) (f : Tenant → Tenant) (s : State) : (onTenant t f s).order = s.order := rfl
@[simp] theorem onTenant_port (t : Nat) (f : Tenant → Tenant) (s : State) : (onTenant t f s).port = s.port := rfl
@[simp] theorem onTenant_load (t : Nat) (f : Tenant → Tenant) (s : State) : (onTenant t f s).load = s.load := rfl
@[simp] theorem onTenant_heldHost (t : Nat) (f : Tenant → Tenant) (s : State) : (onTenant t f s).heldHost = s.heldHost := rfl
@[simp] theorem onTenant_kv (t : Nat) (f : Tenant → Tenant) (s : State) : (onTenant t f s).kv = s.kv := rfl
@[simp] theorem onTenant_serve (t : Nat) (f : Tenant → Tenant) (s : State) : (onTenant t f s).serve = s.serve := rfl
@[simp] theorem onTenant_saved (t : Nat) (f : Tenant → Tenant) (s : State) : (onTenant t f s).saved = s.saved := rfl
@[simp] theorem onTenant_near (t : Nat) (f : Tenant → Tenant) (s : State) : (onTenant t f s).near = s.near := rfl
@[simp] theorem onTenant_dense (t : Nat) (f : Tenant → Tenant) (s : State) : (onTenant t f s).dense = s.dense := rfl
@[simp] theorem onTenant_fabric (t : Nat) (f : Tenant → Tenant) (s : State) : (onTenant t f s).fabric = s.fabric := rfl
@[simp] theorem onTenant_deferred (t : Nat) (f : Tenant → Tenant) (s : State) : (onTenant t f s).deferred = s.deferred := rfl
@[simp] theorem onTenant_pending (t : Nat) (f : Tenant → Tenant) (s : State) : (onTenant t f s).pending = s.pending := rfl
theorem tenantOf_onTenant (t : Nat) (f : Tenant → Tenant) (s : State) (n' : Nat) :
    tenantOf (onTenant t f s) n' = if n' = t then f (tenantOf s t) else tenantOf s n' := tabGet_tabPut ..
@[simp] theorem tenantOf_onTenant_same (t : Nat) (f : Tenant → Tenant) (s : State) : tenantOf (onTenant t f s) t = f (tenantOf s t) := by simp [tenantOf_onTenant]
@[simp] theorem tenantOf_onTenant_ne (t : Nat) (f : Tenant → Tenant) (s : State) {n' : Nat} (h : n' ≠ t) : tenantOf (onTenant t f s) n' = tenantOf s n' := by
  simp [tenantOf_onTenant, h]

/-! onAdapter. -/
@[simp] theorem onAdapter_us (a : Nat) (f : Adapter → Adapter) (s : State) : (onAdapter a f s).us = s.us := rfl
@[simp] theorem onAdapter_lut (a : Nat) (f : Adapter → Adapter) (s : State) : (onAdapter a f s).lut = s.lut := rfl
@[simp] theorem onAdapter_log (a : Nat) (f : Adapter → Adapter) (s : State) : (onAdapter a f s).log = s.log := rfl
@[simp] theorem onAdapter_events (a : Nat) (f : Adapter → Adapter) (s : State) : (onAdapter a f s).events = s.events := rfl
@[simp] theorem onAdapter_nvm (a : Nat) (f : Adapter → Adapter) (s : State) : (onAdapter a f s).nvm = s.nvm := rfl
@[simp] theorem onAdapter_opTicks (a : Nat) (f : Adapter → Adapter) (s : State) : (onAdapter a f s).opTicks = s.opTicks := rfl
@[simp] theorem onAdapter_start (a : Nat) (f : Adapter → Adapter) (s : State) : (onAdapter a f s).start = s.start := rfl
@[simp] theorem onAdapter_supply (a : Nat) (f : Adapter → Adapter) (s : State) : (onAdapter a f s).supply = s.supply := rfl
@[simp] theorem onAdapter_dram (a : Nat) (f : Adapter → Adapter) (s : State) : (onAdapter a f s).dram = s.dram := rfl
@[simp] theorem onAdapter_spread (a : Nat) (f : Adapter → Adapter) (s : State) : (onAdapter a f s).spread = s.spread := rfl
@[simp] theorem onAdapter_protect (a : Nat) (f : Adapter → Adapter) (s : State) : (onAdapter a f s).protect = s.protect := rfl
@[simp] theorem onAdapter_free (a : Nat) (f : Adapter → Adapter) (s : State) : (onAdapter a f s).free = s.free := rfl
@[simp] theorem onAdapter_scratch (a : Nat) (f : Adapter → Adapter) (s : State) : (onAdapter a f s).scratch = s.scratch := rfl
@[simp] theorem onAdapter_tables (a : Nat) (f : Adapter → Adapter) (s : State) : (onAdapter a f s).tables = s.tables := rfl
@[simp] theorem onAdapter_order (a : Nat) (f : Adapter → Adapter) (s : State) : (onAdapter a f s).order = s.order := rfl
@[simp] theorem onAdapter_port (a : Nat) (f : Adapter → Adapter) (s : State) : (onAdapter a f s).port = s.port := rfl
@[simp] theorem onAdapter_load (a : Nat) (f : Adapter → Adapter) (s : State) : (onAdapter a f s).load = s.load := rfl
@[simp] theorem onAdapter_heldHost (a : Nat) (f : Adapter → Adapter) (s : State) : (onAdapter a f s).heldHost = s.heldHost := rfl
@[simp] theorem onAdapter_kv (a : Nat) (f : Adapter → Adapter) (s : State) : (onAdapter a f s).kv = s.kv := rfl
@[simp] theorem onAdapter_serve (a : Nat) (f : Adapter → Adapter) (s : State) : (onAdapter a f s).serve = s.serve := rfl
@[simp] theorem onAdapter_saved (a : Nat) (f : Adapter → Adapter) (s : State) : (onAdapter a f s).saved = s.saved := rfl
@[simp] theorem onAdapter_near (a : Nat) (f : Adapter → Adapter) (s : State) : (onAdapter a f s).near = s.near := rfl
@[simp] theorem onAdapter_dense (a : Nat) (f : Adapter → Adapter) (s : State) : (onAdapter a f s).dense = s.dense := rfl
@[simp] theorem onAdapter_fabric (a : Nat) (f : Adapter → Adapter) (s : State) : (onAdapter a f s).fabric = s.fabric := rfl
@[simp] theorem onAdapter_deferred (a : Nat) (f : Adapter → Adapter) (s : State) : (onAdapter a f s).deferred = s.deferred := rfl
@[simp] theorem onAdapter_pending (a : Nat) (f : Adapter → Adapter) (s : State) : (onAdapter a f s).pending = s.pending := rfl
theorem adapter_onAdapter (a : Nat) (f : Adapter → Adapter) (s : State) (n' : Nat) :
    adapter (onAdapter a f s) n' = if n' = a then f (adapter s a) else adapter s n' := tabGet_tabPut ..
@[simp] theorem adapter_onAdapter_same (a : Nat) (f : Adapter → Adapter) (s : State) : adapter (onAdapter a f s) a = f (adapter s a) := by simp [adapter_onAdapter]
@[simp] theorem adapter_onAdapter_ne (a : Nat) (f : Adapter → Adapter) (s : State) {n' : Nat} (h : n' ≠ a) : adapter (onAdapter a f s) n' = adapter s n' := by
  simp [adapter_onAdapter, h]

/-! setJob. -/
@[simp] theorem setJob_us (j : Nat) (v : Job) (s : State) : (setJob j v s).us = s.us := rfl
@[simp] theorem setJob_lut (j : Nat) (v : Job) (s : State) : (setJob j v s).lut = s.lut := rfl
@[simp] theorem setJob_log (j : Nat) (v : Job) (s : State) : (setJob j v s).log = s.log := rfl
@[simp] theorem setJob_events (j : Nat) (v : Job) (s : State) : (setJob j v s).events = s.events := rfl
@[simp] theorem setJob_nvm (j : Nat) (v : Job) (s : State) : (setJob j v s).nvm = s.nvm := rfl
@[simp] theorem setJob_opTicks (j : Nat) (v : Job) (s : State) : (setJob j v s).opTicks = s.opTicks := rfl
@[simp] theorem setJob_start (j : Nat) (v : Job) (s : State) : (setJob j v s).start = s.start := rfl
@[simp] theorem setJob_supply (j : Nat) (v : Job) (s : State) : (setJob j v s).supply = s.supply := rfl
@[simp] theorem setJob_dram (j : Nat) (v : Job) (s : State) : (setJob j v s).dram = s.dram := rfl
@[simp] theorem setJob_spread (j : Nat) (v : Job) (s : State) : (setJob j v s).spread = s.spread := rfl
@[simp] theorem setJob_protect (j : Nat) (v : Job) (s : State) : (setJob j v s).protect = s.protect := rfl
@[simp] theorem setJob_free (j : Nat) (v : Job) (s : State) : (setJob j v s).free = s.free := rfl
@[simp] theorem setJob_scratch (j : Nat) (v : Job) (s : State) : (setJob j v s).scratch = s.scratch := rfl
@[simp] theorem setJob_tables (j : Nat) (v : Job) (s : State) : (setJob j v s).tables = s.tables := rfl
@[simp] theorem setJob_order (j : Nat) (v : Job) (s : State) : (setJob j v s).order = s.order := rfl
@[simp] theorem setJob_port (j : Nat) (v : Job) (s : State) : (setJob j v s).port = s.port := rfl
@[simp] theorem setJob_load (j : Nat) (v : Job) (s : State) : (setJob j v s).load = s.load := rfl
@[simp] theorem setJob_heldHost (j : Nat) (v : Job) (s : State) : (setJob j v s).heldHost = s.heldHost := rfl
@[simp] theorem setJob_kv (j : Nat) (v : Job) (s : State) : (setJob j v s).kv = s.kv := rfl
@[simp] theorem setJob_serve (j : Nat) (v : Job) (s : State) : (setJob j v s).serve = s.serve := rfl
@[simp] theorem setJob_saved (j : Nat) (v : Job) (s : State) : (setJob j v s).saved = s.saved := rfl
@[simp] theorem setJob_near (j : Nat) (v : Job) (s : State) : (setJob j v s).near = s.near := rfl
@[simp] theorem setJob_dense (j : Nat) (v : Job) (s : State) : (setJob j v s).dense = s.dense := rfl
@[simp] theorem setJob_fabric (j : Nat) (v : Job) (s : State) : (setJob j v s).fabric = s.fabric := rfl
@[simp] theorem setJob_deferred (j : Nat) (v : Job) (s : State) : (setJob j v s).deferred = s.deferred := rfl
@[simp] theorem setJob_pending (j : Nat) (v : Job) (s : State) : (setJob j v s).pending = s.pending := rfl
theorem job_setJob (j : Nat) (v : Job) (s : State) (n' : Nat) :
    job (setJob j v s) n' = if n' = j then v else job s n' := tabGet_tabPut ..
@[simp] theorem job_setJob_same (j : Nat) (v : Job) (s : State) : job (setJob j v s) j = v := by simp [job_setJob]
@[simp] theorem job_setJob_ne (j : Nat) (v : Job) (s : State) {n' : Nat} (h : n' ≠ j) : job (setJob j v s) n' = job s n' := by
  simp [job_setJob, h]

/-! onDma. -/
@[simp] theorem onDma_us (j : Nat) (f : DmaSlot → DmaSlot) (s : State) : (onDma j f s).us = s.us := rfl
@[simp] theorem onDma_lut (j : Nat) (f : DmaSlot → DmaSlot) (s : State) : (onDma j f s).lut = s.lut := rfl
@[simp] theorem onDma_log (j : Nat) (f : DmaSlot → DmaSlot) (s : State) : (onDma j f s).log = s.log := rfl
@[simp] theorem onDma_events (j : Nat) (f : DmaSlot → DmaSlot) (s : State) : (onDma j f s).events = s.events := rfl
@[simp] theorem onDma_nvm (j : Nat) (f : DmaSlot → DmaSlot) (s : State) : (onDma j f s).nvm = s.nvm := rfl
@[simp] theorem onDma_opTicks (j : Nat) (f : DmaSlot → DmaSlot) (s : State) : (onDma j f s).opTicks = s.opTicks := rfl
@[simp] theorem onDma_start (j : Nat) (f : DmaSlot → DmaSlot) (s : State) : (onDma j f s).start = s.start := rfl
@[simp] theorem onDma_supply (j : Nat) (f : DmaSlot → DmaSlot) (s : State) : (onDma j f s).supply = s.supply := rfl
@[simp] theorem onDma_dram (j : Nat) (f : DmaSlot → DmaSlot) (s : State) : (onDma j f s).dram = s.dram := rfl
@[simp] theorem onDma_spread (j : Nat) (f : DmaSlot → DmaSlot) (s : State) : (onDma j f s).spread = s.spread := rfl
@[simp] theorem onDma_protect (j : Nat) (f : DmaSlot → DmaSlot) (s : State) : (onDma j f s).protect = s.protect := rfl
@[simp] theorem onDma_free (j : Nat) (f : DmaSlot → DmaSlot) (s : State) : (onDma j f s).free = s.free := rfl
@[simp] theorem onDma_scratch (j : Nat) (f : DmaSlot → DmaSlot) (s : State) : (onDma j f s).scratch = s.scratch := rfl
@[simp] theorem onDma_tables (j : Nat) (f : DmaSlot → DmaSlot) (s : State) : (onDma j f s).tables = s.tables := rfl
@[simp] theorem onDma_order (j : Nat) (f : DmaSlot → DmaSlot) (s : State) : (onDma j f s).order = s.order := rfl
@[simp] theorem onDma_load (j : Nat) (f : DmaSlot → DmaSlot) (s : State) : (onDma j f s).load = s.load := rfl
@[simp] theorem onDma_heldHost (j : Nat) (f : DmaSlot → DmaSlot) (s : State) : (onDma j f s).heldHost = s.heldHost := rfl
@[simp] theorem onDma_kv (j : Nat) (f : DmaSlot → DmaSlot) (s : State) : (onDma j f s).kv = s.kv := rfl
@[simp] theorem onDma_serve (j : Nat) (f : DmaSlot → DmaSlot) (s : State) : (onDma j f s).serve = s.serve := rfl
@[simp] theorem onDma_tenancy (j : Nat) (f : DmaSlot → DmaSlot) (s : State) : (onDma j f s).tenancy = s.tenancy := rfl
@[simp] theorem onDma_saved (j : Nat) (f : DmaSlot → DmaSlot) (s : State) : (onDma j f s).saved = s.saved := rfl
@[simp] theorem onDma_near (j : Nat) (f : DmaSlot → DmaSlot) (s : State) : (onDma j f s).near = s.near := rfl
@[simp] theorem onDma_dense (j : Nat) (f : DmaSlot → DmaSlot) (s : State) : (onDma j f s).dense = s.dense := rfl
@[simp] theorem onDma_fabric (j : Nat) (f : DmaSlot → DmaSlot) (s : State) : (onDma j f s).fabric = s.fabric := rfl
@[simp] theorem onDma_deferred (j : Nat) (f : DmaSlot → DmaSlot) (s : State) : (onDma j f s).deferred = s.deferred := rfl
@[simp] theorem onDma_pending (j : Nat) (f : DmaSlot → DmaSlot) (s : State) : (onDma j f s).pending = s.pending := rfl
theorem dmaSlot_onDma (j : Nat) (f : DmaSlot → DmaSlot) (s : State) (n' : Nat) :
    dmaSlot (onDma j f s) n' = if n' = j then f (dmaSlot s j) else dmaSlot s n' := tabGet_tabPut ..
@[simp] theorem dmaSlot_onDma_same (j : Nat) (f : DmaSlot → DmaSlot) (s : State) : dmaSlot (onDma j f s) j = f (dmaSlot s j) := by simp [dmaSlot_onDma]
@[simp] theorem dmaSlot_onDma_ne (j : Nat) (f : DmaSlot → DmaSlot) (s : State) {n' : Nat} (h : n' ≠ j) : dmaSlot (onDma j f s) n' = dmaSlot s n' := by
  simp [dmaSlot_onDma, h]

/-! onReading. -/
@[simp] theorem onReading_us (k : Nat) (f : Reading → Reading) (s : State) : (onReading k f s).us = s.us := rfl
@[simp] theorem onReading_log (k : Nat) (f : Reading → Reading) (s : State) : (onReading k f s).log = s.log := rfl
@[simp] theorem onReading_events (k : Nat) (f : Reading → Reading) (s : State) : (onReading k f s).events = s.events := rfl
@[simp] theorem onReading_nvm (k : Nat) (f : Reading → Reading) (s : State) : (onReading k f s).nvm = s.nvm := rfl
@[simp] theorem onReading_opTicks (k : Nat) (f : Reading → Reading) (s : State) : (onReading k f s).opTicks = s.opTicks := rfl
@[simp] theorem onReading_start (k : Nat) (f : Reading → Reading) (s : State) : (onReading k f s).start = s.start := rfl
@[simp] theorem onReading_supply (k : Nat) (f : Reading → Reading) (s : State) : (onReading k f s).supply = s.supply := rfl
@[simp] theorem onReading_dram (k : Nat) (f : Reading → Reading) (s : State) : (onReading k f s).dram = s.dram := rfl
@[simp] theorem onReading_spread (k : Nat) (f : Reading → Reading) (s : State) : (onReading k f s).spread = s.spread := rfl
@[simp] theorem onReading_protect (k : Nat) (f : Reading → Reading) (s : State) : (onReading k f s).protect = s.protect := rfl
@[simp] theorem onReading_free (k : Nat) (f : Reading → Reading) (s : State) : (onReading k f s).free = s.free := rfl
@[simp] theorem onReading_scratch (k : Nat) (f : Reading → Reading) (s : State) : (onReading k f s).scratch = s.scratch := rfl
@[simp] theorem onReading_tables (k : Nat) (f : Reading → Reading) (s : State) : (onReading k f s).tables = s.tables := rfl
@[simp] theorem onReading_order (k : Nat) (f : Reading → Reading) (s : State) : (onReading k f s).order = s.order := rfl
@[simp] theorem onReading_port (k : Nat) (f : Reading → Reading) (s : State) : (onReading k f s).port = s.port := rfl
@[simp] theorem onReading_load (k : Nat) (f : Reading → Reading) (s : State) : (onReading k f s).load = s.load := rfl
@[simp] theorem onReading_heldHost (k : Nat) (f : Reading → Reading) (s : State) : (onReading k f s).heldHost = s.heldHost := rfl
@[simp] theorem onReading_kv (k : Nat) (f : Reading → Reading) (s : State) : (onReading k f s).kv = s.kv := rfl
@[simp] theorem onReading_serve (k : Nat) (f : Reading → Reading) (s : State) : (onReading k f s).serve = s.serve := rfl
@[simp] theorem onReading_tenancy (k : Nat) (f : Reading → Reading) (s : State) : (onReading k f s).tenancy = s.tenancy := rfl
@[simp] theorem onReading_saved (k : Nat) (f : Reading → Reading) (s : State) : (onReading k f s).saved = s.saved := rfl
@[simp] theorem onReading_near (k : Nat) (f : Reading → Reading) (s : State) : (onReading k f s).near = s.near := rfl
@[simp] theorem onReading_dense (k : Nat) (f : Reading → Reading) (s : State) : (onReading k f s).dense = s.dense := rfl
@[simp] theorem onReading_fabric (k : Nat) (f : Reading → Reading) (s : State) : (onReading k f s).fabric = s.fabric := rfl
@[simp] theorem onReading_deferred (k : Nat) (f : Reading → Reading) (s : State) : (onReading k f s).deferred = s.deferred := rfl
@[simp] theorem onReading_pending (k : Nat) (f : Reading → Reading) (s : State) : (onReading k f s).pending = s.pending := rfl
theorem reading_onReading (k : Nat) (f : Reading → Reading) (s : State) (n' : Nat) :
    reading (onReading k f s) n' = if n' = k then f (reading s k) else reading s n' := tabGet_tabPut ..
@[simp] theorem reading_onReading_same (k : Nat) (f : Reading → Reading) (s : State) : reading (onReading k f s) k = f (reading s k) := by simp [reading_onReading]
@[simp] theorem reading_onReading_ne (k : Nat) (f : Reading → Reading) (s : State) {n' : Nat} (h : n' ≠ k) : reading (onReading k f s) n' = reading s n' := by
  simp [reading_onReading, h]

/-! onHeat. -/
@[simp] theorem onHeat_us (t : Nat) (f : TileHeat → TileHeat) (s : State) : (onHeat t f s).us = s.us := rfl
@[simp] theorem onHeat_log (t : Nat) (f : TileHeat → TileHeat) (s : State) : (onHeat t f s).log = s.log := rfl
@[simp] theorem onHeat_events (t : Nat) (f : TileHeat → TileHeat) (s : State) : (onHeat t f s).events = s.events := rfl
@[simp] theorem onHeat_nvm (t : Nat) (f : TileHeat → TileHeat) (s : State) : (onHeat t f s).nvm = s.nvm := rfl
@[simp] theorem onHeat_opTicks (t : Nat) (f : TileHeat → TileHeat) (s : State) : (onHeat t f s).opTicks = s.opTicks := rfl
@[simp] theorem onHeat_start (t : Nat) (f : TileHeat → TileHeat) (s : State) : (onHeat t f s).start = s.start := rfl
@[simp] theorem onHeat_supply (t : Nat) (f : TileHeat → TileHeat) (s : State) : (onHeat t f s).supply = s.supply := rfl
@[simp] theorem onHeat_dram (t : Nat) (f : TileHeat → TileHeat) (s : State) : (onHeat t f s).dram = s.dram := rfl
@[simp] theorem onHeat_spread (t : Nat) (f : TileHeat → TileHeat) (s : State) : (onHeat t f s).spread = s.spread := rfl
@[simp] theorem onHeat_protect (t : Nat) (f : TileHeat → TileHeat) (s : State) : (onHeat t f s).protect = s.protect := rfl
@[simp] theorem onHeat_free (t : Nat) (f : TileHeat → TileHeat) (s : State) : (onHeat t f s).free = s.free := rfl
@[simp] theorem onHeat_scratch (t : Nat) (f : TileHeat → TileHeat) (s : State) : (onHeat t f s).scratch = s.scratch := rfl
@[simp] theorem onHeat_tables (t : Nat) (f : TileHeat → TileHeat) (s : State) : (onHeat t f s).tables = s.tables := rfl
@[simp] theorem onHeat_order (t : Nat) (f : TileHeat → TileHeat) (s : State) : (onHeat t f s).order = s.order := rfl
@[simp] theorem onHeat_port (t : Nat) (f : TileHeat → TileHeat) (s : State) : (onHeat t f s).port = s.port := rfl
@[simp] theorem onHeat_load (t : Nat) (f : TileHeat → TileHeat) (s : State) : (onHeat t f s).load = s.load := rfl
@[simp] theorem onHeat_heldHost (t : Nat) (f : TileHeat → TileHeat) (s : State) : (onHeat t f s).heldHost = s.heldHost := rfl
@[simp] theorem onHeat_kv (t : Nat) (f : TileHeat → TileHeat) (s : State) : (onHeat t f s).kv = s.kv := rfl
@[simp] theorem onHeat_serve (t : Nat) (f : TileHeat → TileHeat) (s : State) : (onHeat t f s).serve = s.serve := rfl
@[simp] theorem onHeat_tenancy (t : Nat) (f : TileHeat → TileHeat) (s : State) : (onHeat t f s).tenancy = s.tenancy := rfl
@[simp] theorem onHeat_saved (t : Nat) (f : TileHeat → TileHeat) (s : State) : (onHeat t f s).saved = s.saved := rfl
@[simp] theorem onHeat_near (t : Nat) (f : TileHeat → TileHeat) (s : State) : (onHeat t f s).near = s.near := rfl
@[simp] theorem onHeat_dense (t : Nat) (f : TileHeat → TileHeat) (s : State) : (onHeat t f s).dense = s.dense := rfl
@[simp] theorem onHeat_fabric (t : Nat) (f : TileHeat → TileHeat) (s : State) : (onHeat t f s).fabric = s.fabric := rfl
@[simp] theorem onHeat_deferred (t : Nat) (f : TileHeat → TileHeat) (s : State) : (onHeat t f s).deferred = s.deferred := rfl
@[simp] theorem onHeat_pending (t : Nat) (f : TileHeat → TileHeat) (s : State) : (onHeat t f s).pending = s.pending := rfl
theorem heat_onHeat (t : Nat) (f : TileHeat → TileHeat) (s : State) (n' : Nat) :
    heat (onHeat t f s) n' = if n' = t then f (heat s t) else heat s n' := tabGet_tabPut ..
@[simp] theorem heat_onHeat_same (t : Nat) (f : TileHeat → TileHeat) (s : State) : heat (onHeat t f s) t = f (heat s t) := by simp [heat_onHeat]
@[simp] theorem heat_onHeat_ne (t : Nat) (f : TileHeat → TileHeat) (s : State) {n' : Nat} (h : n' ≠ t) : heat (onHeat t f s) n' = heat s n' := by
  simp [heat_onHeat, h]

/-! setMark. -/
@[simp] theorem setMark_us (a : Nat) (s : State) : (setMark a s).us = s.us := rfl
@[simp] theorem setMark_lut (a : Nat) (s : State) : (setMark a s).lut = s.lut := rfl
@[simp] theorem setMark_log (a : Nat) (s : State) : (setMark a s).log = s.log := rfl
@[simp] theorem setMark_events (a : Nat) (s : State) : (setMark a s).events = s.events := rfl
@[simp] theorem setMark_nvm (a : Nat) (s : State) : (setMark a s).nvm = s.nvm := rfl
@[simp] theorem setMark_opTicks (a : Nat) (s : State) : (setMark a s).opTicks = s.opTicks := rfl
@[simp] theorem setMark_start (a : Nat) (s : State) : (setMark a s).start = s.start := rfl
@[simp] theorem setMark_supply (a : Nat) (s : State) : (setMark a s).supply = s.supply := rfl
@[simp] theorem setMark_dram (a : Nat) (s : State) : (setMark a s).dram = s.dram := rfl
@[simp] theorem setMark_spread (a : Nat) (s : State) : (setMark a s).spread = s.spread := rfl
@[simp] theorem setMark_protect (a : Nat) (s : State) : (setMark a s).protect = s.protect := rfl
@[simp] theorem setMark_free (a : Nat) (s : State) : (setMark a s).free = s.free := rfl
@[simp] theorem setMark_tables (a : Nat) (s : State) : (setMark a s).tables = s.tables := rfl
@[simp] theorem setMark_order (a : Nat) (s : State) : (setMark a s).order = s.order := rfl
@[simp] theorem setMark_port (a : Nat) (s : State) : (setMark a s).port = s.port := rfl
@[simp] theorem setMark_load (a : Nat) (s : State) : (setMark a s).load = s.load := rfl
@[simp] theorem setMark_heldHost (a : Nat) (s : State) : (setMark a s).heldHost = s.heldHost := rfl
@[simp] theorem setMark_kv (a : Nat) (s : State) : (setMark a s).kv = s.kv := rfl
@[simp] theorem setMark_serve (a : Nat) (s : State) : (setMark a s).serve = s.serve := rfl
@[simp] theorem setMark_tenancy (a : Nat) (s : State) : (setMark a s).tenancy = s.tenancy := rfl
@[simp] theorem setMark_saved (a : Nat) (s : State) : (setMark a s).saved = s.saved := rfl
@[simp] theorem setMark_near (a : Nat) (s : State) : (setMark a s).near = s.near := rfl
@[simp] theorem setMark_dense (a : Nat) (s : State) : (setMark a s).dense = s.dense := rfl
@[simp] theorem setMark_fabric (a : Nat) (s : State) : (setMark a s).fabric = s.fabric := rfl
@[simp] theorem setMark_deferred (a : Nat) (s : State) : (setMark a s).deferred = s.deferred := rfl
@[simp] theorem setMark_pending (a : Nat) (s : State) : (setMark a s).pending = s.pending := rfl

/-! clearMark. -/
@[simp] theorem clearMark_us (a : Nat) (s : State) : (clearMark a s).us = s.us := rfl
@[simp] theorem clearMark_lut (a : Nat) (s : State) : (clearMark a s).lut = s.lut := rfl
@[simp] theorem clearMark_log (a : Nat) (s : State) : (clearMark a s).log = s.log := rfl
@[simp] theorem clearMark_events (a : Nat) (s : State) : (clearMark a s).events = s.events := rfl
@[simp] theorem clearMark_nvm (a : Nat) (s : State) : (clearMark a s).nvm = s.nvm := rfl
@[simp] theorem clearMark_opTicks (a : Nat) (s : State) : (clearMark a s).opTicks = s.opTicks := rfl
@[simp] theorem clearMark_start (a : Nat) (s : State) : (clearMark a s).start = s.start := rfl
@[simp] theorem clearMark_supply (a : Nat) (s : State) : (clearMark a s).supply = s.supply := rfl
@[simp] theorem clearMark_dram (a : Nat) (s : State) : (clearMark a s).dram = s.dram := rfl
@[simp] theorem clearMark_spread (a : Nat) (s : State) : (clearMark a s).spread = s.spread := rfl
@[simp] theorem clearMark_protect (a : Nat) (s : State) : (clearMark a s).protect = s.protect := rfl
@[simp] theorem clearMark_free (a : Nat) (s : State) : (clearMark a s).free = s.free := rfl
@[simp] theorem clearMark_tables (a : Nat) (s : State) : (clearMark a s).tables = s.tables := rfl
@[simp] theorem clearMark_order (a : Nat) (s : State) : (clearMark a s).order = s.order := rfl
@[simp] theorem clearMark_port (a : Nat) (s : State) : (clearMark a s).port = s.port := rfl
@[simp] theorem clearMark_load (a : Nat) (s : State) : (clearMark a s).load = s.load := rfl
@[simp] theorem clearMark_heldHost (a : Nat) (s : State) : (clearMark a s).heldHost = s.heldHost := rfl
@[simp] theorem clearMark_kv (a : Nat) (s : State) : (clearMark a s).kv = s.kv := rfl
@[simp] theorem clearMark_serve (a : Nat) (s : State) : (clearMark a s).serve = s.serve := rfl
@[simp] theorem clearMark_tenancy (a : Nat) (s : State) : (clearMark a s).tenancy = s.tenancy := rfl
@[simp] theorem clearMark_saved (a : Nat) (s : State) : (clearMark a s).saved = s.saved := rfl
@[simp] theorem clearMark_near (a : Nat) (s : State) : (clearMark a s).near = s.near := rfl
@[simp] theorem clearMark_dense (a : Nat) (s : State) : (clearMark a s).dense = s.dense := rfl
@[simp] theorem clearMark_fabric (a : Nat) (s : State) : (clearMark a s).fabric = s.fabric := rfl
@[simp] theorem clearMark_deferred (a : Nat) (s : State) : (clearMark a s).deferred = s.deferred := rfl
@[simp] theorem clearMark_pending (a : Nat) (s : State) : (clearMark a s).pending = s.pending := rfl

/-! setStored. -/
@[simp] theorem setStored_us (n : Nat) (d : BitVec 256) (e : Quad) (s : State) : (setStored n d e s).us = s.us := by simp only [setStored]
@[simp] theorem setStored_lut (n : Nat) (d : BitVec 256) (e : Quad) (s : State) : (setStored n d e s).lut = s.lut := by simp only [setStored]
@[simp] theorem setStored_log (n : Nat) (d : BitVec 256) (e : Quad) (s : State) : (setStored n d e s).log = s.log := by simp only [setStored]
@[simp] theorem setStored_events (n : Nat) (d : BitVec 256) (e : Quad) (s : State) : (setStored n d e s).events = s.events := by simp only [setStored]
@[simp] theorem setStored_nvm (n : Nat) (d : BitVec 256) (e : Quad) (s : State) : (setStored n d e s).nvm = s.nvm := by simp only [setStored]
@[simp] theorem setStored_opTicks (n : Nat) (d : BitVec 256) (e : Quad) (s : State) : (setStored n d e s).opTicks = s.opTicks := by simp only [setStored]
@[simp] theorem setStored_start (n : Nat) (d : BitVec 256) (e : Quad) (s : State) : (setStored n d e s).start = s.start := by simp only [setStored]
@[simp] theorem setStored_supply (n : Nat) (d : BitVec 256) (e : Quad) (s : State) : (setStored n d e s).supply = s.supply := by simp only [setStored]
@[simp] theorem setStored_spread (n : Nat) (d : BitVec 256) (e : Quad) (s : State) : (setStored n d e s).spread = s.spread := by simp only [setStored]
@[simp] theorem setStored_protect (n : Nat) (d : BitVec 256) (e : Quad) (s : State) : (setStored n d e s).protect = s.protect := by simp only [setStored]
@[simp] theorem setStored_free (n : Nat) (d : BitVec 256) (e : Quad) (s : State) : (setStored n d e s).free = s.free := by simp only [setStored]
@[simp] theorem setStored_scratch (n : Nat) (d : BitVec 256) (e : Quad) (s : State) : (setStored n d e s).scratch = s.scratch := by simp only [setStored]
@[simp] theorem setStored_tables (n : Nat) (d : BitVec 256) (e : Quad) (s : State) : (setStored n d e s).tables = s.tables := by simp only [setStored]
@[simp] theorem setStored_order (n : Nat) (d : BitVec 256) (e : Quad) (s : State) : (setStored n d e s).order = s.order := by simp only [setStored]
@[simp] theorem setStored_port (n : Nat) (d : BitVec 256) (e : Quad) (s : State) : (setStored n d e s).port = s.port := by simp only [setStored]
@[simp] theorem setStored_load (n : Nat) (d : BitVec 256) (e : Quad) (s : State) : (setStored n d e s).load = s.load := by simp only [setStored]
@[simp] theorem setStored_heldHost (n : Nat) (d : BitVec 256) (e : Quad) (s : State) : (setStored n d e s).heldHost = s.heldHost := by simp only [setStored]
@[simp] theorem setStored_kv (n : Nat) (d : BitVec 256) (e : Quad) (s : State) : (setStored n d e s).kv = s.kv := by simp only [setStored]
@[simp] theorem setStored_serve (n : Nat) (d : BitVec 256) (e : Quad) (s : State) : (setStored n d e s).serve = s.serve := by simp only [setStored]
@[simp] theorem setStored_tenancy (n : Nat) (d : BitVec 256) (e : Quad) (s : State) : (setStored n d e s).tenancy = s.tenancy := by simp only [setStored]
@[simp] theorem setStored_saved (n : Nat) (d : BitVec 256) (e : Quad) (s : State) : (setStored n d e s).saved = s.saved := by simp only [setStored]
@[simp] theorem setStored_near (n : Nat) (d : BitVec 256) (e : Quad) (s : State) : (setStored n d e s).near = s.near := by simp only [setStored]
@[simp] theorem setStored_dense (n : Nat) (d : BitVec 256) (e : Quad) (s : State) : (setStored n d e s).dense = s.dense := by simp only [setStored]
@[simp] theorem setStored_fabric (n : Nat) (d : BitVec 256) (e : Quad) (s : State) : (setStored n d e s).fabric = s.fabric := by simp only [setStored]
@[simp] theorem setStored_deferred (n : Nat) (d : BitVec 256) (e : Quad) (s : State) : (setStored n d e s).deferred = s.deferred := by simp only [setStored]
@[simp] theorem setStored_pending (n : Nat) (d : BitVec 256) (e : Quad) (s : State) : (setStored n d e s).pending = s.pending := by simp only [setStored]

/-! setLoad. -/
@[simp] theorem setLoad_us (f : Loading → Loading) (s : State) : (setLoad f s).us = s.us := rfl
@[simp] theorem setLoad_lut (f : Loading → Loading) (s : State) : (setLoad f s).lut = s.lut := rfl
@[simp] theorem setLoad_log (f : Loading → Loading) (s : State) : (setLoad f s).log = s.log := rfl
@[simp] theorem setLoad_events (f : Loading → Loading) (s : State) : (setLoad f s).events = s.events := rfl
@[simp] theorem setLoad_nvm (f : Loading → Loading) (s : State) : (setLoad f s).nvm = s.nvm := rfl
@[simp] theorem setLoad_opTicks (f : Loading → Loading) (s : State) : (setLoad f s).opTicks = s.opTicks := rfl
@[simp] theorem setLoad_start (f : Loading → Loading) (s : State) : (setLoad f s).start = s.start := rfl
@[simp] theorem setLoad_supply (f : Loading → Loading) (s : State) : (setLoad f s).supply = s.supply := rfl
@[simp] theorem setLoad_dram (f : Loading → Loading) (s : State) : (setLoad f s).dram = s.dram := rfl
@[simp] theorem setLoad_spread (f : Loading → Loading) (s : State) : (setLoad f s).spread = s.spread := rfl
@[simp] theorem setLoad_protect (f : Loading → Loading) (s : State) : (setLoad f s).protect = s.protect := rfl
@[simp] theorem setLoad_free (f : Loading → Loading) (s : State) : (setLoad f s).free = s.free := rfl
@[simp] theorem setLoad_scratch (f : Loading → Loading) (s : State) : (setLoad f s).scratch = s.scratch := rfl
@[simp] theorem setLoad_tables (f : Loading → Loading) (s : State) : (setLoad f s).tables = s.tables := rfl
@[simp] theorem setLoad_order (f : Loading → Loading) (s : State) : (setLoad f s).order = s.order := rfl
@[simp] theorem setLoad_port (f : Loading → Loading) (s : State) : (setLoad f s).port = s.port := rfl
@[simp] theorem setLoad_heldHost (f : Loading → Loading) (s : State) : (setLoad f s).heldHost = s.heldHost := rfl
@[simp] theorem setLoad_kv (f : Loading → Loading) (s : State) : (setLoad f s).kv = s.kv := rfl
@[simp] theorem setLoad_serve (f : Loading → Loading) (s : State) : (setLoad f s).serve = s.serve := rfl
@[simp] theorem setLoad_tenancy (f : Loading → Loading) (s : State) : (setLoad f s).tenancy = s.tenancy := rfl
@[simp] theorem setLoad_saved (f : Loading → Loading) (s : State) : (setLoad f s).saved = s.saved := rfl
@[simp] theorem setLoad_near (f : Loading → Loading) (s : State) : (setLoad f s).near = s.near := rfl
@[simp] theorem setLoad_dense (f : Loading → Loading) (s : State) : (setLoad f s).dense = s.dense := rfl
@[simp] theorem setLoad_fabric (f : Loading → Loading) (s : State) : (setLoad f s).fabric = s.fabric := rfl
@[simp] theorem setLoad_deferred (f : Loading → Loading) (s : State) : (setLoad f s).deferred = s.deferred := rfl
@[simp] theorem setLoad_pending (f : Loading → Loading) (s : State) : (setLoad f s).pending = s.pending := rfl

/-! emit. -/
@[simp] theorem emit_us (l : Nat) (f : Flit) (s : State) : (emit l f s).us = s.us := rfl
@[simp] theorem emit_lut (l : Nat) (f : Flit) (s : State) : (emit l f s).lut = s.lut := rfl
@[simp] theorem emit_log (l : Nat) (f : Flit) (s : State) : (emit l f s).log = s.log := rfl
@[simp] theorem emit_events (l : Nat) (f : Flit) (s : State) : (emit l f s).events = s.events := rfl
@[simp] theorem emit_nvm (l : Nat) (f : Flit) (s : State) : (emit l f s).nvm = s.nvm := rfl
@[simp] theorem emit_opTicks (l : Nat) (f : Flit) (s : State) : (emit l f s).opTicks = s.opTicks := rfl
@[simp] theorem emit_start (l : Nat) (f : Flit) (s : State) : (emit l f s).start = s.start := rfl
@[simp] theorem emit_supply (l : Nat) (f : Flit) (s : State) : (emit l f s).supply = s.supply := rfl
@[simp] theorem emit_dram (l : Nat) (f : Flit) (s : State) : (emit l f s).dram = s.dram := rfl
@[simp] theorem emit_spread (l : Nat) (f : Flit) (s : State) : (emit l f s).spread = s.spread := rfl
@[simp] theorem emit_protect (l : Nat) (f : Flit) (s : State) : (emit l f s).protect = s.protect := rfl
@[simp] theorem emit_free (l : Nat) (f : Flit) (s : State) : (emit l f s).free = s.free := rfl
@[simp] theorem emit_scratch (l : Nat) (f : Flit) (s : State) : (emit l f s).scratch = s.scratch := rfl
@[simp] theorem emit_tables (l : Nat) (f : Flit) (s : State) : (emit l f s).tables = s.tables := rfl
@[simp] theorem emit_order (l : Nat) (f : Flit) (s : State) : (emit l f s).order = s.order := rfl
@[simp] theorem emit_port (l : Nat) (f : Flit) (s : State) : (emit l f s).port = s.port := rfl
@[simp] theorem emit_load (l : Nat) (f : Flit) (s : State) : (emit l f s).load = s.load := rfl
@[simp] theorem emit_heldHost (l : Nat) (f : Flit) (s : State) : (emit l f s).heldHost = s.heldHost := rfl
@[simp] theorem emit_kv (l : Nat) (f : Flit) (s : State) : (emit l f s).kv = s.kv := rfl
@[simp] theorem emit_serve (l : Nat) (f : Flit) (s : State) : (emit l f s).serve = s.serve := rfl
@[simp] theorem emit_tenancy (l : Nat) (f : Flit) (s : State) : (emit l f s).tenancy = s.tenancy := rfl
@[simp] theorem emit_saved (l : Nat) (f : Flit) (s : State) : (emit l f s).saved = s.saved := rfl
@[simp] theorem emit_near (l : Nat) (f : Flit) (s : State) : (emit l f s).near = s.near := rfl
@[simp] theorem emit_dense (l : Nat) (f : Flit) (s : State) : (emit l f s).dense = s.dense := rfl
@[simp] theorem emit_deferred (l : Nat) (f : Flit) (s : State) : (emit l f s).deferred = s.deferred := rfl
@[simp] theorem emit_pending (l : Nat) (f : Flit) (s : State) : (emit l f s).pending = s.pending := rfl

/-! answer. -/
@[simp] theorem answer_us (a : Answer) (s : State) : (answer a s).us = s.us := rfl
@[simp] theorem answer_lut (a : Answer) (s : State) : (answer a s).lut = s.lut := rfl
@[simp] theorem answer_log (a : Answer) (s : State) : (answer a s).log = s.log := rfl
@[simp] theorem answer_events (a : Answer) (s : State) : (answer a s).events = s.events := rfl
@[simp] theorem answer_nvm (a : Answer) (s : State) : (answer a s).nvm = s.nvm := rfl
@[simp] theorem answer_opTicks (a : Answer) (s : State) : (answer a s).opTicks = s.opTicks := rfl
@[simp] theorem answer_start (a : Answer) (s : State) : (answer a s).start = s.start := rfl
@[simp] theorem answer_supply (a : Answer) (s : State) : (answer a s).supply = s.supply := rfl
@[simp] theorem answer_dram (a : Answer) (s : State) : (answer a s).dram = s.dram := rfl
@[simp] theorem answer_spread (a : Answer) (s : State) : (answer a s).spread = s.spread := rfl
@[simp] theorem answer_protect (a : Answer) (s : State) : (answer a s).protect = s.protect := rfl
@[simp] theorem answer_free (a : Answer) (s : State) : (answer a s).free = s.free := rfl
@[simp] theorem answer_scratch (a : Answer) (s : State) : (answer a s).scratch = s.scratch := rfl
@[simp] theorem answer_tables (a : Answer) (s : State) : (answer a s).tables = s.tables := rfl
@[simp] theorem answer_order (a : Answer) (s : State) : (answer a s).order = s.order := rfl
@[simp] theorem answer_load (a : Answer) (s : State) : (answer a s).load = s.load := rfl
@[simp] theorem answer_heldHost (a : Answer) (s : State) : (answer a s).heldHost = s.heldHost := rfl
@[simp] theorem answer_kv (a : Answer) (s : State) : (answer a s).kv = s.kv := rfl
@[simp] theorem answer_serve (a : Answer) (s : State) : (answer a s).serve = s.serve := rfl
@[simp] theorem answer_tenancy (a : Answer) (s : State) : (answer a s).tenancy = s.tenancy := rfl
@[simp] theorem answer_saved (a : Answer) (s : State) : (answer a s).saved = s.saved := rfl
@[simp] theorem answer_near (a : Answer) (s : State) : (answer a s).near = s.near := rfl
@[simp] theorem answer_dense (a : Answer) (s : State) : (answer a s).dense = s.dense := rfl
@[simp] theorem answer_fabric (a : Answer) (s : State) : (answer a s).fabric = s.fabric := rfl
@[simp] theorem answer_deferred (a : Answer) (s : State) : (answer a s).deferred = s.deferred := rfl
@[simp] theorem answer_pending (a : Answer) (s : State) : (answer a s).pending = s.pending := rfl

/-! sendAer. -/
@[simp] theorem sendAer_us (e : AerError) (s : State) : (sendAer e s).us = s.us := rfl
@[simp] theorem sendAer_lut (e : AerError) (s : State) : (sendAer e s).lut = s.lut := rfl
@[simp] theorem sendAer_log (e : AerError) (s : State) : (sendAer e s).log = s.log := rfl
@[simp] theorem sendAer_events (e : AerError) (s : State) : (sendAer e s).events = s.events := rfl
@[simp] theorem sendAer_nvm (e : AerError) (s : State) : (sendAer e s).nvm = s.nvm := rfl
@[simp] theorem sendAer_opTicks (e : AerError) (s : State) : (sendAer e s).opTicks = s.opTicks := rfl
@[simp] theorem sendAer_start (e : AerError) (s : State) : (sendAer e s).start = s.start := rfl
@[simp] theorem sendAer_supply (e : AerError) (s : State) : (sendAer e s).supply = s.supply := rfl
@[simp] theorem sendAer_dram (e : AerError) (s : State) : (sendAer e s).dram = s.dram := rfl
@[simp] theorem sendAer_spread (e : AerError) (s : State) : (sendAer e s).spread = s.spread := rfl
@[simp] theorem sendAer_protect (e : AerError) (s : State) : (sendAer e s).protect = s.protect := rfl
@[simp] theorem sendAer_free (e : AerError) (s : State) : (sendAer e s).free = s.free := rfl
@[simp] theorem sendAer_scratch (e : AerError) (s : State) : (sendAer e s).scratch = s.scratch := rfl
@[simp] theorem sendAer_tables (e : AerError) (s : State) : (sendAer e s).tables = s.tables := rfl
@[simp] theorem sendAer_order (e : AerError) (s : State) : (sendAer e s).order = s.order := rfl
@[simp] theorem sendAer_load (e : AerError) (s : State) : (sendAer e s).load = s.load := rfl
@[simp] theorem sendAer_heldHost (e : AerError) (s : State) : (sendAer e s).heldHost = s.heldHost := rfl
@[simp] theorem sendAer_kv (e : AerError) (s : State) : (sendAer e s).kv = s.kv := rfl
@[simp] theorem sendAer_serve (e : AerError) (s : State) : (sendAer e s).serve = s.serve := rfl
@[simp] theorem sendAer_tenancy (e : AerError) (s : State) : (sendAer e s).tenancy = s.tenancy := rfl
@[simp] theorem sendAer_saved (e : AerError) (s : State) : (sendAer e s).saved = s.saved := rfl
@[simp] theorem sendAer_near (e : AerError) (s : State) : (sendAer e s).near = s.near := rfl
@[simp] theorem sendAer_dense (e : AerError) (s : State) : (sendAer e s).dense = s.dense := rfl
@[simp] theorem sendAer_fabric (e : AerError) (s : State) : (sendAer e s).fabric = s.fabric := rfl
@[simp] theorem sendAer_deferred (e : AerError) (s : State) : (sendAer e s).deferred = s.deferred := rfl
@[simp] theorem sendAer_pending (e : AerError) (s : State) : (sendAer e s).pending = s.pending := rfl

end Sys2Proof.Machine
end

