-- ==== Sys2Proof/Laws/Report.lean ====
section
/-! SUPPORT. What reports, records and messages to the host can change: the frame of every report. -/
namespace Sys2Proof.Machine

/-- A report frame over two steps. -/
theorem ReportFrame.trans {s t u : State} (h1 : ReportFrame s t) (h2 : ReportFrame t u) : ReportFrame s u := by
  unfold ReportFrame at h1 h2 ⊢
  exact h2.trans (by rw [h1])

theorem ReportFrame.after {s t u : State} (h2 : ReportFrame t u) (h1 : ReportFrame s t) : ReportFrame s u := h1.trans h2

theorem ReportFrame.rfl' (s : State) : ReportFrame s s := rfl

theorem sendMsg_frame (m : HostMsg) (s : State) : ReportFrame s (sendMsg m s) := by
  unfold sendMsg; split <;> rfl

theorem signalVector_frame (v : Nat) (s : State) : ReportFrame s (signalVector v s) := by
  unfold signalVector; split
  · exact sendMsg_frame _ _
  · rfl

theorem raisedBit_frame (old : Bool) (s : State) : ReportFrame s (raisedBit old s) := by
  unfold raisedBit; split
  · exact signalVector_frame _ _
  · exact ReportFrame.rfl' s

theorem raiseRecordEvent_frame (s : State) : ReportFrame s (raiseRecordEvent s) :=
  ReportFrame.trans (t := { s with lut.recordEvent := true }) rfl (raisedBit_frame _ _)

theorem raiseAggEvent_frame (s : State) : ReportFrame s (raiseAggEvent s) :=
  ReportFrame.trans (t := { s with lut.aggEvent := true }) rfl (raisedBit_frame _ _)

theorem commitRecord_frame (r : Record) (s : State) : ReportFrame s (commitRecord r s) := by
  unfold commitRecord; split
  · rfl
  · simp only []
    split
    · refine ReportFrame.after (t := raiseRecordEvent _) rfl ?_
      exact (raiseRecordEvent_frame _).after rfl
    · exact (raiseRecordEvent_frame _).after rfl

theorem commitAggregate_frame (a : Aggregate) (s : State) : ReportFrame s (commitAggregate a s) := by
  unfold commitAggregate; split
  · split
    · rfl
    · exact commitRecord_frame _ _
  · exact commitRecord_frame _ _

theorem openAggregate_frame (code subject reporter : Half) (sev : Severity) (detail : Word) (s : State) :
    ReportFrame s (openAggregate code subject reporter sev detail s) := by
  unfold openAggregate
  have h1 : ∀ t : State, ReportFrame t (match t.lut.aggregates with
      | a :: l => if 64 ≤ t.lut.aggregates.length then commitAggregate a { t with lut.aggregates := l } else t
      | [] => t) := by
    intro t; split
    · split
      · exact (commitAggregate_frame _ _).after rfl
      · exact ReportFrame.rfl' _
    · exact ReportFrame.rfl' _
  have h2 : ∀ t : State, ReportFrame t (if Severity.error.rank ≤ sev.rank then raiseAggEvent t else t) := by
    intro t; split
    · exact raiseAggEvent_frame _
    · exact ReportFrame.rfl' _
  simp only []
  split
  · exact ReportFrame.trans (ReportFrame.trans (h1 s) (h2 _)) (commitAggregate_frame _ _)
  · exact ReportFrame.trans (ReportFrame.trans (h1 s) (h2 _)) rfl

theorem aggregate_frame (code subject reporter : Half) (sev : Severity) (detail : Word) (s : State) :
    ReportFrame s (aggregate code subject reporter sev detail s).1 := by
  unfold aggregate; split
  · rfl
  · split
    · split
      · rfl
      · exact openAggregate_frame ..
    · exact openAggregate_frame ..

theorem raiseAreaEvent_frame (code subject : Half) (s : State) : ReportFrame s (raiseAreaEvent code subject s) := by
  unfold raiseAreaEvent
  simp only []
  split
  · exact ReportFrame.trans (t := { s with port.event := true }) rfl (raisedBit_frame _ _)
  split
  · exact ReportFrame.trans (t := { s with events.fabric := true }) rfl (raisedBit_frame _ _)
  split
  · exact ReportFrame.trans (t := { s with events.kv := true }) rfl (raisedBit_frame _ _)
  split
  · exact ReportFrame.trans (t := { s with events.scratch := setInsert s.events.scratch (subject.toNat % 8) }) rfl
      (raisedBit_frame _ _)
  · exact ReportFrame.rfl' s

theorem noteStartCode_frame (code : Half) (s : State) : ReportFrame s (noteStartCode code s) := by
  unfold noteStartCode; split
  · rfl
  · exact ReportFrame.rfl' s

theorem reportCore_frame (code subject reporter : Half) (detail : Word) (s : State) :
    ReportFrame s (reportCore code subject reporter detail s).1 := by
  unfold reportCore; split
  · exact ReportFrame.rfl' s
  · exact ((noteStartCode_frame _ _).trans (raiseAreaEvent_frame _ _ _)).trans (aggregate_frame ..)

theorem forceWindow_frame (t : TestSubject) (reason : Nat) (byMailbox : Bool) (s : State) :
    ReportFrame s (forceWindow t reason byMailbox s) := by
  unfold forceWindow; simp only []; split
  · exact ReportFrame.rfl' s
  · exact (reportCore_frame ..).after rfl

/-- A report changes the recorder and what a report raises, and nothing else. -/
theorem report_frame (code subject reporter : Half) (detail : Word) (s : State) :
    ReportFrame s (report code subject reporter detail s) := by
  unfold report; simp only []
  split
  · split
    · exact (reportCore_frame ..).trans (forceWindow_frame ..)
    · exact reportCore_frame ..
  · exact reportCore_frame ..

theorem reportFree_frame (code subject reporter : Half) (s : State) :
    ReportFrame s (reportFree code subject reporter s) :=
  ReportFrame.trans (t := { s with free := s.free + 1 }) rfl (report_frame ..)

end Sys2Proof.Machine
end

