-- ==== Sys2Proof/Laws/Ops.lean ====
section
/-! SUPPORT. Everything the shared operations can do: the stores they keep in canonical form, the fields they leave, what the
host's port answers. -/
namespace Sys2Proof.Machine

/-! The addressed stores. -/

/-- The four addressed stores are the same. -/
def SameStores (s t : State) : Prop :=
  t.dram.bytes = s.dram.bytes ∧ t.dram.checks = s.dram.checks ∧ t.scratch.bytes = s.scratch.bytes ∧ t.lut.data = s.lut.data

theorem SameStores.rfl' (s : State) : SameStores s s := ⟨rfl, rfl, rfl, rfl⟩

theorem SameStores.trans {s t u : State} (h : SameStores s t) (k : SameStores t u) : SameStores s u :=
  ⟨k.1.trans h.1, k.2.1.trans h.2.1, k.2.2.1.trans h.2.2.1, k.2.2.2.trans h.2.2.2⟩

/-- The invariant depends on the four stores alone. -/
theorem SameStores.inv {s t : State} (h : SameStores s t) (i : Inv s) : Inv t := by
  obtain ⟨a, b, c, d⟩ := h
  unfold Inv
  rw [a, b, c, d]
  exact i

theorem ReportFrame.stores {s t : State} (h : ReportFrame s t) : SameStores s t := by
  rw [ReportFrame] at h
  exact ⟨by rw [h], by rw [h], by rw [h], by rw [h]⟩

theorem ReportFrame.inv {s t : State} (h : ReportFrame s t) (i : Inv s) : Inv t := h.stores.inv i

theorem inv_report (code subject reporter : Half) (detail : Word) {s : State} (i : Inv s) :
    Inv (report code subject reporter detail s) := (report_frame ..).inv i

theorem inv_reportFree (code subject reporter : Half) {s : State} (i : Inv s) :
    Inv (reportFree code subject reporter s) := (reportFree_frame ..).inv i

theorem inv_sendMsg (m : HostMsg) {s : State} (i : Inv s) : Inv (sendMsg m s) := (sendMsg_frame m s).inv i

theorem stores_onChan (c : Nat) (f : Channel → Channel) (s : State) : SameStores s (onChan c f s) := ⟨rfl, rfl, rfl, rfl⟩
theorem stores_onUnit (u : Nat) (f : Unit → Unit) (s : State) : SameStores s (onUnit u f s) := ⟨rfl, rfl, rfl, rfl⟩
theorem stores_onCore (g : Nat) (f : Core → Core) (s : State) : SameStores s (onCore g f s) := ⟨rfl, rfl, rfl, rfl⟩
theorem stores_onLink (l : Nat) (f : Link → Link) (s : State) : SameStores s (onLink l f s) := ⟨rfl, rfl, rfl, rfl⟩
theorem stores_onPort (t b : Nat) (f : BankPort → BankPort) (s : State) : SameStores s (onPort t b f s) := ⟨rfl, rfl, rfl, rfl⟩

theorem inv_onChan (c : Nat) (f : Channel → Channel) {s : State} (i : Inv s) : Inv (onChan c f s) := (stores_onChan c f s).inv i

/-! The poison table. -/

theorem stores_poisonBlock (n : Nat) (s : State) : SameStores s (poisonBlock n s) := by
  unfold poisonBlock
  split
  · exact .rfl' s
  · simp only [clearPrefix, startBlockFill]
    split <;> split <;> exact ⟨rfl, rfl, rfl, rfl⟩

theorem stores_raisePoisonEvent (s : State) : SameStores s (raisePoisonEvent s) :=
  SameStores.trans (t := { s with protect.event := true }) ⟨rfl, rfl, rfl, rfl⟩ (raisedBit_frame _ _).stores

theorem stores_poisonAdd (a f : Nat) (s : State) : SameStores s (poisonAdd a f s).1 := by
  unfold poisonAdd
  simp only []
  split
  · have h (e : Tab Quad) : SameStores s (raisePoisonEvent { s with protect.table := e }) :=
      SameStores.trans (t := { s with protect.table := e }) ⟨rfl, rfl, rfl, rfl⟩ (stores_raisePoisonEvent _)
    split
    · exact (h _).trans (stores_poisonBlock _ _)
    · exact h _
  · exact SameStores.trans (t := { s with protect.dropped := s.protect.dropped + 1 }) ⟨rfl, rfl, rfl, rfl⟩
      (reportFree_frame _ _ _ _).stores

/-- A whole-sector write takes the address out of the poison table and touches nothing else (R123). -/
theorem poisonRemove_only (a : Nat) (s : State) :
    poisonRemove a s = { s with protect.table := (poisonRemove a s).protect.table } := rfl

/-! Writes of stacked memory. -/

theorem inv_setStored (n : Nat) (d : BitVec 256) (k : Quad) {s : State} (i : Inv s) : Inv (setStored n d k s) := by
  simp only [setStored, Inv]
  exact ⟨wf_memWriteL i.1 _ _, tabWf_tabSet 0 i.2.1 _ _, i.2.2.1, i.2.2.2⟩

theorem setStored_only (n : Nat) (d : BitVec 256) (k : Quad) (s : State) :
    setStored n d k s = { s with
      dram.bytes := memWriteL s.dram.bytes (32 * n) (sectorBytes d)
      dram.checks := tabSet 0 s.dram.checks n k } := by simp only [setStored]

/-- A sector is stored in its stored form; a failed channel takes nothing (R104, R109, R113). -/
theorem putSector_cases (n : Nat) (x : Sector) (s : State) :
    ((chan s (chanOfSector n)).failed = true ∧ putSector n x s = s) ∨
    ((chan s (chanOfSector n)).failed = false ∧
      putSector n x s = setStored n (storedForm x).1 (storedForm x).2 s) := by
  unfold putSector
  by_cases h : (chan s (chanOfSector n)).failed = true
  · exact .inl ⟨h, by rw [if_pos h]⟩
  · exact .inr ⟨by simpa using h, by rw [if_neg h]⟩

theorem inv_putSector (n : Nat) (x : Sector) {s : State} (i : Inv s) : Inv (putSector n x s) := by
  rcases putSector_cases n x s with ⟨-, h⟩ | ⟨-, h⟩ <;> rw [h]
  · exact i
  · exact inv_setStored _ _ _ i

theorem putSector_only (n : Nat) (x : Sector) (s : State) :
    putSector n x s = { s with
      dram.bytes := (putSector n x s).dram.bytes
      dram.checks := (putSector n x s).dram.checks } := by
  rcases putSector_cases n x s with ⟨-, h⟩ | ⟨-, h⟩ <;> rw [h]
  rw [setStored_only]

/-- One beat changes nothing but how many free values are used; where every wire works it changes nothing (R112). -/
theorem onBeat_only (c : Nat) (d : BitVec 256 × Quad) (s : State) :
    (onBeat c d s).2 = { s with free := (onBeat c d s).2.free } := by
  unfold onBeat; split <;> rfl

theorem onBeat_works (c : Nat) (d : BitVec 256 × Quad) (s : State) (h : openWires (chan s c) = []) :
    onBeat c d s = (d, s) := by unfold onBeat; rw [h]

theorem stores_onBeat (c : Nat) (d : BitVec 256 × Quad) (s : State) : SameStores s (onBeat c d s).2 := by
  rw [onBeat_only]; exact ⟨rfl, rfl, rfl, rfl⟩

theorem inv_ctlPut (n : Nat) (x : Sector) {s : State} (i : Inv s) : Inv (ctlPut n x s) := by
  unfold ctlPut; split
  · exact i
  · exact inv_setStored _ _ _ ((stores_onBeat _ _ _).inv i)

theorem ctlPut_only (n : Nat) (x : Sector) (s : State) :
    ctlPut n x s = { s with
      dram.bytes := (ctlPut n x s).dram.bytes
      dram.checks := (ctlPut n x s).dram.checks
      free := (ctlPut n x s).free } := by
  have h := onBeat_only (chanOfSector n) (storedForm x) s
  unfold ctlPut; split
  · rfl
  · simp only []
    rw [setStored_only]
    generalize (onBeat (chanOfSector n) (storedForm x) s).2 = u at h ⊢
    rw [h]

/-- Where every wire of the channel works, the controller stores what a unit would. -/
theorem ctlPut_works (n : Nat) (x : Sector) (s : State) (h : openWires (chan s (chanOfSector n)) = []) :
    ctlPut n x s = putSector n x s := by
  unfold ctlPut putSector; rw [onBeat_works _ _ _ h]

theorem afterWrite_only (n : Nat) (x : Sector) (s : State) :
    afterWrite n x s = { s with protect.table := (afterWrite n x s).protect.table } := by
  unfold afterWrite; split
  · rfl
  · split
    · exact poisonRemove_only _ _
    · rfl

theorem stores_afterWrite (n : Nat) (x : Sector) (s : State) : SameStores s (afterWrite n x s) := by
  rw [afterWrite_only]; exact ⟨rfl, rfl, rfl, rfl⟩

theorem inv_writeSectorAt (n : Nat) (x : Sector) {s : State} (i : Inv s) : Inv (writeSectorAt n x s) :=
  (stores_afterWrite _ _ _).inv (inv_putSector _ _ i)

/-- A unit's write of a sector changes its bytes, its checks and the poison table, and nothing else (R115, R123). -/
theorem writeSectorAt_only (n : Nat) (x : Sector) (s : State) :
    writeSectorAt n x s = { s with
      dram.bytes := (writeSectorAt n x s).dram.bytes
      dram.checks := (writeSectorAt n x s).dram.checks
      protect.table := (writeSectorAt n x s).protect.table } := by
  have k := putSector_only n x s
  unfold writeSectorAt
  rw [afterWrite_only]
  generalize putSector n x s = u at k ⊢
  rw [k]

theorem inv_ctlWrite (n : Nat) (x : Sector) {s : State} (i : Inv s) : Inv (ctlWrite n x s) :=
  (stores_afterWrite _ _ _).inv (inv_ctlPut _ _ i)

/-- A controller's write does the same over the channel's wires, which may take free values (R112). -/
theorem ctlWrite_only (n : Nat) (x : Sector) (s : State) :
    ctlWrite n x s = { s with
      dram.bytes := (ctlWrite n x s).dram.bytes
      dram.checks := (ctlWrite n x s).dram.checks
      protect.table := (ctlWrite n x s).protect.table
      free := (ctlWrite n x s).free } := by
  have k := ctlPut_only n x s
  unfold ctlWrite
  rw [afterWrite_only]
  generalize ctlPut n x s = u at k ⊢
  rw [k]

theorem stores_countWrite (f : Bool) (p : Place) (s : State) : SameStores s (countWrite f p s) := by
  unfold countWrite; split
  · exact stores_onChan _ _ _
  · exact .rfl' s

theorem countWrite_only (f : Bool) (p : Place) (s : State) :
    countWrite f p s = { s with dram.channels := (countWrite f p s).dram.channels } := by
  unfold countWrite; split <;> rfl

theorem inv_writeAddrIn (f : Bool) (a : Nat) (x : Sector) {s : State} (i : Inv s) : Inv (writeAddrIn f a x s) := by
  unfold writeAddrIn; split
  · exact i
  · exact (stores_countWrite _ _ _).inv (inv_ctlWrite _ _ i)

/-- A write at an address also counts its beats (R88). -/
theorem writeAddrIn_only (f : Bool) (a : Nat) (x : Sector) (s : State) :
    writeAddrIn f a x s = { s with
      dram.bytes := (writeAddrIn f a x s).dram.bytes
      dram.checks := (writeAddrIn f a x s).dram.checks
      dram.channels := (writeAddrIn f a x s).dram.channels
      protect.table := (writeAddrIn f a x s).protect.table
      free := (writeAddrIn f a x s).free } := by
  unfold writeAddrIn; split
  · rfl
  · rename_i p _
    have k := ctlWrite_only p.sector x s
    rw [countWrite_only]
    generalize ctlWrite p.sector x s = u at k ⊢
    rw [k]

theorem inv_writeOn (f : Bool) (a : Nat) (xs : List Sector) {s : State} (i : Inv s) : Inv (writeOn f a xs s) := by
  induction xs generalizing f a s with
  | nil => exact i
  | cons x xs ih => exact ih _ _ (inv_writeAddrIn _ _ _ i)

theorem inv_writeSectors (a : Nat) (xs : List Sector) {s : State} (i : Inv s) : Inv (writeSectors a xs s) :=
  inv_writeOn _ _ _ i

theorem writeOn_only (f : Bool) (a : Nat) (xs : List Sector) (s : State) :
    writeOn f a xs s = { s with
      dram.bytes := (writeOn f a xs s).dram.bytes
      dram.checks := (writeOn f a xs s).dram.checks
      dram.channels := (writeOn f a xs s).dram.channels
      protect.table := (writeOn f a xs s).protect.table
      free := (writeOn f a xs s).free } := by
  induction xs generalizing f a s with
  | nil => rfl
  | cons x xs ih =>
    have h := ih false (a + 32) (writeAddrIn f a x s)
    have k := writeAddrIn_only f a x s
    simp only [writeOn]
    generalize writeOn false (a + 32) xs (writeAddrIn f a x s) = u at h ⊢
    rw [h]
    generalize writeAddrIn f a x s = w at k ⊢
    rw [k]

theorem writeSectors_only (a : Nat) (xs : List Sector) (s : State) :
    writeSectors a xs s = { s with
      dram.bytes := (writeSectors a xs s).dram.bytes
      dram.checks := (writeSectors a xs s).dram.checks
      dram.channels := (writeSectors a xs s).dram.channels
      protect.table := (writeSectors a xs s).protect.table
      free := (writeSectors a xs s).free } := writeOn_only _ _ _ _

theorem inv_fillGranules (n a : Nat) {s : State} (i : Inv s) : Inv (fillGranules n a s) := by
  induction n generalizing a s with
  | zero => exact i
  | succ n ih =>
    simp only [fillGranules]
    split
    · exact i
    · refine ih _ ?_
      split
      · exact i
      · exact ⟨wf_tabClear i.1 _ _, tabWf_tabClear 0 i.2.1 _ _, i.2.2.1, i.2.2.2⟩

theorem fillGranules_only (n a : Nat) (s : State) :
    fillGranules n a s = { s with
      dram.bytes := (fillGranules n a s).dram.bytes
      dram.checks := (fillGranules n a s).dram.checks } := by
  induction n generalizing a s with
  | zero => rfl
  | succ n ih =>
    simp only [fillGranules]
    split
    · rfl
    · split
      · exact ih _ _
      · rename_i p _ _
        have h := ih (a + 2048) { s with
          dram.bytes := tabClear s.dram.bytes (32 * sectorOf (globalChannel p) p.bank p.row 0)
            (32 * (sectorOf (globalChannel p) p.bank p.row 0 + 64))
          dram.checks := tabClear s.dram.checks (sectorOf (globalChannel p) p.bank p.row 0)
            (sectorOf (globalChannel p) p.bank p.row 0 + 64) }
        generalize fillGranules n (a + 2048) _ = u at h ⊢
        rw [h]

theorem inv_zeroRange (b n : Nat) {s : State} (i : Inv s) : Inv (zeroRange b n s) :=
  inv_fillGranules _ _ (s := { s with protect.table := _ }) i

/-! Reads of stacked memory. -/

theorem inv_poisonSector (n f : Nat) {s : State} (i : Inv s) : Inv (poisonSector n f s) := by
  have h1 : Inv (onChan (chanOfSector n) (fun h => { h with uncorrectable := h.uncorrectable + 1 })
      (ctlPut n .poisoned s)) := inv_onChan _ _ (inv_ctlPut _ _ i)
  unfold poisonSector
  simp only []
  split
  · exact inv_report _ _ _ _ h1
  · have h2 := (stores_poisonAdd (by assumption) f _).inv h1
    split
    · split
      · exact inv_report _ _ _ _ (inv_report _ _ _ _ h2)
      · exact inv_report _ _ _ _ h2
    · exact inv_report _ _ _ _ h2

theorem stores_readBeat (n : Nat) (s : State) : SameStores s (readBeat n s).2 := by
  have h := stores_onBeat (chanOfSector n) (storedData s n, storedChecks s n) s
  unfold readBeat
  simp only []
  split
  · exact h
  · exact h.trans (stores_onChan _ _ _)

/-- Where every wire works, one read of a stored sector is its decoding, and changes the channel's counter alone. -/
theorem readBeat_works (n : Nat) (s : State) (h : openWires (chan s (chanOfSector n)) = []) :
    (readBeat n s).1 = decodeSector (storedData s n) (storedChecks s n) ∧
      ((readBeat n s).2 = s ∨ ∃ f : Channel → Channel, (readBeat n s).2 = onChan (chanOfSector n) f s) := by
  unfold readBeat
  simp only [onBeat_works _ _ _ h]
  refine ⟨trivial, ?_⟩
  split
  · exact .inl rfl
  · exact .inr ⟨_, rfl⟩

theorem inv_secondOutcome (n f : Nat) (r : SectorRead) {s : State} (i : Inv s) : Inv (secondOutcome n f r s) := by
  unfold secondOutcome
  simp only []
  split
  · exact inv_poisonSector _ _ i
  · split
    · exact i
    · exact inv_reportFree _ _ _ (inv_onChan _ _ i)

theorem inv_ctlRead (n : Nat) {s : State} (i : Inv s) : Inv (ctlRead n s).2 := by
  have h1 : Inv (readBeat n s).2 := (stores_readBeat n s).inv i
  unfold ctlRead
  generalize readBeat n s = q at h1 ⊢
  by_cases hf : (chan s (chanOfSector n)).failed = true
  · simp only [if_pos hf]; exact i
  · simp only [if_neg hf]
    by_cases hu : q.1.uncorrectable = true
    · have h2 : Inv (secondOutcome n 0 (readBeat n q.2).1 (readBeat n q.2).2) :=
        inv_secondOutcome _ _ _ ((stores_readBeat _ _).inv h1)
      simp only [if_pos hu]
      split
      · exact inv_onChan _ _ h2
      · exact h2
    · simp only [if_neg hu]
      split
      · exact inv_onChan _ _ h1
      · exact h1

theorem inv_countRead (f : Bool) (p : Place) {s : State} (i : Inv s) : Inv (countRead f p s) := by
  unfold countRead; split
  · exact inv_onChan _ _ i
  · exact i

theorem inv_readAddrIn (f : Bool) (a : Nat) {s : State} (i : Inv s) : Inv (readAddrIn f a s).2 := by
  unfold readAddrIn; split
  · exact i
  · exact inv_countRead _ _ (inv_ctlRead _ i)

theorem inv_readAddr (a : Nat) {s : State} (i : Inv s) : Inv (readAddr a s).2 := inv_readAddrIn _ _ i

theorem inv_readOn (f : Bool) (n a : Nat) {s : State} (i : Inv s) : Inv (readOn f n a s).2 := by
  induction n generalizing f a s with
  | zero => exact i
  | succ n ih => exact ih _ _ (inv_readAddrIn _ _ i)

theorem inv_readSectors (n a : Nat) {s : State} (i : Inv s) : Inv (readSectors n a s).2 := inv_readOn _ _ _ i

/-- A read of a sector that is found right, over wires that work, changes no more than the channel's counters. -/
theorem ctlRead_right (n : Nat) (s : State) (hf : (chan s (chanOfSector n)).failed = false)
    (hw : openWires (chan s (chanOfSector n)) = [])
    (hu : (decodeSector (storedData s n) (storedChecks s n)).uncorrectable = false) :
    (ctlRead n s).1 = (decodeSector (storedData s n) (storedChecks s n)).sector ∧
      ∃ f : Channel → Channel, (ctlRead n s).2 = onChan (chanOfSector n) f s ∨ (ctlRead n s).2 = s := by
  obtain ⟨e, k⟩ := readBeat_works n s hw
  unfold ctlRead
  generalize decodeSector (storedData s n) (storedChecks s n) = r at e hu ⊢
  generalize readBeat n s = q at e k ⊢
  simp only [hf, e, hu, Bool.false_eq_true, if_false]
  refine ⟨trivial, ?_⟩
  by_cases hp : r.sector.poison = true
  · simp only [if_pos hp]
    rcases k with k | ⟨f, k⟩ <;> rw [k]
    · exact ⟨_, .inl rfl⟩
    · refine ⟨fun h => { f h with poisonDelivered := (f h).poisonDelivered + 1 }, .inl ?_⟩
      simp only [onChan, setChan, chan, tabGet_tabPut_self, tabPut_tabPut]
  · simp only [if_neg hp]
    rcases k with k | ⟨f, k⟩ <;> rw [k]
    · exact ⟨id, .inr rfl⟩
    · exact ⟨f, .inl rfl⟩

/-! Scratchpads. -/

theorem stores_sramBad (a : Nat) (s : State) : SameStores s (sramBad a s) :=
  SameStores.trans (t := { setMark a s with scratch.uncorrectable := _ }) ⟨rfl, rfl, rfl, rfl⟩ (reportFree_frame _ _ _ _).stores

theorem stores_foldl_sramBad (l : List Nat) (s : State) : SameStores s (l.foldl (fun s b => sramBad b s) s) := by
  induction l generalizing s with
  | nil => exact .rfl' s
  | cons b l ih => exact (stores_sramBad b s).trans (ih _)

/-- What a read meets in a scratchpad changes none of its bytes (R116). -/
theorem stores_meetBad (a n : Nat) (s : State) : SameStores s (meetBad a n s) :=
  SameStores.trans (t := { s with scratch.bad := _ }) ⟨rfl, rfl, rfl, rfl⟩ (stores_foldl_sramBad _ _)

theorem stores_scratchRead (a n : Nat) (s : State) : SameStores s (scratchRead a n s).2.2 := stores_meetBad a n s

/-- Where no byte of the range is bad, a scratchpad read changes nothing. -/
theorem meetBad_clean (a n : Nat) (s : State) (h : anyBad s a n = false) : meetBad a n s = s := by
  have e : s.scratch.bad.filter (inRange a n) = [] := by
    rw [List.filter_eq_nil_iff]
    intro b hb hr
    exact absurd (List.any_eq_true.mpr ⟨b, hb, hr⟩) (by rw [anyBad] at h; rw [h]; decide)
  have k : (s.scratch.bad.filter fun b => !inRange a n b) = s.scratch.bad := by
    rw [List.filter_eq_self]
    intro b hb
    have := List.filter_eq_nil_iff.mp e b hb
    simpa using this
  unfold meetBad
  rw [e, k]
  rfl

theorem scratchRead_clean (a n : Nat) (s : State) (h : anyBad s a n = false) :
    scratchRead a n s = (memReadN s.scratch.bytes a n, (List.range n).any (fun i => marked s (a + i)), s) := by
  unfold scratchRead; rw [meetBad_clean a n s h]

theorem inv_putBytes (m : Alias) (a : Nat) (bs : List Byte) {s : State} (i : Inv s) : Inv (putBytes m a bs s) := by
  induction bs generalizing a s with
  | nil => exact i
  | cons b bs ih =>
    simp only [putBytes]
    refine ih _ ?_
    split
    · exact (stores_sramBad a s).inv i
    · exact ⟨i.1, i.2.1, wf_memWrite i.2.2.1 _ _, i.2.2.2⟩

theorem stores_markSectors (m : Alias) (p : Bool) (a n f k : Nat) (s : State) : SameStores s (markSectors m p a n f k s) := by
  induction f generalizing k s with
  | zero => exact .rfl' s
  | succ f ih =>
    simp only [markSectors]
    refine SameStores.trans ?_ (ih _ _)
    split
    · exact ⟨rfl, rfl, rfl, rfl⟩
    · split <;> exact ⟨rfl, rfl, rfl, rfl⟩

theorem inv_scratchSet (m : Alias) (p : Bool) (a : Nat) (bs : List Byte) {s : State} (i : Inv s) :
    Inv (scratchSet m p a bs s) := by
  unfold scratchSet
  split
  · exact i
  · exact (stores_markSectors ..).inv (inv_putBytes m a bs i)

theorem stores_countAlias (m : Alias) (a n : Nat) (s : State) : SameStores s (countAlias m a n s) := by
  unfold countAlias; split
  · exact .rfl' s
  · exact stores_onPort _ _ _ _

theorem inv_scratchPut (m : Alias) (p : Bool) (a : Nat) (bs : List Byte) {s : State} (i : Inv s) :
    Inv (scratchPut m p a bs s) := (stores_countAlias ..).inv (inv_scratchSet m p a bs i)

theorem inv_scratchWrite (p : Bool) (a : Nat) (bs : List Byte) {s : State} (i : Inv s) : Inv (scratchWrite p a bs s).1 := by
  unfold scratchWrite; split
  · exact inv_scratchPut _ _ _ _ i
  · exact i

theorem inv_zeroScratch (b n : Nat) {s : State} (i : Inv s) : Inv (zeroScratch b n s) :=
  ⟨i.1, i.2.1, wf_tabClear i.2.2.1 _ _, i.2.2.2⟩

/-- A plain write changes the bytes it names, their faults and repairs, and nothing else of the module. -/
theorem putBytes_normal_only (a : Nat) (bs : List Byte) (s : State) :
    putBytes .normal a bs s = { s with
      scratch.bytes := memWriteL s.scratch.bytes a bs
      scratch.bad := (putBytes .normal a bs s).scratch.bad
      scratch.fixing := (putBytes .normal a bs s).scratch.fixing } := by
  induction bs generalizing a s with
  | nil => rfl
  | cons b bs ih =>
    simp only [putBytes, aliasByte, memWriteL]
    have h := ih (a + 1) { s with
      scratch.bytes := memWrite s.scratch.bytes a b
      scratch.bad := setErase s.scratch.bad a
      scratch.fixing := setErase s.scratch.fixing a }
    simpa using h

/-! Operation fields (R453). -/

@[simp] theorem OpField.begin_busy (f : OpField) (o : Half) : (f.begin o).busy = true := rfl
@[simp] theorem OpField.begin_outcome (f : OpField) (o : Half) : (f.begin o).outcome = o := rfl
@[simp] theorem OpField.begin_result (f : OpField) (o : Half) : (f.begin o).result = f.result := rfl
@[simp] theorem OpField.refuse_busy (f : OpField) (c : Half) : (f.refuse c).busy = f.busy := rfl
@[simp] theorem OpField.refuse_result (f : OpField) (c : Half) : (f.refuse c).result = c := rfl
/-- A running operation that no command has taken over ends and shows its outcome. -/
@[simp] theorem OpField.finish_busy (f : OpField) (h : f.taken = none) : f.finish.busy = false := by
  unfold OpField.finish; split <;> simp_all
theorem OpField.finish_result (f : OpField) (h : f.busy = true) (k : f.taken = none) : f.finish.result = f.outcome := by
  unfold OpField.finish; rw [if_pos (by simp [h, k])]

/-! The host's port. -/

/-- A host access completes always: not decoded, held behind a release, put off behind what it must wait for, or performed
(R29, R260, R365, R430). -/
theorem hostAccess_cases (c : Instr) (s : State) :
    hostAccess c s = .next (answer .noDecode s) ∨ hostAccess c s = .next { s with heldHost := s.heldHost ++ [c] } ∨
      hostAccess c s = .next (deferCommand c s) ∨ hostAccess c s = .next (hostEffect c s) := by
  unfold hostAccess
  split
  · exact .inl rfl
  · split
    · exact .inl rfl
    · split
      · exact .inr (.inl rfl)
      · split
        · exact .inr (.inr (.inl rfl))
        · exact .inr (.inr (.inr rfl))

/-- The port performs an access when it is free and what the access reaches is. -/
theorem hostAccess_free (c : Instr) {s : State} (h : hostFree s = true) (w : accessWaits c s = false) :
    hostAccess c s = .next (hostEffect c s) := by
  unfold hostFree at h
  simp only [Bool.and_eq_true, Bool.not_eq_true'] at h
  obtain ⟨⟨a, b⟩, d⟩ := h
  simp [hostAccess, a, b, d, w]

end Sys2Proof.Machine
end

