-- ==== Sys2Proof/Tests/Slice0.lean ====
section
/-! SUPPORT. The model's own tests: operands that `Instr.wf` refuses, the worked examples of the spec, and for every
statement with hypotheses states and operands that meet them together, clause by clause (`test_meets_<statement>`). In each
namespace `s0` is the reset state, `s1` a module that answers its host with all units live, `ch s v` the state `s` with `v` as
its channel 0; `cw` and `mw` build words of a Machine.core and of a micro-program from their fields. -/
set_option Elab.async false
set_option linter.unusedVariables false

namespace Sys2Proof.Tests
open Sys2Proof Sys2Proof.Machine

theorem pair_eq {p : State × Bool} {b : Bool} (h : p.2 = b) : p = (p.1, b) := Prod.ext rfl h

theorem exactly_length (n : Nat) (bs : List Byte) : (exactly n bs).length = n := by
  simp [exactly]; omega

/-- Every bank of a state is legal where every listed one is. -/
theorem tabGet_of_all {α : Type} {p : α → Bool} {d : α} (hd : p d = true) :
    ∀ {t : Tab α}, (t.all fun e => p e.2) = true → ∀ k, p (tabGet d t k) = true
  | [], _, _ => hd
  | (i, v) :: t, h, k => by
    simp only [List.all_cons, Bool.and_eq_true] at h
    unfold tabGet
    split
    · exact h.1
    · exact tabGet_of_all hd h.2 k

def bankLegal (b : Bank) : Bool :=
  decide (b.debt ≤ 3) && (b.row0.all fun r => decide (r < 20480)) && b.row1.all fun r => decide (r < 20480)

theorem banksLegal_of {s : State} (h : (s.dram.channels.all fun c => c.2.banks.all fun b => bankLegal b.2) = true) :
    BanksLegal s := fun c b => by
  have h1 : bankLegal (bank (chan s c) b) = true :=
    tabGet_of_all (p := bankLegal) rfl (tabGet_of_all (p := fun v : Channel => v.banks.all fun b => bankLegal b.2) rfl h c) b
  simp only [bankLegal, Bool.and_eq_true, decide_eq_true_eq, Option.all_eq_true] at h1
  exact ⟨h1.1.1, h1.1.2, h1.2⟩


/-! The operands that a well-formed command may not have: one term for each check of `Instr.wf`, refused by it. -/
namespace IllFormed

theorem test_wf_act_row : (Instr.act 0 0 20480).wf = false := by decide
theorem test_wf_act_last_row : (Instr.act 0 0 20479).wf = true := by decide
theorem test_wf_embedding_entry : (Instr.embeddingLookup 3839 [0] 0 0 0 0 0 0 0).wf = false ∧
    (Instr.embeddingLookup 4095 [0, 1] 0 0 0 0 0 0 0).wf = false ∧ (Instr.embeddingLookup 3840 [] 0 0 0 0 0 0 0).wf = false ∧
    (Instr.embeddingLookup 3840 (List.replicate 9 0) 0 0 0 0 0 0 0).wf = false ∧
    (Instr.embeddingLookup 3840 [0] 0 0 0 0 0 0 114689).wf = false ∧ (Instr.embeddingLookup 4088 (List.replicate 8 0) 0 0 0 0 0
      0 114688).wf = true := by
  decide
theorem test_wf_expert_count : (Instr.expertSelect 0 0 0 0 0 8).wf = false ∧ (Instr.expertSelect 0 9 0 0 0 8).wf = false := by
  decide
theorem test_wf_expert_range : (Instr.expertSelect 0 2 8 0 0 8).wf = false ∧ (Instr.expertSelect 0 2 0 0 0 257).wf = false := by
      decide
theorem test_wf_flip_sector : (Instr.rd 0 0 0 false 0 [⟨8, 0⟩] []).wf = false := by decide
theorem test_wf_flip_bit : (Instr.rd 0 0 0 false 0 [] [⟨0, 320⟩]).wf = false := by decide
theorem test_wf_drone_flip : (Instr.droneRead 0 0 [⟨64, 0⟩] []).wf = false := by decide
theorem test_wf_reread_flip : (Instr.sectorReread 0 0 [⟨1, 0⟩] []).wf = false := by decide
theorem test_wf_granule_flips : (Instr.mvs 0 0 [⟨128, 0⟩]).wf = false ∧ (Instr.score 0 0 [⟨64, 0⟩]).wf = false ∧
    (Instr.value 0 0 [⟨64, 0⟩]).wf = false ∧ (Instr.pick 0 0 [⟨64, 0⟩]).wf = false ∧ (Instr.addback 0 0 [⟨64, 0⟩]).wf = false :=
      by
  decide
theorem test_wf_write_sectors : (Instr.wr 0 0 0 0 false []).wf = false := by decide
theorem test_wf_lanes : (Instr.argWrite 0 false 0 0 0 []).wf = false ∧ (Instr.posWrite 0 false 0 []).wf = false := by decide
theorem test_wf_store_source : (Instr.storeLoad 0 false 0 0 0 (.plan [])).wf = false ∧ (Instr.storeLoad 0 false 0 0 0 (.memory
      33)).wf = false := by decide
theorem test_wf_slice_wires : (Instr.sliceEnd 0 [328] true).wf = false := by decide
theorem test_wf_core_start : (Instr.coreStart 0 0 (List.replicate 9 0) 0 0).wf = false ∧ (Instr.coreStart 0 0 [] 0 256).wf =
      false := by
  decide
theorem test_wf_bar2_read : (Instr.bar2Read 0 0).wf = false ∧ (Instr.bar2Read 0 4097).wf = false := by decide
theorem test_wf_bar2_write : (Instr.bar2Write 0 [] false).wf = false := by decide
theorem test_wf_bar4_read : (Instr.bar4Read 0 0 [] []).wf = false := by decide
theorem test_wf_bar4_write : (Instr.bar4Write 0 [] false).wf = false := by decide
theorem test_wf_link_width : (Instr.linkTrained 3 1 true).wf = false := by decide
theorem test_wf_link_speed : (Instr.linkTrained 16 7 true).wf = false := by decide
theorem test_wf_register_alignment : (Instr.registerRead 0x000002 false).wf = false ∧ (Instr.registerRead 0x000004 true).wf =
      false ∧
    (Instr.registerWrite 0x000001 0 false false).wf = false := by
  decide
theorem test_wf_flit_type : Flit.wf { type := 16 } = false ∧ Flit.wf { op := 16 } = false ∧ Flit.wf { hops := 16 } = false := by
      decide
theorem test_wf_flit_numbers : (Flit.wf { seq := 4096 } || Flit.wf { ack := 4096 }) = false ∧ Flit.wf { dest := 65536 } = false
      := by
  decide
theorem test_wf_flit_counts : ([{ sectors := 8 }, { creditClass := 4 }, { credits := 2048 }] : List Flit).any Flit.wf = false :=
      by
  decide
theorem test_wf_flit_names : ¬(Flit.wf { src := 65536 } ∨ Flit.wf { tenant := 256 } ∨ Flit.wf { tag := 2 ^ 24 }) := by decide
theorem test_wf_flit_data : Flit.wf { data := List.replicate 8 0 } = false := by decide
theorem test_wf_flit_of_command : (Instr.hello 0 { type := 16 } 0).wf = false := by decide

end IllFormed

/-! Command words of a channel, bit by bit from the tables of chapters 04, 05 and 07. -/
namespace Words

/-- R75: ACT of row 10,000 of bank 9, RD of burst 5 with auto-precharge, WR of burst 3 with mask 0x81, PRE and REF. -/
theorem test_bank_words :
    channelCommand 0b000_01001_0_010011100010000 = .act 9 10000 ∧ channelCommand 0b001_01001_1_000000000000_101 = .rd 9 true 5 ∧
    channelCommand 0b010_00010_0_0000_10000001_011 = .wr 2 false 0x81 3 ∧
    channelCommand 0b011_11111_0000000000000000 = .pre 31 ∧ channelCommand 0b100_00001_0000000000000000 = .ref 1 := by
  decide

/-- R139: the six near-bank operations, the reserved ones, and MAIL_WRITE with ALL set. -/
theorem test_near_words :
    channelCommand 0b101_000_1_0000_0000_000000100 = .startPhrase true 0 4 ∧
    channelCommand 0b101_001_0_0011_00000000_0110_1 = .argWrite false 3 1 6 ∧
    channelCommand 0b101_010_0_0011_10_111_00001000 = .bcast false 3 2 7 8 ∧
    channelCommand 0b101_011_0_1111_100_0000000001 = .storeLoad false 15 4 1 ∧
    channelCommand 0b101_100_1_0000_0000000000000 = .posWrite true 0 ∧
    channelCommand 0b101_101_0_0100_000000000_1111 = .mailWrite 4 15 ∧
    channelCommand 0b101_101_1_0100_000000000_1111 = .ignored ∧ channelCommand 0b101_110_0_0100_0000000000000 = .ignored ∧
    channelCommand 0b101_111_0_0100_0000000000000 = .ignored := by
  decide

/-- R140: the four sources; the last burst of the saved state, and one past it. -/
theorem test_read_words :
    channelCommand 0b110_0100_00_0000_00000000_111 = .readOutput 4 7 ∧ channelCommand 0b110_0100_01_0000_00000000_000 =
      .readStatus 4 ∧
    channelCommand 0b110_0100_10_0000_10001111_000 = .readSavedState 4 143 ∧
    channelCommand 0b110_0100_10_0000_10010000_000 = .ignored ∧ channelCommand 0b110_0100_11_0000_00000000_000 = .readRelay 4 :=
      by
  decide

/-- R102: the six training operations and a reserved one. -/
theorem test_training_words :
    channelCommand 0b111_000_000000000_000000000 = .enterTrain ∧ channelCommand 0b111_001_101000111_111111111 = .patternWrite
      327 511 ∧
    channelCommand 0b111_010_000000001_000000010 = .patternRead 1 2 ∧ channelCommand 0b111_011_000000001_0_10000000 = .setDelay
      1 128 ∧
    channelCommand 0b111_100_100111111_000000_111 = .spareMap 319 7 ∧ channelCommand 0b111_101_000000000_000000000 = .exitTrain
      ∧
    channelCommand 0b111_110_000000000_000000000 = .ignored := by
  decide

/-- What a command's word says is what the command carries; a command with no word spells none. -/
theorem test_spelled_words :
    spelledWord (.act 7 9 10000) = some (channelCommand 0b000_01001_0_010011100010000) ∧
    spelledWord (.mailWrite 7 4 15) = some (channelCommand 0b101_101_0_0100_000000000_1111) ∧ spelledWord .dmaStart = none := by
  decide

end Words

/-! What the spec's own worked examples state, computed by the model. -/
namespace Examples

/-- Chapter 02, R38: the full words of the table. -/
theorem test_wide_words :
    encodeWide (.fin 1 0) = 0x0010000000000000 ∧ encodeWide (.fin (-1) 0) = 0x0030000000000000 ∧
    encodeWide (.fin 3 (-2)) = 0xFFD8000000000000 ∧ encodeWide (.inf false) = 0x8000000000000001 ∧
    encodeWide (.inf true) = 0x803FFFFFFFFFFFFF ∧ encodeWide .nan = 0x8000000000000002 := by
  decide +kernel

/-- Chapter 08, the root of squares: 0.75² + 1.5² is queued as 0x0056_8000_0000_0000. -/
theorem test_wide_word_of_squares : encodeWide (.fin 45 (-4)) = 0x0056800000000000 := by decide +kernel

def four (n : Nat) : Machine.Acc :=
  ([Val.fin 3 (-2), .fin 3 (-65), .fin 40 0, .fin (-40) 0].take n).foldl Acc.apply {}

/-- Chapter 02, four inputs: the third rounds the low unit away, and 0.75 is left. -/
theorem test_accumulator_of_four_inputs :
    (four 1).e = -1 ∧ (four 1).acc = 3 * 2 ^ 61 ∧ (four 2).acc = 3 * 2 ^ 61 + 1 ∧ (four 3).e = 5 ∧
    (four 4).e = 5 ∧ (four 4).acc = 3 * 2 ^ 55 := by
  decide +kernel

/-- Chapter 02, R48: exp(−3.5) is 0.0301973834. -/
theorem test_merge_exponential :
    toFp32 (expSub (.fin 2 0) (.fin 11 (-1))) = 0x3CF76081 := by
  decide +kernel

def entries16 : List Half :=
  [0xBA00, 0xB800, 0xB600, 0xB400, 0xB200, 0xB000, 0xAC00, 0x0000, 0x2C00, 0x3000, 0x3200, 0x3400, 0x3600, 0x3800, 0x3A00,
      0x3C00]
def sixteen : Codebook :=
  { cbId := 1, entriesLog2 := 4, entryFmt := 0, zeroIndex := 7, anchorIndex := 15, entries := entries16 }

def codeOf (v : Word) : Nat := (encodeCode sixteen 0x40200000 false .nearest (ofFp32 v)).code

/-- Chapter 03, one weight row in 4-bit codes: 2.5, −1.2, 0.3125, 0, 0.6, −2.0 and 1.5 under the scale 2.5. -/
theorem test_codes_of_a_row :
    codeOf 0x40200000 = 0xF ∧ codeOf 0xBF99999A = 0x1 ∧ codeOf 0x3EA00000 = 0x9 ∧ codeOf 0 = 0x7 ∧ codeOf 0x3F19999A = 0xB ∧
    codeOf 0xC0000000 = 0x0 ∧ codeOf 0x3FC00000 = 0xD := by
  decide +kernel

def spread8192 : State := { State.reset with spread.units := 8192 }
def whereIs (a : Nat) : Option (List Nat) :=
  (place spread8192 a).map fun p => [p.tile, p.channel, p.unit, p.bank, p.row, p.column]

/-- Chapter 05, addresses with all channels live. -/
theorem test_places :
    whereIs 0x1800 = some [3, 0, 0, 0, 0, 0] ∧ whereIs 0x01234560 = some [0, 37, 0, 1, 0, 43] ∧
    (place spread8192 0x1800).map globalUnit = some 3072 := by
  decide +kernel

/-- Chapter 09, token 27,513: section 0 of its row is at T7, CH54, NB04, bank row 10,000 of BK08. -/
theorem test_place_of_a_token :
    whereIs (2048 * (20000 * 8192 + 3439)) = some [7, 54, 4, 8, 10000, 0] ∧
    whereIs (2048 * (20001 * 8192 + 3439)) = some [7, 47, 2, 5, 10000, 0] := by
  decide +kernel

/-- Chapter 14, where a key lands: sector 16 of granule 0x23_5EEA_6000 is at T4, CH38, NB12. -/
theorem test_place_of_a_key : (place spread8192 (0x235EEA6000 + 0x200)).map (fun p => [globalUnit p, p.column]) = some [4716,
      16] := by
  decide +kernel

/-- Chapter 06, one error and two: symbol 5 disturbed by 3, then symbol 0 by 1 as well. -/
theorem test_outer_code :
    syndrome (3 <<< 20) 0 = ⟨3, 0xA, 9, 0⟩ ∧ decodeWord (3 <<< 20) 0 = .corrected 0 ∧
    syndrome (3 <<< 20 ||| 1) 0 = ⟨2, 0xB, 8, 0⟩ ∧ decodeWord (3 <<< 20 ||| 1) 0 = .uncorrectable := by
  decide +kernel

def weights : State :=
  { spread8192 with tables.allocs := [(0x12, { valid := true, base := 0x01000000, size := 0x400000, readOnly := true })] }

/-- Chapter 06, a weight sector that fails: its entry, with FOUND_BY 01. -/
theorem test_poison_entry :
    tabGet 0 (poisonAdd 0x01234560 1 weights).1.protect.table 0 = 0xD000120001234560 := by
  decide +kernel

/-- Chapter 06, R131: UNCORRECTABLE of CH37 in T0 is at 0x49_0958. -/
theorem test_uncorrectable_offset :
    regRead { State.reset with dram.channels := [(37, { uncorrectable := 5 })] } 0x490958 % 2 ^ 32 = 5 := by
  decide +kernel

/-- Chapter 10, R214: CORE_STATUS of DC07 in T2 is at 0x60_11C0; chapter 16, R335: BALANCE of tenant 9 is at 0x10_124C. -/
theorem test_register_offsets :
    regRead { State.reset with dense.cores := [(39, { busy := true })] } 0x6011C0 / 2 % 2 = 1 ∧
    regRead { State.reset with tenancy.tenants := [(9, { valid := true, balance := 6 })] } 0x101248 / 2 ^ 32 = 6 := by
  decide +kernel

def phrase : Nat := 0x0440020007800000
def stream : Nat := 0x4040004000000000

/-- Chapter 08, the words of a matrix–vector product. -/
theorem test_micro_words :
    bits phrase 63 58 = 1 ∧ bits phrase 57 47 = 128 ∧ bits phrase 46 39 = 4 ∧ bits phrase 38 23 = 0x000F ∧
    bits stream 63 58 = 16 := by
  decide +kernel

def conv : BitVec 512 := BitVec.ofNat 512 (leValue (([0x0123400000160200, 0x0401100000000000, 0x4110000005000030, 0x1000,
  0x0004000000000000, 1, 0x30, 0] : List Quad).map quadBytes).flatten)

/-- Chapter 12, a convolution read: the extent of its window, its checks, and elements inside and outside. -/
theorem test_convolution :
    (decodeDesc conv).alloc = 0x04011 ∧ (decodeDesc conv).extent (decodeDesc conv).win0 = 4096 ∧
    (decodeDesc conv).strictOk = true ∧ (decodeDesc conv).elementOffset [7, 3, 10] = some 583 ∧
    (decodeDesc conv).byteAddress 583 = 0x012340048E ∧ (decodeDesc conv).elementOffset [0, 4, 4095] = none := by
  decide +kernel

def a07 : Record :=
  { code := 0x5019, subject := 0x0107, severity := .warning, type := .event, repeats := 12, seq := 1002, powerCycle := 0
    stamp := 0x04D28000, folded := 0, lastStamp := 0, reporter := 0x0107, detail := 0, lastDetail := 0, foldedCode := 0 }

/-- Chapter 20, a repeat after the snapshot: words 0 and 2 of the record. -/
theorem test_record_words :
    (recordWords a07)[0]? = some 0x501901074000000C ∧ (recordWords a07)[2]? = some 0x000004D280000000 := by
  decide +kernel

end Examples


/-! The statements about every command and every state: states and commands that meet what they assume. -/
namespace EveryCommand

def twoWaiting : State := { State.reset with pending := [.entropyFail, .linkDown] }
def awake : State := { State.reset with start.state := 5 }

theorem test_meets_StepRunsFrontCommand_0 : twoWaiting.pending = Instr.entropyFail :: [.linkDown] := rfl
theorem test_meets_StepRunsFrontCommand_1 : awake.pending = [] ∧ luthierRuns awake = true ∧ 5 ≤ awake.start.state := by
      decide +kernel
theorem test_meets_StepRunsFrontCommand_2 : State.reset.pending = [] ∧ luthierRuns State.reset = false := by decide +kernel
theorem test_meets_StepKeepsStores : Machine.Inv awake ∧ ∃ t, step awake = .next t := by
  refine ⟨by unfold Machine.Inv; decide +kernel, _, rfl⟩
theorem test_meets_BanksStayLegal : BanksLegal State.reset ∧ bankCommand (.refreshDue 0 0 false) = true ∧
    ∃ t, exec (.refreshDue 0 0 false) State.reset = .next t :=
  ⟨banksLegal_of (by decide +kernel), by decide, _, rfl⟩
theorem test_meets_RecorderStaysBounded : State.reset.lut.aggregates.length ≤ 64 ∧ State.reset.log.ring.length ≤ 4096 ∧
    ∃ t, exec (.report 0x5020 0x0100 0x0100 0) State.reset = .next t :=
  ⟨by decide +kernel, by decide +kernel, _, rfl⟩

def open' : State := { State.reset with port.ready := true }
theorem allocsDisjoint_of_none {s : State} (h : s.tables.allocs = []) : AllocsDisjoint s := by
  intro i j a b _ ha
  simp [h, tabFind?] at ha
theorem test_meets_AllocationsStayDisjoint : AllocsDisjoint open' ∧ hostFree open' = true ∧
    ∃ t, exec .allocCreate open' = .next t :=
  ⟨allocsDisjoint_of_none rfl, by decide +kernel, _, rfl⟩

def withTenant : State := { State.reset with tenancy.tenants := [(9, { valid := true })] }
theorem test_meets_TenantWindows : (9 ≠ 0 ∧ (tenantOf withTenant 9).valid = true) ∧ (8 ≠ 0 ∧ (tenantOf withTenant 8).valid =
      false) := by
  decide +kernel

/-- A command of the queue is run, and the rest waits. -/
theorem test_step_takes_front : (match step twoWaiting with | .next t => t.pending | _ => []) = [.linkDown] := by decide +kernel
/-- An idle microsecond of a running module (entry 3 of the log). -/
theorem test_idle_step : (match step awake with | .next t => t.us | _ => 0) = awake.us + 1 := by decide +kernel

end EveryCommand


/-! The clauses of the statements. -/
def s0 : State := {}
def live : Channel := { live := true }
def ch (s : State) (v : Channel) : State :=
  { s with dram.channels := [(0, v), (5, { v with failed := true }), (9, { live := true })] }
def s1 : State := { s0 with spread.units := 8192, port.ready := true, start.state := 7 }
def cdecl : CacheDecl :=
  { layers := 1, heads := 1, qheads := 2, pages := [⟨0, 0, 8, 0⟩, ⟨0, 0, 8, 0⟩], minWindow := 4, decode := [false],
    pageBytes := 8192, headerBytes := 640, sequences := 4, maxBlocks := 4, blocks := 8, attnFactor := 0, ssegBase := 2,
    phrases := [], reserve := 0 }
def mf : Manifest :=
  { format := 1, builtL := 8192, tenant := 0, serves := true, compat := false, phrases := false, reservedZero := true,
    mpBase := 0, mpWords := 0, cbMask := 0, tableMask := 0, freq := false, scaleBase := 0, scaleWords := 0, lbBase := 0,
    lbSectors := 0, destBase := 0, destCount := 0, adapterSlots := 0, imBase := 0, imCount := 0, coreMask := 0, allocs := [],
    segments := [] }
def b1 : State := ch { s1 with near.directory := [(3, BitVec.ofNat 64 (2^63 + 100*2^52 + 5*2^44))] }
      { live with banks := [(0, { row0 := some 4 })] }
def osr (n : Nat) : List OutSector := (List.range n).map fun i =>
      { tag := BitVec.ofNat 32 i, sector := ⟨BitVec.ofNat 256 i, i % 2 == 1⟩ }
def wb (ws : List Nat) : Mem := memWriteL [] 0 ((ws.map fun w => leBytes 8 w).flatten)
def mw (op : Nat) (fs : List (Nat × Nat)) : Nat := op * 2^58 + sumNat (fs.map fun f => f.1 * 2 ^ f.2)
def r0 : PhraseRun := { pc := 0, cycles := 2000, outSectors := 40 }
def un (v : Machine.Unit) : State :=
  { ch s1 { live with banks := [(0, {row0 := some 4, row1 := some 5}), (1, {row0 := some 4, row1 := some 5})] } with near.units := [(0, v), (1, { v with run := none }), (143, { fenced := true })] }
def xs2 : List Word := [0, 4, 20480, 40960, 9, 64, 1, 2, 9, 0x10000, 8, 6, 7]
def u0 (w : Nat) (x : List Word) : State := setStored (sectorOf 0 0 4 1) (5 ^^^ 1) (encodeChecks 5) (setStored (sectorOf 0 0 4
      2) (5 ^^^ 33) (encodeChecks 5) (un
      { micro := wb [w], run := some { r0 with cycles := 2000 }, x := x, lb := [(0, 4), (40, 3), (32*7+1, 9), (32*8+20, 4)], lbMarks := [8], act := [(3, 7)], log2k := 1, mail := [(3, { valid := true, data := 77 })], positions := [1,2,3,4,5,6,7,8] }))
def bad : List Word := [0, 20480, 0, 0, 0, 0,0,0,0,0,0,0,0]
def img : Image := { version := 1, manifest := mf, allocs := [0], descs := [], decls := [.cache cdecl, .vocabulary 100] }
def sI : State :=
  { s1 with load.images := [(0, img)],
            tables.allocs := [(0, { valid := true, base := 0x100000, size := 0x100000, image := some 0 })], kv.total := 8 }
def sl : State := { ch sI live with dram.channels := (List.range 512).map fun k => (k, { live := true }) }
def sx (i : Nat) (p : Bool := false) : Sector := ⟨BitVec.ofNat 256 (0x3F800000 * (i+1) + 5 * 2 ^ 64 + i * 2^128 + 0x40000000 * 2
      ^ 192), p⟩
def dw (mode fmt home sect copies row slot : Nat) (w1 w2 w3 : Nat) : List Quad := [BitVec.ofNat 64 (mode * 2^60 + fmt * 2^58 +
      home * 2^53 + sect * 2^46 + row * 2^43 + slot*2^39 + copies * 2^30), BitVec.ofNat 64 w1, BitVec.ofNat 64 w2, BitVec.ofNat
      64 w3]
def own : Owner :=
  { dest := [(0, dw 0 0 0 3 0 0 0 0 0 0), (1, dw 1 0 0 3 0 0 0 0x8000 0 0), (2, dw 2 0 0 3 0 0 0 0 (0x40000000 * 2^32 + 4) 0), (3, dw 5 0 0 1 0 0 0 0 5 0x40), (4, dw 6 0 0 1 0 0 0 0x10000 0 (5 * 2 ^ 52 + 0x80)), (5, dw 7 0 0 1 0 0 0 0 0 (4 * 2 ^ 52)), (6, dw 3 0 0 3 0 0 0 0 (0x40000000 * 2^32 + 4) 0), (7, dw 4 0 0 3 0 1 2 0 (0x40000000 * 2^32 + 4) 0)],
    codebooks := [(520*2+513, 5), (520*2+2, 1), (520*2+3, 0x3C)],
    routing := [(0, (2 : BitVec 128) * 2 ^ 19 + 7 * 2^35), (3, (2 : BitVec 128) * 2 ^ 19 + 7 * 2^35)],
    positions := [0,0,0,0,0,0,0,0] }
def part (n : Nat) : Partial := ⟨({} : Machine.Acc).apply (.fin n 0), false⟩
def one (k : Nat) (v : Int) : Tab Machine.Acc := [(k, ({} : Machine.Acc).apply (.fin v 0))]
def red (n w : Nat) (o : Nat := 1) (m : Bool := false) : Reduction := { number := n, width := w, isMax := m, owed := o }
def col : Collector :=
  { accs := one 4 3, reductions := [red 1 100], partials := [(5, part 3), (70, part 5)],
    blocks := [(3, [(0, sx 0), (1, sx 1)]), (4, [(0, sx 0), (1, sx 1)]), (5, [(0, sx 0), (1, sx 7)])],
    bursts := [(3*16, (List.range 8).map fun i => (i, sx i))] }
def st (s : State) : State :=
  { s with near.owners := [(0, own)],
           near.collectors := [(0, col), (2, { col with allPoisoned := true, reductions := [red 1 70] })] }
def os (tag : Nat) (i : Nat := 3) (p : Bool := false) (plan : TagPlan := {}) : OutSector :=
  { tag := BitVec.ofNat 32 tag, sector := sx i p, reduction := 1, plan := plan }
def maxed : Collector := { col with accs := [], reductions := [red 1 100 1 true], maxes := [(4, ⟨.fin 3 0, false⟩)] }
def held (s : State) : State :=
  { s with dram.channels := (List.range 512).map fun k => (k, { live := true, holds := (List.range 16).map fun i => (i, 9) }) }
def cw (op : Nat) (ra rb rc rnd sub imm ext : Nat) : Nat := op * 2^120 + ra * 2^115 + rb * 2^110 + rc*2^105 + rnd * 2^103 +
      sub*2^96 + imm * 2^64 + ext
def co (w : Nat) (c : Core := {}) : Core :=
  { c with imem := memWriteL [] 0 (leBytes 16 w), busy := true,
           regs := (0 :: (List.range 31).map fun i => if i < 8 then BitVec.ofNat 32 (256 * i) else 0),
           counters := [5,0,0,0,0,0,0,0], codebooks := [(520*1+513, 5), (520*1+2, 1)], owed := [(1, 4)] }
def sc : Scratch := { bytes := memWriteL [] 0 ((List.range 40).map fun i => BitVec.ofNat 8 (3*i+1)), marks := [1] }
def cs (w : Nat) (c : Core := {}) : State :=
  { ch s1 live with dense.cores := [(0, co w c), (17, { busy := false }), (18, { fenced := true })], scratch := sc,
                    dram.channels := (List.range 512).map fun k => (k, { live := true }) }
def dd (b : Nat) (fmt : Nat := 0) : BitVec 512 := BitVec.ofNat 512 (b * 2^24 + fmt * 2 ^ 20 + 1 * 2^17 + 3 * 2^9 + 1 * 2 ^ 7 + 4
      * 2^128)
def listByte3 : List Byte := List.replicate 32 7
def T (t : Nat) : Tenant := { valid := true, lcAllowed := true, balance := 1000 }
def hubSram1 : HubSram := ⟨0, false⟩
def hubSram3 : HubSram := ⟨0, true⟩
def w00 (q t be ad dr irq : Nat) : Quad := BitVec.ofNat 64 (q*2^48 + t*2^40+be*2^39+ad*2^28+dr*2^24+irq*2^22)
def wsl (n mx : Nat) (q : Nat := 1) (be : Nat := 0) (dr : Nat := 0) (dl : Nat := 0) (bias : Nat := 0) : List Quad := [w00 q 3 be
      0x7FF dr 0, BitVec.ofNat 64 (mx+ dl*2^32), 0x1000, BitVec.ofNat 64 (n*2^32+bias*2^9), 0x2000, 0x3000, 0x4000,
      0x000000003F800000, 0x000000003F800000, 0,0,0]
def rq (f : Request → Request) (s : State) (i : Nat := 2) : State :=
  { s with serve.requests := tabPut s.serve.requests i (f { words := wsl 4 10, armUs := 5 , prompt := [1,2,3,4], promptRead := some true, biasRead := some true }) }
def cfg : ConfigImage :=
  { format := 1, node := 5, serial := 77, order := 0, alignDefault := 0, thermal := 0, dcClock := 0, channelMap := [],
    releaseMask := [], operatorKey := 0, imageKeys := [(0, true)], links := [], routes := [], reservedZero := true }
def ck : SigChecks := ⟨true, true, true⟩
def hdr (kind : Nat) (seg : Nat := 64) : SignedHdr :=
  { kind := kind, keyIndex := 0, svn := 1, version := 3, length := 64, segLength := seg, keysDigest := 0 }
def seg1 : Segment :=
  { kind := 1, target := 0, offset := areaStart (hdr 4), length := 32, hashOk := true, bytes := List.replicate 32 9,
    decls := [], declsOk := true }
def am : Manifest :=
  { mf with allocs := [{ base := 0, size := 64, scratch := false, tenant := 3, isSealed := false, readOnly := false }],
            segments := [seg1], tenant := 3 }
def iobj (kind : Nat) (m : Manifest := am) : ImageObject :=
  { hdr := hdr kind, checks := ck, length := objectLength (hdr kind), manifest := m }
def imageObject1 : ImageObject := iobj 5
def F (ty op : Nat) (f : Flit → Flit := id) : Flit := sealFlit <| f
      { type := ty, op := op, dest := 1, src := 3, tag := 9, sectors := 0 }
def lk : Link := { state := .up, enabled := true, peerNode := 3, peerLink := 9, credits := ⟨8,8,8⟩ }
def win (sc : Bool) : WindowDecl :=
  { base := 0, size := 256, scratch := sc, tenant := 0, read := true, write := true, atomic := sc }
def cd (mx : Bool) (id : Nat) (fmt : Nat) : CollDecl :=
  { id := id, width := 8, isMax := mx, format := fmt, members := [1,3],
    slices := [{ first := 0, home := 1, parent := 1, stage := 0, children := [3] }], maxPath := 1 }
def cc (f : Coll → Coll := id) (id : Nat := 2) (fmt : Nat := 0): Coll := f { image := 0, decl := cd false id fmt }
def fb (k : Link := lk) (f : State → State := id) : State := f
      { s1 with fabric.node := 1, fabric.links := [(0, k), (5, { state := .down })], fabric.routes := [(3, 2^63), (4, 2^63)], fabric.inbound := [⟨0, win false⟩, ⟨0, win true⟩], fabric.rreadTag := some 9, order.releases := [{ agent := .host, scope := .system, awaiting := [(3,9),(4,1)] }], fabric.colls := [(2, cc), (3, cc id 3 1)], dram.channels := (List.range 512).map fun k => (k, { live := true }), scratch := sc }
def fwo (svn : Nat := 1) : FirmwareObject := { hdr := { hdr 1 with svn := svn }, checks := ck }
def nv : Nvm :=
  { fuseKeys := [(0, false)], slotA := { object := some (fwo), updateSeq := 4 },
    config := some { hdr := hdr 2, checks := ck, image := cfg }, serial := 77 }
def lr : State :=
  { s1 with start := { state := 10, config := some cfg }, nvm := nv,
            lut := { entropyOk := true, mboxArg1 := 0xFFFFFFFF, opHours := BitVec.ofNat 48 (24*65536) },
            supply := { feedA := { accepted := true }, feedB := { accepted := true }, sampled := true },
            port := { ready := true, busMasterEnable := true, linkUp := true } }

namespace Banks

def ch (s : State) (v : Channel) : State :=
  { s with dram.channels := [(0, v), (5, { v with failed := true }), (511, { live := true })] }
def bk : Tab Bank := [(0, { row0 := some 4, row1 := some 7, lastHalf := 1, debt := 3 }), (31,
      { row0 := some 20478, debt := 1 })]
def state1 : State := ch s0 live
def state2 : State := ch s0 { live with banks := bk }
theorem test_meets_BankCommands :
    (20480 ≤ BitVec.toNat (20480 : BitVec 15)) ∧
    (bankReady state1 0 0 = true ∧ BitVec.toNat (0 : BitVec 15) < 20480) ∧
    (bankReady state1 0 0 = true) ∧
    (bankFree state2 0 0 = true ∧ (bank (chan state2 0) 0).debt ≠ 0) ∧
    ((chan state1 0).live = true ∧ (chan state1 0).failed = false ∧ doubled state1 0 = false) ∧
    ((chan state1 0).live = true ∧ (chan state1 0).failed = false ∧ (false = true → doubled state1 0 = true)) :=
  by refine ⟨?_, ?_, ?_, ?_, ?_, ?_⟩ <;> decide +kernel
end Banks

namespace Bursts

def bk : Tab Bank := [(0, { row0 := some 4, row1 := some 7, lastHalf := 1, debt := 2 }), (31,
      { row0 := some 20478, debt := 1 })]
def base : State :=
  { s0 with dram.bytes := [(32*449+3, 9), (32*450+3, 9), (32*448+8*1024+1, 1)] , dram.checks := [(448, 0xFFFF), (449, 7)],
            protect.table := [(0, 0x8000000000000000)], lut.opHours := 400000 }
def base' : State :=
  { (setStored 448 5 (encodeChecks 5) (setStored 449 (5 ^^^ 1) (encodeChecks 5) (setStored 450 (5 ^^^ 33) (encodeChecks 5) base))) with spread.nextGroup := 1, spread.toSlice := [0, 9] }
def state1 : State := ch base live
def state3 : State := ch base' { live with banks := bk }
def state4 : State := ch base' { live with banks := bk, holds := [(1, 100)], slicing := true, spares := [(1, 3)] }
def state5 : State := ch { base' with start.starting := true }
      { live with banks := bk, slicing := true, inTrain := true, delays := [(0, 4)], dieInner := 5, spares := [(0, 1)] }
def copy1 (n : Nat) : MapCopy := let m : MapCopy := { sequence := n, format := 1, count := 0, mask := [], crc := 0 }
      { m with crc := crc32 (mapBytes m) }
def state6 : State :=
  { (ch base' { live with banks := bk }) with nvm.map0 := [copy1 9], nvm.map1 := [copy1 3], lut.eraseMap := true,
                                              start.state := 8 }
def state7 : State :=
  { state6 with nvm.map0 := [copy1 2, { copy1 12 with crc := 0 }], lut.eraseMap := true, spread.toSlice := [0, 9] }
def listSector1 : List Sector := List.replicate 8 .zero
/-- Hypotheses of `Obligations.Bursts`. -/
theorem test_meets_ReadBurst :
    ((chan state1 5).failed = true) ∧
    (bankReady state3 0 0 = true ∧ Option.any (fun row => decide (row < 20480)) (openRow (bank (chan state3 0) 0)) = true) :=
  ⟨by decide +kernel,
   by decide +kernel⟩
/-- Hypotheses of `Obligations.Bursts`. -/
theorem test_meets_WriteBurst : Machine.Inv state3 ∧ bankReady state3 0 0 = true ∧ (Option.any (fun row => decide (row < 20480 ∧
      listSector1.length = 8)) (openRow (bank (chan state3 0) 0)) = true) :=
  by unfold Machine.Inv; decide +kernel
/-- Hypotheses of `Obligations.TrainingAndRetuning`. -/
theorem test_meets_TrainingCommands :
    (((chan state4 0).slicing = true ∨ state4.start.starting = true ∧ (chan state4 0).mappedOut = false)) ∧
    ((chan state5 0).inTrain = true) ∧
    ((chan state5 0).inTrain = true) ∧
    ((chan state5 0).inTrain = true) :=
  by refine ⟨?_, ?_, ?_, ?_⟩ <;> decide +kernel
/-- Hypotheses of `Obligations.TrainingAndRetuning`. -/
theorem test_meets_RetuningCommands :
    (6 ≤ state6.start.state) ∧
    (0 ∈ state3.spread.toSlice ∧ channelReady state3 0 = true) ∧
    ((chan state4 0).slicing = true ∧ (List.foldl setInsert [] []).length ≤ 8) ∧
    ((chan state4 0).slicing = true ∧ (8 < (List.foldl setInsert [] []).length ∨ false = false)) :=
  by refine ⟨?_, ?_, ?_, ?_⟩ <;> decide +kernel
/-- Hypotheses of `Obligations.TrainingAndRetuning`. -/
theorem test_meets_ChannelFails : (chan state1 0).live = true ∧ (chan state1 0).failed = false :=
  by decide +kernel
/-- Hypotheses of `Obligations.TrainingAndRetuning`. -/
theorem test_meets_MapRegionErased :
    (luthierRuns state7 = true ∧ state7.lut.eraseMap = true ∧ (Option.any (fun a => decide (Option.any (fun b => decide
      (a.sequence < b.sequence ∧ flashOk 0 state7 = true)) (inForce state7.nvm.map1) = true)) (inForce state7.nvm.map0) = true))
      ∧
    (luthierRuns state6 = true ∧ state6.lut.eraseMap = true ∧ (Option.any (fun a => decide (Option.any (fun b => decide
      (b.sequence ≤ a.sequence ∧ flashOk 1 state6 = true)) (inForce state6.nvm.map1) = true)) (inForce state6.nvm.map0) = true))
      :=
  ⟨by decide +kernel,
   by decide +kernel⟩
end Bursts

namespace Stored

def sec (a : Nat) : Nat := ((place s1 a).map (·.sector)).getD 0
def st0 : State := (setStored (sec 2048) 5 (encodeChecks 5) (setStored (sec 0) (5 ^^^ 1) (encodeChecks 5) (setStored (sec 32) (5
      ^^^ 33) (encodeChecks 5) (setStored (sec 64) 0 (BitVec.allOnes 64) s1))))
def st1 : State :=
  { st0 with dram.rereads := [⟨sec 0, 0⟩, ⟨sec 32, 1⟩, ⟨sec 2048, 2⟩, ⟨sec 64, 2⟩],
             protect.table := [(0, 0xC000000000000000), (2, BitVec.ofNat 64 (2^63 + 2048))],
             protect.fills := [⟨false, 0, 2048⟩, ⟨false, 4096, 2048⟩], lut.opHours := 400000 }
def noRereads (s : State) : State := { s with dram.rereads := [] }
def state1 : State := ch st1 live
def state3 : State := ch st1 { live with droneAt := 655359, droneRewritten := 1025, dronePairs := [] }
def state4 : State := { noRereads (ch st1 live) with protect.repairAddr := 3, protect.repairData1 := 5 }
def state5 : State := { noRereads (ch st1 live) with protect.repairAddr := 2048 }
def state6 : State := { noRereads (ch st1 live) with protect.repairAddr := 4096 }
def state7 : State := { ch st1 live with protect.repairAddr := 0xFFFFFFFFFF }
def state8 : State := { st1 with dram.channels := (List.range 512).map fun k => (k, {live := true, failed := true}) }
def state9 : State := { noRereads (ch st1 live) with protect.repair := { busy := true } }
def listBitFlip1 : List BitFlip := []
def fill1 : Fill := ⟨false, 0, 2048⟩
def listFill1 : List Fill := [⟨false, 4096, 2048⟩]
theorem test_meets_SpreadingIsOneToOne : state1.spread.units = liveUnitCount state1.spread.applied ∧ Option.any (fun p => decide
      (Option.any (fun q => decide (p.sector = q.sector)) (place state1 0) = true)) (place state1 0) = true :=
  by decide +kernel
theorem test_meets_OuterCodeCorrectsOneSymbol :
    ((1 : BitVec 4) ≠ (0 : BitVec 4) ∧ 0 < 16) ∧
    ((1 : BitVec 4) ≠ (0 : BitVec 4) ∧ 0 < 4) :=
  ⟨by decide +kernel,
   by decide +kernel⟩
theorem test_meets_PoisonCodeword :
    (Machine.Inv state1 ∧ (chan state1 (chanOfSector 0)).failed = false ∧ Sector.poisoned.poison = true ∧ 0 < 4) ∧
    (isPoisonWord (0 : BitVec 256) (18446744073709551615 : Quad) 0 = true ∧ 0 < 1 ∧ 1 < 4 ∧ isPoisonWord (0 : BitVec 256)
      (18446744073709551615 : Quad) 1 = true) ∧
    ((chan state1 (chanOfSector 2)).failed = false ∧ openWires (chan state1 (chanOfSector 2)) = [] ∧ isPoisonWord (storedData
      state1 2) (storedChecks state1 2) 0 = true ∧ 0 < 1 ∧ 1 < 4 ∧ isPoisonWord (storedData state1 2) (storedChecks state1 2) 1
      = true) :=
  ⟨by unfold Machine.Inv; decide +kernel,
   by decide +kernel,
   by decide +kernel⟩
theorem test_meets_SectorReadAfterWrite :
    (Machine.Inv state1 ∧ (chan state1 (chanOfSector 0)).failed = false ∧ openWires (chan state1 (chanOfSector 0)) = []) ∧
    (1 ≠ 0) ∧
    ((chan state8 (chanOfSector 0)).failed = true) :=
  ⟨by unfold Machine.Inv; decide +kernel,
   by decide +kernel,
   by decide +kernel⟩
/-- Hypotheses of `Obligations.StoredDataCommands`. -/
theorem test_meets_SecondRead :
    (Option.any (fun x => decide ((chan state8 (chanOfSector x.sector)).failed = true)) state8.dram.rereads[0]? = true) ∧
    ((Option.any (fun x => decide (bankFree state1 (chanOfSector x.sector) (bankOfSector x.sector) = true ∧ (sectorOnWires
      listBitFlip1 listBitFlip1 x.sector 0 state1).uncorrectable = false ∧ (sectorOnWires listBitFlip1 listBitFlip1 x.sector 0
      state1).sector.poison = false)) state1.dram.rereads[0]? = true)) ∧
    ((Option.any (fun x => decide (bankFree state1 (chanOfSector x.sector) (bankOfSector x.sector) = true ∧ (sectorOnWires
      listBitFlip1 listBitFlip1 x.sector 0 state1).uncorrectable = false ∧ (sectorOnWires listBitFlip1 listBitFlip1 x.sector 0
      state1).sector.poison = true)) state1.dram.rereads[3]? = true)) ∧
    (Machine.Inv state1 ∧ (Option.any (fun x => decide (bankFree state1 (chanOfSector x.sector) (bankOfSector x.sector) = true ∧
      (sectorOnWires listBitFlip1 listBitFlip1 x.sector 0 state1).uncorrectable = true)) state1.dram.rereads[1]? = true)) :=
  ⟨by decide +kernel,
   by decide +kernel,
   by decide +kernel,
   by unfold Machine.Inv; decide +kernel⟩
/-- Hypotheses of `Obligations.StoredDataCommands`. -/
theorem test_meets_DroneCommands :
    (Machine.Inv state1 ∧ (droneNext (chan state1 9)).fst < 32 ∧ (droneNext (chan state1 9)).snd < 20480 ∧ bankReady state1 9
      (droneNext (chan state1 9)).fst = true ∧ (chan state1 9).dronePairs = [] ∧ (chan state1 9).droneAt + 1 < 655360 ∧
      openWires (chan state1 9) = []) ∧
    ((droneNext (chan state3 0)).fst < 32 ∧ (droneNext (chan state3 0)).snd < 20480 ∧ bankReady state3 0 (droneNext (chan state3
      0)).fst = true ∧ (chan state3 0).dronePairs = [] ∧ (chan state3 0).droneAt + 1 = 655360) ∧
    ((chan state1 0).live = true ∧ (chan state1 0).patrolLate = false ∧ BitVec.toNat (chan state1 0).patrolStart + 6 * 65536 ≤
      BitVec.toNat state1.lut.opHours) :=
  ⟨by unfold Machine.Inv; decide +kernel,
   by decide +kernel,
   by decide +kernel⟩
/-- Hypotheses of `Obligations.StoredDataCommands`. -/
theorem test_meets_FreeFill : fill1.base % 2048 = 0 ∧ fill1.size % 2048 = 0 ∧ state1.protect.fills = fill1 :: listFill1 :=
  by decide +kernel
/-- Hypotheses of `Obligations.StoredDataCommands`. -/
theorem test_meets_RepairOperation :
    (hostFree state9 = true ∧ accessWaits Instr.repairGo state9 = false ∧ state9.protect.repair.busy = true) ∧
    (hostFree state5 = true ∧ accessWaits Instr.repairGo state5 = false ∧ state5.protect.repair.busy = false ∧ repairCheck
      state5 ≠ (0 : Half)) ∧
    (hostFree state7 = true ∧ accessWaits Instr.repairGo state7 = false ∧ place state7 state7.protect.repairAddr.toNat = none) ∧
    (hostFree state8 = true ∧ accessWaits Instr.repairGo state8 = false ∧ Option.any (fun p => decide ((chan state8
      (globalChannel p)).failed = true)) (place state8 state8.protect.repairAddr.toNat) = true) ∧
    (hostFree state6 = true ∧ accessWaits Instr.repairGo state6 = false ∧ (Option.any (fun p => decide ((chan state6
      (globalChannel p)).failed = false ∧ poisonEntry? state6.protect.repairAddr.toNat state6 = none)) (place state6
      state6.protect.repairAddr.toNat) = true)) ∧
    (hostFree state4 = true ∧ accessWaits Instr.repairGo state4 = false ∧ (Option.any (fun p => decide ((chan state4
      (globalChannel p)).failed = false ∧ (poisonEntry? state4.protect.repairAddr.toNat state4).isSome = true)) (place state4
      state4.protect.repairAddr.toNat) = true)) ∧
    (hostFree state4 = true ∧ accessWaits Instr.repairGo state4 = false ∧ Machine.Inv state4 ∧ (place state4
      state4.protect.repairAddr.toNat).any (fun p => decide (openWires (chan state4 (globalChannel p)) = [] ∧
      state4.protect.repair.busy = false ∧ repairCheck state4 = 0 ∧ p.sector / 64 / 20480 / 32 = globalChannel p ∧ sectorAddress
      state4 p.sector = some (state4.protect.repairAddr.toNat / 32 * 32))) = true) :=
  ⟨by decide +kernel,
   by decide +kernel,
   by decide +kernel,
   by decide +kernel,
   by decide +kernel,
   by decide +kernel,
   by unfold Machine.Inv; decide +kernel⟩
end Stored

namespace Recorder

def ag (c s : Half) (v : Severity) : Aggregate :=
  { code := c, subject := s, reporter := 0, severity := v, repeats := 3, folded := 0, foldedCode := 0, stamp := 1,
    lastStamp := 2, detail := 5, lastDetail := 7 }
def rc (c : Half) (v : Severity) (q : Word) : Record :=
  { code := c, subject := 0, severity := v, type := .event, repeats := 1, seq := q, powerCycle := 0, stamp := 0, folded := 0,
    lastStamp := 0, reporter := 0, detail := 0, lastDetail := 0, foldedCode := 0 }
def a1 : State := { s1 with lut.aggregates := [ag 0x3010 1 .error, ag 0x5001 1 .warning], lut.opHours := 77 }
def ringFull : List RingEntry := (List.range 4096).map fun i => ⟨rc 0x3010 .fatal (BitVec.ofNat 32 i), false⟩
def state1 : State := { a1 with log.ring := ringFull, log.nextSeq := 4096 }
def state2 : State :=
  { a1 with log.ring := [⟨rc 0x3010 .error 5, true⟩, ⟨rc 0x3010 .info 6, false⟩], log.nextSeq := 7, log.flushWaiting := true,
            log.cursor := 6 , lut.bootSample0 := 0x10}
def state3 : State :=
  { a1 with log.ring := [⟨rc 0x3010 .error 5, true⟩, ⟨rc 0x3010 .info 6, false⟩], log.nextSeq := 7, log.flushWaiting := true,
            lut.bootSample0 := 0x8000, log.cursor := 9 }
def state4 : State :=
  { a1 with log.ring := [⟨rc 0x3010 .error 5, true⟩, ⟨rc 0x3010 .info 6, false⟩], log.nextSeq := 7, log.flushing := some [6] }
def record1 : Record := rc 0x3010 .info 0
/-- Hypotheses of `Obligations.ReportsAndRecords`. -/
theorem test_meets_ReportAggregates :
    (severityOf (8194 : Half) = none) ∧
    (Option.any (fun sev => decide (a1.lut.aggregates.any (matchAgg (12304 : Half) (1 : Half)) = true)) (severityOf (12304 :
      Half)) = true) ∧
    ((Option.any (fun sev => decide (a1.lut.aggregates.any (matchAgg (15377 : Half) (1 : Half)) = false ∧ Option.any (fun b =>
      decide (sev.rank ≤ b.severity.rank)) (foldTarget (1 : Half) a1.lut.aggregates) = true)) (severityOf (15377 : Half)) =
      true)) ∧
    (s1.lut.aggregates.length < 64 ∧ (Option.any (fun sev => decide (sev ≠ Severity.fatal ∧ forcesTest (12304 : Half) = false ∧
      s1.lut.aggregates.any (matchAgg (12304 : Half) (12304 : Half)) = false ∧ ∀ (b : Aggregate), foldTarget (12304 : Half)
      s1.lut.aggregates = some b → b.severity.rank < sev.rank)) (severityOf (12304 : Half)) = true)) :=
  by refine ⟨?_, ?_, ?_, ?_⟩ <;> decide +kernel
/-- Hypotheses of `Obligations.ReportsAndRecords`. -/
theorem test_meets_RecordTakesNextSeq :
    (makePlace state1.log.ring record1.severity = none) ∧
    ((makePlace s1.log.ring record1.severity).isSome = true) :=
  ⟨by decide +kernel,
   by decide +kernel⟩
/-- Hypotheses of `Obligations.ReportsAndRecords`. -/
theorem test_meets_RecorderCommands :
    ((List.find? (matchAgg (12304 : Half) (1 : Half)) a1.lut.aggregates).isSome = true) ∧
    (state2.log.flushWaiting = true ∧ state2.log.flushing = none ∧ flashOk 0 state2 = true ∧ state2.nvm.log.length + (unflushed
      state2).length ≤ 524288 - 256) ∧
    (state3.log.flushWaiting = true ∧ state3.log.flushing = none ∧ flashOk 0 state3 = false) ∧
    (Option.any (fun seqs => decide (state4.log.flushWaiting = false)) state4.log.flushing = true) ∧
    (hostFree state2 = true ∧ (nextRecord state2.log.cursor (heldRecords state2)).isSome = true) ∧
    (hostFree s1 = true ∧ nextRecord s1.log.cursor (heldRecords s1) = none) :=
  by refine ⟨?_, ?_, ?_, ?_, ?_, ?_⟩ <;> decide +kernel
end Recorder

namespace Phrases

def un (v : Machine.Unit) (s : State) : State :=
  { s with near.units := [(0, v), (1, { v with run := none }), (143, { fenced := true })] }
def shad : List Quad := [0x8005, 7, 0, 0, 0, 9]
def fl : List Flight := [⟨0, ⟨1, 0, 3, false, [1,2]⟩, .dieBus⟩, ⟨0, ⟨16*5, 0, 3, false, [1,2]⟩, .dieBus⟩, ⟨0, ⟨16*9+1, 0, 4,
      true, [1,2]⟩, .chain⟩, ⟨0, ⟨4, 1, 3, false, [1,2]⟩, .dieBus⟩]
def plan (r : Nat) : PhrasePlan :=
  { reduction := r, width := 64, isMax := false, declared := [(3, [5, 6])], vector := 2, tag := {}, expert := none,
    attn := none }
def anA (value : Bool) : AttnPlan :=
  { seq := 3, position := 10, page := 0, layer := 0, head := 0, part := 0, value := value, second := false, query := none }
def dcA : CacheDecl := { cdecl with decode := [true], attnFactor := 0x3F800000, phrases := [⟨0, 3, 3, 3⟩] }
def imA : Image := { version := 1, manifest := mf, allocs := [0], descs := [], decls := [.cache dcA, .vocabulary 100] }
def serving : State :=
  { s1 with load.images := [(0, imA)],
            tables.allocs := [(0, { valid := true, base := 0x100000, size := 0x100000, image := some 0 })], kv.total := 8,
            kv.seqs := [(3, { state := .stepping, tenant := 0, pages := [.resident 0], length := 11 })],
            kv.appends := [⟨3, 0, 0, 0, 10⟩, ⟨3, 0, 0, 1, 10⟩, ⟨3, 0, 1, 0, 10⟩, ⟨3, 0, 1, 1, 10⟩] }
def attnUnit (v : Bool) : Nat := match attnPage serving dcA (anA v) with | some g => (match place serving g.granule with | some q => globalUnit q | none => 9999) | none => 9998
def state1 : State := un {} b1
def state3 : State := un { shadow := shad, out := osr 124 } b1
def state4 : State := un { shadow := shad } { b1 with dram.channels := [(0, { live with holds := [(0, 10)]})] }
def state5 : State := un { run := some { pc := 3, ended := true, outSectors := 2, pendingOut := osr 2 } } b1
def state6 : State := un { run := some { pc := 3, ended := true, outSectors := 3, pendingOut := osr 2 }, out := osr 3 } b1
def state7 : State := un
      { run := some { pc := 3, ended := false, outSectors := 2, pendingOut := osr 2 } , status := { code := 0x8001, errAt := some 77 }}
      b1
def state8 : State := un
      { out := osr 3, mail := [(3, { valid := true }), (4, { data := 5 })], errors := [5, 77], listOverflow := true, status := { errAt := some 3 }, relay := [⟨0, 1, 2, false, []⟩] }
      { b1 with near.flights := fl, near.relayed := [(0, ⟨0, 5, 3, false, [1, 2]⟩), (0, ⟨0, 6, 4, false, [1, 2]⟩)], dram.channels := [(0, { live with holds := [(0, 10), (1, 20)], banks := [(0, {debt := 2, row0 := some 4}), (1, {debt := 1})]}), (5, { live with failed := true }), (9, live)], near.dies := [(1, {faulted := true})] }
def state10 : State := un { run := some { pc := 3, ended := true, outSectors := 1, pendingOut := osr 2 } } b1
def state11 : State :=
  { serving with near.directory := [(512 * (attnUnit false / 1024) + 3, BitVec.ofNat 64 (2^63 + 100*2^52 + 5*2^44)), (512 * (attnUnit true / 1024) + 3, BitVec.ofNat 64 (2^63 + 100*2^52 + 5*2^44))],
                 dram.channels := [(attnUnit false / 16, live), (attnUnit true / 16, live)] }
def state12 : State := { state8 with near.channels := [(0, { chainFaulted := [1, 2] })] }
def planA (v : Bool) : PhrasePlan := { plan 3 with attn := some (anA v) }
/-- Hypotheses of `Obligations.PhraseStartsAndEnds`. -/
theorem test_meets_UnitRaisesCode :
    (1 ≠ 0) ∧
    ((unit state1 0).status.code = (0 : Half)) :=
  ⟨by decide +kernel,
   by decide +kernel⟩
/-- Hypotheses of `Obligations.PhraseStartsAndEnds`. -/
theorem test_meets_PhraseStarts :
    (channelReady state5 0 = true ∧ tileTripped state5 (0 / 64 : Nat) = false ∧ unitFenced state5 (16 * 0 + 0) = false ∧ (unit
      state5 (16 * 0 + 0)).isolated = false ∧ unitUnderTest state5 (16 * 0 + 0) = false ∧ (unit state5 (16 * 0 + 0)).run.isSome
      = true ∧ releasesPending state5 (plan 1).after = false ∧ (∀ (x : Nat × Bool), (plan 1).expert = some x → expertAllows
      state5 0 false 0 0 x = true) ∧ (plan 1).attn = none) ∧
    (channelReady state1 0 = true ∧ tileTripped state1 (0 / 64 : Nat) = false ∧ unitFenced state1 (16 * 0 + 0) = false ∧ (unit
      state1 (16 * 0 + 0)).isolated = false ∧ unitUnderTest state1 (16 * 0 + 0) = false ∧ (unit state1 (16 * 0 + 0)).run = none
      ∧ releasesPending state1 (plan 1).after = false ∧ (∀ (x : Nat × Bool), (plan 1).expert = some x → expertAllows state1 0
      false 0 0 x = true) ∧ (plan 1).attn = none ∧ phraseReady state1 (16 * 0 + 0) 0 (plan 1) = false) ∧
    (channelReady state1 0 = true ∧ tileTripped state1 (0 / 64 : Nat) = false ∧ unitFenced state1 (16 * 0 + 0) = false ∧ (unit
      state1 (16 * 0 + 0)).isolated = false ∧ unitUnderTest state1 (16 * 0 + 0) = false ∧ (unit state1 (16 * 0 + 0)).run = none
      ∧ releasesPending state1 (plan 1).after = false ∧ (∀ (x : Nat × Bool), (plan 1).expert = some x → expertAllows state1 0
      false 0 3 x = true) ∧ (plan 1).attn = none ∧ phraseReady state1 (16 * 0 + 0) 3 (plan 1) = true) ∧
    ((Option.any (fun d => decide (channelReady state11 0 = true ∧ tileTripped state11 (0 / 64 : Nat) = false ∧ unitFenced
      state11 (16 * 0 + 1) = false ∧ (unit state11 (16 * 0 + 1)).isolated = false ∧ unitUnderTest state11 (16 * 0 + 1) = false ∧
      (unit state11 (16 * 0 + 1)).run = none ∧ releasesPending state11 (planA false).after = false ∧ (∀ (x : Nat × Bool), (planA
      false).expert = some x → expertAllows state11 0 false 1 3 x = true) ∧ Option.any (fun a => decide (Option.any (fun g =>
      decide (Option.any (fun q => decide (attnAllows state11 (16 * 0 + 1) 3 a = true ∧ (unit (prepared (planA false) (16 * 0 +
      1) state11) (16 * 0 + 1)).run = none ∧ phraseReady (prepared (planA false) (16 * 0 + 1) state11) (16 * 0 + 1) 3 (planA
      false) = true)) (place state11 g.granule) = true)) (attnPage state11 d a) = true)) (planA false).attn = true)) (cacheDecl
      state11) = true)) :=
  by refine ⟨?_, ?_, ?_, ?_⟩ <;> decide +kernel
/-- Hypotheses of `Obligations.PhraseStartsAndEnds`. -/
theorem test_meets_PhraseStartsOnAll : channelReady state1 0 = true ∧ tileTripped state1 (0 / 64 : Nat) = false ∧
      releasesPending state1 (plan 1).after = false ∧ (plan 1).attn = none ∧ (∀ (x : Nat × Bool), (plan 1).expert = some x →
      expertAllows state1 0 true 0 3 x = true) ∧ (∀ (u : Nat), u ∈ targets state1 0 true 0 → unitUnderTest state1 u = false ∧
      (unit state1 u).run = none ∧ phraseReady state1 u 3 (plan 1) = true) :=
  by decide +kernel
/-- Hypotheses of `Obligations.PhraseStartsAndEnds`. -/
theorem test_meets_PhraseEnds :
    ((Option.any (fun r => decide (r.ended = true ∧ r.pendingOut.length = r.outSectors)) (unit state5 0).run = true)) ∧
    ((Option.any (fun r => decide (r.ended = true ∧ r.pendingOut.length < r.outSectors)) (unit state6 0).run = true)) ∧
    ((Option.any (fun r => decide (r.ended = true ∧ r.outSectors < r.pendingOut.length ∧ 0 < r.outSectors ∧
      r.pendingOut[r.outSectors - 1]?.isSome = true)) (unit state10 0).run = true)) ∧
    ((Option.any (fun r => decide (r.ended = false ∧ r.pendingOut.length = r.outSectors)) (unit state7 0).run = true)) ∧
    (BanksLegal state4 ∧ (tabFind? (chan state4 (0 / 16 : Nat)).holds (0 % 16)).isSome = true ∧ (unit state4 0).run = none ∧
      (chan state4 (0 / 16 : Nat)).slicing = false) :=
  ⟨by decide +kernel,
   by decide +kernel,
   by decide +kernel,
   by decide +kernel,
   ⟨banksLegal_of (by decide +kernel), by decide +kernel⟩⟩
theorem test_meets_UnitReads :
    (channelReady state8 0 = true ∧ Option.any (fun x => decide ((tabGet { } (unit state8 (16 * 0 + 0)).mail 4).valid = false))
      (List.find? (relayedFor (0 / 64 : Nat) (16 * (0 % 64) + 0) 4) state8.near.relayed) = true) ∧
    (channelReady state8 0 = true ∧ Option.any (fun x => decide ((tabGet { } (unit state8 (16 * 0 + 0)).mail 3).valid = true))
      (List.find? (relayedFor (0 / 64 : Nat) (16 * (0 % 64) + 0) 3) state8.near.relayed) = true) ∧
    (channelReady state3 0 = true ∧ mayRead state3 0 (List.take (0 + 1) (unit state3 (16 * 0 + 0)).out) = true ∧ 0 < (unit
      state3 (16 * 0 + 0)).out.length) ∧
    (channelReady state1 0 = true ∧ mayRead state1 0 (List.take (0 + 1) (unit state1 (16 * 0 + 0)).out) = true ∧ (unit state1
      (16 * 0 + 0)).out.length ≤ 0) ∧
    (channelReady state1 0 = true) ∧
    (channelReady state1 0 = true ∧ (unit state1 (16 * 0 + 0)).relay = []) :=
  by refine ⟨?_, ?_, ?_, ?_, ?_, ?_⟩ <;> decide +kernel
/-- Hypotheses of `Obligations.UnitReads`. -/
theorem test_meets_UnitExchange :
    ((Option.any (fun f => decide (landsNext state8 2 f = true ∧ (chan state8 ((1024 * f.tile + f.message.dest) / 16)).failed =
      false ∧ (tabGet { } (unit state8 (1024 * f.tile + f.message.dest)).mail f.message.slot).valid = false))
      state8.near.flights[2]? = true)) ∧
    ((Option.any (fun f => decide (landsNext state8 0 f = true ∧ (chan state8 ((1024 * f.tile + f.message.dest) / 16)).failed =
      false)) state8.near.flights[0]? = true)) ∧
    ((Option.any (fun f => decide (f.path = Path.dieBus ∧ f.message.dest / 16 = f.message.src / 16 ∧ chainCut (match (unit
      state8 (1024 * f.tile + f.message.src)).run with | some r => r.cutLinks | none => (nearChan state8 ((1024 * f.tile +
      f.message.src) / 16)).chainFaulted) f.message.src f.message.dest = false)) state8.near.flights[0]? = true)) ∧
    ((Option.any (fun f => decide (f.path = Path.dieBus ∧ f.message.dest / 16 = f.message.src / 16 ∧ chainCut (match (unit
      state12 (1024 * f.tile + f.message.src)).run with | some r => r.cutLinks | none => (nearChan state12 ((1024 * f.tile +
      f.message.src) / 16)).chainFaulted) f.message.src f.message.dest = true)) state12.near.flights[3]? = true)) ∧
    (Option.any (fun f => decide ((dieBus state8 0).faulted = false)) state8.near.flights[0]? = true) :=
  by refine ⟨?_, ?_, ?_, ?_, ?_⟩ <;> decide +kernel
end Phrases

namespace Writes

def un (v : Machine.Unit) (s : State) : State :=
  { s with near.units := [(0, v), (1, { v with run := none }), (143, { fenced := true })] }
def own : Owner :=
  { finished := [(2, { width := 128, words := (List.range 128).map fun i => (i, BitVec.ofNat 32 (0x3F800000 + i * 65536)), marks := [5, 40] })],
    selected := [(4, [(7, 0x3F000000)])] }
def tabs : Mem := [(16384+6, 1), (16384+7*16+6, 1), (16384+16*1+6, 1)]
def state1 : State := { un { tables := tabs } b1 with near.owners := [(0, own)] }
def state3 : State := un { run := some { pc := 3, ended := true, outSectors := 2, pendingOut := osr 2, segMask := 1 } } b1
def state4 : State :=
  { un { tables := tabs } { b1 with dram.channels := [(0, { live with holds := [(0, 10)]})] } with near.owners := [(0, own)] }
def lanes1 : List ArgLane := [.plan 1, .results 2 3 40, .weights 7 4, .plan 4]
def bplan1 : BcastPlan := ⟨2, 0, false⟩
def listSector1 : List Sector := [⟨1, false⟩, .poisoned, ⟨3, false⟩, ⟨4,true⟩, .zero, .zero, .zero, ⟨2^255+77, false⟩]
def held : Nat := (((List.range 64).map (2048 * ·)).find? fun a => match place s1 a with | some p => globalUnit p == 0 | none => false).getD 2048
def source1 : StoreSource := .plan listSector1
def machineUnit1 : Machine.Unit := { micro := [(5, 1), (300, 4)], scales := [(5, 1), (300, 4)], freqs := [(5, 1), (300, 4)] }
theorem test_meets_UnitWrites :
    (channelReady state1 0 = true ∧ lanes1.all (lanePresent (owner state1 (0 / 64 : Nat))) = true) ∧
    (channelReady state1 0 = true ∧ tileTripped state1 (0 / 64 : Nat) = false ∧ ((0 : Fin 4) = (3 : Fin 4) → ∀ (u : Nat), u ∈
      targets state1 0 true 0 → tableValid (unit state1 u).tables 7 = true) ∧ ((0 : Fin 4) = (1 : Fin 4) ∨ (0 : Fin 4) = (2 :
      Fin 4) → ∀ (u : Nat), u ∈ targets state1 0 true 0 → tableValid (unit state1 u).tables 0 = true) ∧ (∀ (u : Nat), u ∈
      targets state1 0 true 0 → segmentBusy state1 0 0 u = false ∧ (unit state1 u).bad = []) ∧ ((owner state1 (0 / 64 :
      Nat)).vector bplan1.vector).present bplan1.first 128 = true) ∧
    (channelReady state4 0 = true ∧ sourceWaits state4 (StoreSource.memory held) = true) ∧
    (channelReady state1 0 = true ∧ (∀ (u : Nat), u ∈ targets state1 0 true 0 → (unit state1 u).run = none) ∧ sourceWaits state1
      source1 = false ∧ sourcePresent (owner state1 (0 / 64 : Nat)) source1 = true) ∧
    (channelReady state3 0 = true ∧ targets state3 0 false 0 = [0] ∧ (unit state3 0).run.isSome = true) ∧
    (channelReady state1 0 = true) :=
  by refine ⟨?_, ?_, ?_, ?_, ?_, ?_⟩ <;> decide +kernel
/-- Hypotheses of `Obligations.UnitWrites`. -/
theorem test_meets_StoreLoadPlaces :
    (0 < 2 ∧ listSector1.length = 8 ∧ Memory.wf machineUnit1.micro = true ∧ Memory.wf machineUnit1.scales = true ∧ Memory.wf
      machineUnit1.freqs = true ∧ 0 < 256) ∧
    (0 < 16 ∧ listSector1.length = 8 ∧ Memory.wf machineUnit1.micro = true ∧ Memory.wf machineUnit1.scales = true ∧ Memory.wf
      machineUnit1.freqs = true ∧ 0 < 256 ∧ (0 / 32 : Nat) < 16 ∧ (0 = 0 ∨ 0 = 2)) ∧
    (16 ≤ 16 ∧ listSector1.length = 8 ∧ Memory.wf machineUnit1.micro = true ∧ Memory.wf machineUnit1.scales = true ∧ Memory.wf
      machineUnit1.freqs = true ∧ 0 < 256) ∧
    (2 ≤ 2 ∧ listSector1.length = 8 ∧ Memory.wf machineUnit1.micro = true ∧ Memory.wf machineUnit1.scales = true ∧ Memory.wf
      machineUnit1.freqs = true ∧ 0 < 256) ∧
    (33 ≤ 33 ∧ listSector1.length = 8 ∧ Memory.wf machineUnit1.micro = true ∧ Memory.wf machineUnit1.scales = true ∧ Memory.wf
      machineUnit1.freqs = true ∧ 0 < 256) ∧
    (65 ≤ 65 ∧ listSector1.length = 8 ∧ Memory.wf machineUnit1.micro = true ∧ Memory.wf machineUnit1.scales = true ∧ Memory.wf
      machineUnit1.freqs = true ∧ 0 < 256) ∧
    (32 ≤ 32 ∧ listSector1.length = 8 ∧ Memory.wf machineUnit1.micro = true ∧ Memory.wf machineUnit1.scales = true ∧ Memory.wf
      machineUnit1.freqs = true ∧ 0 < 256) :=
  by refine ⟨?_, ?_, ?_, ?_, ?_, ?_, ?_⟩ <;> decide +kernel
end Writes

namespace MicroControls

def xs : List Word := [0, 5, 7, 20480*2, 3, 70, 1, 2, 3, 4, 5, 6, 7]
def w1 := mw 1 [(100, 47), (3, 39), (5, 23), (1, 22)]
def w2 := mw 2 [(77, 0)]
def w3 := mw 3 [(4, 37), (3, 46)]
def w4 := mw 4 []
def w8 := mw 8 [(12, 54), (99, 0)]
def w9 := mw 9 [(2, 54), (1, 50), (2, 46), (3, 42), (1, 0)]
def w9d := mw 9 [(2, 54), (1, 50), (0, 46), (10, 42), (0, 0)]
def wA := mw 0xA [(1, 54), (2, 50), (1, 0)]
def wA2 := mw 0xA [(1, 54), (2, 50), (57, 0)]
def uw (w : Nat) (r : PhraseRun := r0) : State := un
      { micro := wb [w], run := some r, x := xs, lb := [(0, 4), (32*7+1, 9), (40, 3), (32*8+20, 4)], lbMarks := [8] }
def low : PhraseRun := { pc := 0, cycles := 0 }
def loopFrame1 : LoopFrame := ⟨0, w2, 2⟩
def loopFrame2 : LoopFrame := ⟨0, w2, 1⟩
def own : State := setStored (sectorOf 0 0 4 1) (5 ^^^ 1) (encodeChecks 5) (setStored (sectorOf 0 0 4 2) (5 ^^^ 33)
      (encodeChecks 5) (uw w1))
theorem test_meets_MicroControl :
    (MicroClean 1 0 0 r0 w1 (uw w1)) ∧
    (MicroReady 2 0 0 r0 w2 (uw w2)) ∧
    (MicroReady 3 0 0 r0 w3 (uw w3)) ∧
    (MicroClean 4 0 0 r0 w4 (uw w4)) ∧
    (loopFrame1.last ≠ w1) ∧
    (loopFrame1.last = w2 ∧ 1 < loopFrame1.left) ∧
    (loopFrame2.last = w2 ∧ loopFrame2.left ≤ 1) :=
  ⟨by unfold MicroClean MicroReady CleanUnit; decide +kernel,
   by unfold MicroReady; decide +kernel,
   by unfold MicroReady; decide +kernel,
   by unfold MicroClean MicroReady CleanUnit; decide +kernel,
   by decide +kernel,
   by decide +kernel,
   by decide +kernel⟩
/-- Hypotheses of `Obligations.MicroControl`. -/
theorem test_meets_MicroOverrun : low.ended = false ∧ low.cycles < low.elapsed + 1 ∧ (unit (uw w8 low) 0).run = some low ∧ bits
      (microWord (unit (uw w8 low) 0) low.pc) 63 58 = 8 :=
  by decide +kernel
/-- Hypotheses of `Obligations.MicroControl`. -/
theorem test_meets_MicroRegisters :
    (MicroClean 8 1 0 r0 w8 (uw w8)) ∧
    (MicroClean 9 1 0 r0 w9 (uw w9) ∧ divByZero (bits w9 45 42) (BitVec.ofNat 32 (xreg (uw w9) 0 (bits w9 49 46) + bits w9 31
      0)) = false) ∧
    (MicroClean 9 1 0 r0 w9d (uw w9d) ∧ divByZero (bits w9d 45 42) (BitVec.ofNat 32 (xreg (uw w9d) 0 (bits w9d 49 46) + bits w9d
      31 0)) = true) ∧
    (MicroClean 10 1 0 r0 wA (uw wA) ∧ lbMarked (unit (uw wA) 0) (4 * ((xreg (uw wA) 0 (bits wA 53 50) + bits wA 12 0) % 2048))
      4 = false) ∧
    (MicroClean 10 1 0 r0 wA2 (uw wA2) ∧ lbMarked (unit (uw wA2) 0) (4 * ((xreg (uw wA2) 0 (bits wA2 53 50) + bits wA2 12 0) %
      2048)) 4 = true) :=
  by refine ⟨?_, ?_, ?_, ?_, ?_⟩ <;> (unfold MicroClean MicroReady CleanUnit; decide +kernel)
theorem test_meets_UnitReadsOwnRows :
    ((chan own (0 / 16 : Nat)).failed = false ∧ (0 < sectorOf (0 / 16 : Nat) (2 * (0 % 16) + 0) 0 0 ∨ sectorOf (0 / 16 : Nat) (2
      * (0 % 16) + 0) 0 0 + 0 ≤ 0)) ∧
    ((chan own (0 / 16 : Nat)).failed = false ∧ 1 ≠ 0) :=
  ⟨by decide +kernel,
   by decide +kernel⟩
end MicroControls

namespace MicroSums

def code1 := mw 16 [(1, 39), (1, 41)]
def code2 := mw 17 [(4, 54), (1, 46)]
def code3 := mw 17 [(3, 54), (1, 46)]
def code4 := mw 18 [(4, 54), (3, 46)]
def code5 := mw 18 [(3, 54), (3, 46)]
/-- Hypotheses of `Obligations.MicroArithmetic`. -/
theorem test_meets_MicroMatrixStream :
    (20480 ≤ xreg (u0 code1 bad) 0 1 % 32768 ∧ MicroClean 16 (mvsCost code1) 0 r0 code1 (u0 code1 bad)) ∧
    (1 < (unit (u0 code1 xs2) 0).x.length ∧ MicroClean 16 (mvsCost code1) 0 r0 code1 (u0 code1 xs2)) ∧
    (xreg (u0 code1 xs2) 0 1 % 32768 < 20480 ∧ MicroClean 16 (mvsCost code1) 0 r0 code1 (u0 code1 xs2) ∧ bit code1 39 = true ∧
      rowOpen (u0 code1 xs2) 0 (bitNat (bit code1 33)) (xreg (u0 code1 xs2) 0 1 % 32768) = true ∧ lbMarked (unit (u0 code1 xs2)
      0) (32 * bits code1 53 46) 32 = false) :=
  by refine ⟨?_, ?_, ?_⟩ <;> (unfold MicroClean MicroReady CleanUnit; decide +kernel)
/-- Hypotheses of `Obligations.MicroArithmetic`. -/
theorem test_meets_MicroAttention :
    (MicroClean 17 (max 128 (64 * (bits code2 49 46 + 1))) 0 r0 code2 (u0 code2 xs2) ∧ rowInRange (xreg (u0 code2 xs2) 0 (bits
      code2 57 54)) = true) ∧
    (MicroClean 17 (max 128 (64 * (bits code3 49 46 + 1))) 0 r0 code3 (u0 code3 xs2) ∧ rowInRange (xreg (u0 code3 xs2) 0 (bits
      code3 57 54)) = false) ∧
    (MicroClean 18 (64 * (bits code4 49 46 + 1) + 16) 0 r0 code4 (u0 code4 xs2) ∧ rowInRange (xreg (u0 code4 xs2) 0 (bits code4
      57 54)) = true) ∧
    (MicroClean 18 (64 * (bits code5 49 46 + 1) + 16) 0 r0 code5 (u0 code5 xs2) ∧ rowInRange (xreg (u0 code5 xs2) 0 (bits code5
      57 54)) = false) :=
  by refine ⟨?_, ?_, ?_, ?_⟩ <;> (unfold MicroClean MicroReady CleanUnit; decide +kernel)
end MicroSums

namespace MicroMoves

def code1 := mw 21 [(0, 53)]
def machine1 := u0 code1 xs2
def code2 := mw 19 [(3, 54)]
def code3 := mw 20 [(3, 54)]
def code4 := mw 32 [(1, 52), (6, 54)]
def code5 := mw 34 [(3, 54), (255, 46)]
def code6 := mw 34 [(4, 54), (255, 46)]
def code7 := mw 19 [(4, 54), (1, 50), (3, 46), (2, 43)]
def code8 := mw 20 [(4, 54), (1, 50), (7, 42), (2, 40), (1, 0)]
def code9 := mw 33 [(0, 52), (1, 48), (2, 44), (3, 41), (1, 33)]
def code10 := mw 19 [(4, 54), (1, 50), (2, 43), (1, 42), (250, 34)]
/-- Hypotheses of `Obligations.MicroMemory`. -/
theorem test_meets_MicroInBank :
    (MicroClean 19 128 0 r0 code7 (u0 code7 xs2) ∧ rowInRange (xreg (u0 code7 xs2) 0 (bits code7 57 54)) = true ∧ xreg (u0 code7
      xs2) 0 (bits code7 53 50) ≤ 63 ∧ bit code7 42 = false) ∧
    (Memory.wf (unit (u0 code10 xs2) 0).lb = true ∧ (chan (u0 code10 xs2) (0 / 16 : Nat)).failed = false ∧ MicroClean 19 128 0
      r0 code10 (u0 code10 xs2) ∧ rowInRange (xreg (u0 code10 xs2) 0 (bits code10 57 54)) = true ∧ xreg (u0 code10 xs2) 0 (bits
      code10 53 50) ≤ 63 ∧ bit code10 42 = true) ∧
    (Machine.Inv (u0 code8 xs2) ∧ (chan (u0 code8 xs2) (0 / 16 : Nat)).failed = false ∧ MicroClean 20 128 0 r0 code8 (u0 code8
      xs2) ∧ rowInRange (xreg (u0 code8 xs2) 0 (bits code8 57 54)) = true ∧ xreg (u0 code8 xs2) 0 (bits code8 53 50) ≤ 63) ∧
    (Machine.Inv machine1 ∧ xreg machine1 0 1 % 32768 < 20480 ∧ rowOpen machine1 0 0 (xreg machine1 0 1 % 32768) = true ∧
      rowOpen machine1 0 1 (xreg machine1 0 1 % 32768) = true ∧ (chan machine1 (0 / 16 : Nat)).failed = false ∧ MicroClean 21
      128 0 r0 code1 machine1) ∧
    (MicroClean 19 128 0 r0 code2 (u0 code2 xs2) ∧ (rowInRange (xreg (u0 code2 xs2) 0 (bits code2 57 54)) = false ∨ 63 < xreg
      (u0 code2 xs2) 0 (bits code2 53 50))) ∧
    (MicroClean 20 128 0 r0 code3 (u0 code3 xs2) ∧ (rowInRange (xreg (u0 code3 xs2) 0 (bits code3 57 54)) = false ∨ 63 < xreg
      (u0 code3 xs2) 0 (bits code3 53 50))) ∧
    (20480 ≤ xreg (u0 code1 bad) 0 1 % 32768 ∧ MicroClean 21 128 0 r0 code1 (u0 code1 bad)) :=
  ⟨by unfold MicroClean MicroReady CleanUnit; decide +kernel,
   by unfold MicroClean MicroReady CleanUnit; decide +kernel,
   by unfold MicroClean Machine.Inv MicroReady CleanUnit; decide +kernel,
   by unfold MicroClean Machine.Inv MicroReady CleanUnit; decide +kernel,
   by unfold MicroClean MicroReady CleanUnit; decide +kernel,
   by unfold MicroClean MicroReady CleanUnit; decide +kernel,
   by unfold MicroClean MicroReady CleanUnit; decide +kernel⟩
/-- Hypotheses of `Obligations.MicroMemory`. -/
theorem test_meets_MicroExchange :
    (MicroClean 32 8 0 r0 code4 (u0 code4 xs2) ∧ bits code4 53 52 = (unit (u0 code4 xs2) 0).log2k) ∧
    (MicroClean 32 8 0 r0 (mw 32 [(2, 52)]) (u0 (mw 32 [(2, 52)]) xs2) ∧ bits (mw 32 [(2, 52)]) 53 52 ≠ (unit (u0 (mw 32 [(2,
      52)]) xs2) 0).log2k) ∧
    (MicroClean 33 (bits code9 43 41 + 1) 0 r0 code9 (u0 code9 xs2)) ∧
    (MicroClean 34 2 0 r0 code5 (u0 code5 xs2) ∧ (tabGet { } (unit (u0 code5 xs2) 0).mail (bits code5 57 54)).valid = true) ∧
    (MicroClean 34 2 0 r0 code6 (u0 code6 xs2) ∧ (tabGet { } (unit (u0 code6 xs2) 0).mail (bits code6 57 54)).valid = false) :=
  by refine ⟨?_, ?_, ?_, ?_, ?_⟩ <;> (unfold MicroClean MicroReady CleanUnit; decide +kernel)
end MicroMoves

namespace Sectors

def arrived (o : OutSector) (q : Collector := col) : State := { st sl with near.collectors := [(0, { q with inbox := [o] })] }
def doneSectors : State :=
  { st sl with near.collectors := [(0, { col with accs := one 4 3 ++ one 70 5, reductions := [{ red 1 100 0 with poisoned := [4, 9] }, red 2 50] }), (1, { col with accs := [], maxes := [(4, ⟨.fin 3 0, false⟩)], reductions := [red 1 6 0 true] })] }
def state1 : State := arrived (os 0)
def state2 : State := arrived (os 0x01000004)
def state3 : State := arrived (os 0x01000004 2 true) maxed
def state5 : State := arrived (os 0x03000000)
def state7 : State := arrived (os 0x05000018 3 false ⟨3, 1⟩)
def state8 : State := arrived (os 0x02800000)
def state11 : State := arrived (os 0x06000041)
def state12 : State := let s := arrived (os 0x06000041);
      { s with dram.channels := (List.range 512).map fun k => (k, { live := true, holds := (List.range 16).map fun i => (i, 9) }) }
def state13 : State := arrived (os 0x07000000)
def state14 : State := arrived (os 0x01000062)
/-- Hypotheses of `Obligations.CollectorSectors`. -/
theorem test_meets_CollectorRejects :
    (List.find? (ofCurrent (collector state1 1)) (collector state1 1).inbox = none) ∧
    (Option.any (fun o => decide (7 ≤ BitVec.toNat o.tag / 2 ^ 24)) (List.find? (ofCurrent (collector state13 0)) (collector
      state13 0).inbox) = true) ∧
    ((Option.any (fun o => decide (BitVec.toNat o.tag / 2 ^ 24 = 1 ∧ (collector state14 0).current.width < BitVec.toNat o.tag %
      2 ^ 24 + 4)) (List.find? (ofCurrent (collector state14 0)) (collector state14 0).inbox) = true)) ∧
    ((tabFind? (collector (rejectSector (32848 : Half) 0 state1) 0).accs 4).isSome = true) ∧
    ((tabFind? (collector (rejectSector (32848 : Half) 0 state3) 0).maxes 4).isSome = true) ∧
    (1 ≠ 0) :=
  by refine ⟨?_, ?_, ?_, ?_, ?_, ?_⟩ <;> decide +kernel
theorem test_meets_CollectorSectors :
    (Option.any (fun o => decide (0 = BitVec.toNat o.tag / 2 ^ 24)) (List.find? (ofCurrent (collector state1 0)) (collector
      state1 0).inbox) = true) ∧
    ((Option.any (fun o => decide ((collector state2 0).current.isMax = false ∧ (BitVec.toNat o.tag / 2 ^ 24 = 1 ∧ 4 = 4 ∨
      BitVec.toNat o.tag / 2 ^ 24 = 4 ∧ 4 = 1) ∧ BitVec.toNat o.tag % 2 ^ 24 + 4 ≤ (collector state2 0).current.width))
      (List.find? (ofCurrent (collector state2 0)) (collector state2 0).inbox) = true)) ∧
    ((Option.any (fun o => decide ((collector state3 0).current.isMax = true ∧ (BitVec.toNat o.tag / 2 ^ 24 = 1 ∧ 4 = 4 ∨
      BitVec.toNat o.tag / 2 ^ 24 = 4 ∧ 4 = 1) ∧ BitVec.toNat o.tag % 2 ^ 24 + 4 ≤ (collector state3 0).current.width))
      (List.find? (ofCurrent (collector state3 0)) (collector state3 0).inbox) = true)) ∧
    (Option.any (fun o => decide (3 = BitVec.toNat o.tag / 2 ^ 24)) (List.find? (ofCurrent (collector state5 0)) (collector
      state5 0).inbox) = true) ∧
    ((Option.any (fun o => decide (5 = BitVec.toNat o.tag / 2 ^ 24 ∧ Option.any (fun r => decide (tabFind? (tabGet [] (collector
      state7 (routeHome r)).bursts (16 * o.plan.a + bits (BitVec.toNat o.tag % 2 ^ 24) 7 4)) (2 * o.plan.b + bits (BitVec.toNat
      o.tag % 2 ^ 24) 3 3) = none)) (routeOf state7 (0 / 4 : Nat) o.plan.a) = true)) (List.find? (ofCurrent (collector state7
      0)) (collector state7 0).inbox) = true)) ∧
    ((Option.any (fun o => decide (2 = BitVec.toNat o.tag / 2 ^ 24 ∧ (collector state8 0).packet = [] ∧ bit (BitVec.toNat o.tag
      % 2 ^ 24) 23 = true)) (List.find? (ofCurrent (collector state8 0)) (collector state8 0).inbox) = true)) ∧
    ((Option.any (fun o => decide (6 = BitVec.toNat o.tag / 2 ^ 24 ∧ gatherWaits state11 0 o = false)) (List.find? (ofCurrent
      (collector state11 0)) (collector state11 0).inbox) = true)) ∧
    ((Option.any (fun o => decide (6 = BitVec.toNat o.tag / 2 ^ 24 ∧ gatherWaits state12 0 o = true)) (List.find? (ofCurrent
      (collector state12 0)) (collector state12 0).inbox) = true)) :=
  by refine ⟨?_, ?_, ?_, ?_, ?_, ?_, ?_, ?_⟩ <;> decide +kernel
/-- Hypotheses of `Obligations.CollectorSectors`. -/
theorem test_meets_CollectorNarrows :
    (reductionComplete (collector state1 0) = false) ∧
    (reductionComplete (collector doneSectors 0) = true ∧ (narrowElems (supplyElems (collector doneSectors 0))).Nodup) :=
  ⟨by decide +kernel,
   by decide +kernel⟩
end Sectors

namespace Gathers

def state1 : State := st sl
def state3 : State := { st sl with near.collectors := [(0, maxed)] }
def state4 : State := held (st sl)
def tabSector1 : Tab Sector := [(0, sx 0), (1, sx 1)]
def tabSector3 : Tab Sector := [(1, sx 3 true)]
/-- Hypotheses of `Obligations.GatherAndMerge`. -/
theorem test_meets_GatherModes :
    (4096 ≤ 4096 ∧ 0 < 64) ∧
    (0 < 4096 ∧ destMode (destEntry state1 (0 / 4 : Nat) 0) = 0 ∧ 0 < 64) ∧
    (Machine.Inv state1 ∧ 1 < 4096 ∧ destMode (destEntry state1 (0 / 4 : Nat) 1) = 1 ∧ bits (destWord (destEntry state1 (0 / 4 :
      Nat) 1) 0) 38 30 = 0 ∧ bit (destWord (destEntry state1 (0 / 4 : Nat) 1) 1) 63 = false ∧ 0 < 64 ∧ 0 ≤ destSectors
      (destEntry state1 (0 / 4 : Nat) 1) ∧ (Option.any (fun pl => decide (chanOfSector pl.sector = globalChannel pl ∧ (chan
      state1 (globalChannel pl)).failed = false ∧ openWires (chan state1 (globalChannel pl)) = [])) (place state1 (targetAddress
      (destEntry state1 (0 / 4 : Nat) 1) + 32 * 0)) = true)) ∧
    ((collector state1 0).current.isMax = false ∧ 2 < 4096 ∧ destMode (destEntry state1 (0 / 4 : Nat) 2) = 2 ∧ destFmt
      (destEntry state1 (0 / 4 : Nat) 2) = 0 ∧ 0 < 64 ∧ 0 ≤ destSectors (destEntry state1 (0 / 4 : Nat) 2) ∧ bits (destWord
      (destEntry state1 (0 / 4 : Nat) 2) 2) 23 0 + 8 * 0 + 8 ≤ (collector state1 0).current.width ∧ 0 < 8) ∧
    ((collector state3 0).current.isMax = true ∧ 6 < 4096 ∧ destMode (destEntry state3 (0 / 4 : Nat) 6) = 3 ∧ destFmt (destEntry
      state3 (0 / 4 : Nat) 6) = 0 ∧ 0 < 64 ∧ 0 ≤ destSectors (destEntry state3 (0 / 4 : Nat) 6) ∧ bits (destWord (destEntry
      state3 (0 / 4 : Nat) 6) 2) 23 0 + 8 * 0 + 8 ≤ (collector state3 0).current.width ∧ 0 < 8) ∧
    ((collector state1 0).current.isMax = false ∧ 7 < 4096 ∧ destMode (destEntry state1 (0 / 4 : Nat) 7) = 4 ∧ 0 < 64 ∧ 0 ≤
      destSectors (destEntry state1 (0 / 4 : Nat) 7) ∧ 0 < 8) ∧
    (3 < 4096 ∧ (destMode (destEntry state1 (0 / 4 : Nat) 3) = 5 ∨ destMode (destEntry state1 (0 / 4 : Nat) 3) = 6 ∧ linksAgree
      state1 (0 / 4 : Nat) 3 (destEntry state1 (0 / 4 : Nat) 3) = true) ∧ 0 < 64 ∧ 0 ≤ destSectors (destEntry state1 (0 / 4 :
      Nat) 3)) :=
  ⟨by decide +kernel,
   by decide +kernel,
   by unfold Machine.Inv; decide +kernel,
   by decide +kernel,
   by decide +kernel,
   by decide +kernel,
   by decide +kernel⟩
/-- Hypotheses of `Obligations.GatherAndMerge`. -/
theorem test_meets_ProbesAndMerges :
    (destMode (destEntry state1 (0 / 4 : Nat) 3) = 5 ∧ (tabGet [] (collector state1 0).blocks 3).length = destSectors (destEntry
      state1 (0 / 4 : Nat) 3) + 1) ∧
    ((∃ y, y ∈ tabSector3 ∧ y.snd.poison = true)) ∧
    ((∀ (y : Nat × Sector), y ∈ tabSector1 → y.snd.poison = false) ∧ (∀ (y : Nat × Sector), y ∈ tabSector1 → ∀ (i : Nat), i < 4
      → sectorQuad y.snd i ≠ (9 : Quad))) ∧
    ((∀ (y : Nat × Sector), y ∈ tabSector1 → y.snd.poison = false) ∧ Option.any (fun k => decide (k < 2 ^ 32)) (findKey (5 :
      Quad) tabSector1) = true) ∧
    (destMode (destEntry state4 (0 / 4 : Nat) 4) = 6 ∧ linksAgree state4 (0 / 4 : Nat) 4 (destEntry state4 (0 / 4 : Nat) 4) =
      true ∧ (tabGet [] (collector state4 0).blocks 4).length = destSectors (destEntry state4 (0 / 4 : Nat) 4) + 1 ∧ (tabGet []
      (collector state4 0).blocks (destLink (destEntry state4 (0 / 4 : Nat) 4))).length = destSectors (destEntry state4 (0 / 4 :
      Nat) (destLink (destEntry state4 (0 / 4 : Nat) 4))) + 1 ∧ bit (destWord (destEntry state4 (0 / 4 : Nat) 4) 1) 63 = false ∧
      rangeWaits state4 (targetAddress (destEntry state4 (0 / 4 : Nat) 4)) (32 * (destSectors (destEntry state4 (0 / 4 : Nat) 4)
      + 1)) = true) ∧
    (destMode (destEntry state1 (0 / 4 : Nat) 4) = 6 ∧ linksAgree state1 (0 / 4 : Nat) 4 (destEntry state1 (0 / 4 : Nat) 4) =
      true ∧ (tabGet [] (collector state1 0).blocks 4).length = destSectors (destEntry state1 (0 / 4 : Nat) 4) + 1 ∧ (tabGet []
      (collector state1 0).blocks (destLink (destEntry state1 (0 / 4 : Nat) 4))).length = destSectors (destEntry state1 (0 / 4 :
      Nat) (destLink (destEntry state1 (0 / 4 : Nat) 4))) + 1 ∧ (bit (destWord (destEntry state1 (0 / 4 : Nat) 4) 1) 63 = true ∨
      rangeWaits state1 (targetAddress (destEntry state1 (0 / 4 : Nat) 4)) (32 * (destSectors (destEntry state1 (0 / 4 : Nat) 4)
      + 1)) = false)) :=
  by refine ⟨?_, ?_, ?_, ?_, ?_, ?_⟩ <;> decide +kernel
end Gathers

namespace Owners

def clear0 : Collector := { col with reductions := [] }
def dl (g : DeliverTo) (set : Bool) (r : Nat := 1) : Delivery :=
  { reduction := r, vector := 4, width := 100, first := 4, count := 3, rescaleAt := none,
    residualAt := if set then some 0x800 else none, setsResidual := set, format := 0, towardZero := false, rotate := none,
    table := none, observe := false, statsBase := 0, goesTo := g }
def cd : CollDecl :=
  { id := 1, width := 100, isMax := false, format := 0, members := [0, 1], slices := [⟨0, 0, 0, 0, [1]⟩], maxPath := 1 }
def sq : State :=
  { st sl with near.collectors := [(0, clear0)], kv.seqs := [(2, { state := .stepping, pages := [.resident 3], length := 0 })],
               kv.blocks := [(3, { refs := 1 })], fabric.colls := [(1, { image := 0, decl := cd })],
               serve.requests := [(0, { state := .stepping, words := [0x0002000000000000] })],
               serve.lcStep := some
                 { members := [(0, 1)], selectedUs := 3, waves := 0, positions := 1, maxLength := 1, prepared := true } }
def pkt : Packet := { sectors := (List.range 17).map fun i => os 0 i, head := 0, group := 0, tiles := [0, 3] }
def pkt1 : Packet := { pkt with tiles := [0] }
def headerAt : Nat := 0x100000 + 3 * blockBytes cdecl + headerOffset cdecl 0 0
def bf16Page (s : State) : State := match place s headerAt with | some p => setStored p.sector (BitVec.ofNat 256 (2 * 2 ^ 62)) (encodeChecks (BitVec.ofNat 256 (2 * 2 ^ 62))) s | none => s
def sM : State :=
  { sq with near.collectors := [(0, { clear0 with bursts := [(48, (List.range 8).map fun i => (i, sx i)), (0, (List.range 8).map fun i => (i, sx i)), (1, [(0, sx 0)])] })],
            near.packets := [pkt, pkt1] }
def state1 : State := held (bf16Page sq)
def delivery1 : Delivery := dl .keep false
def delivery4 : Delivery := dl (.collective 1) false
def delivery5 : Delivery := dl (.append 2 0 0 0 0 none) false
def delivery6 : Delivery := dl .keep true
def delivery8 : Delivery := { dl .keep false with first := 200, width := 600 }
def delivery9 : Delivery := dl (.banks 2) false
def delivery10 : Delivery := dl (.append 3 0 0 0 0 none) false
def listElm1 : List Elm := [⟨.fin 1 0, true⟩]
def listElm2 : List Elm := [⟨.fin 1 0, false⟩]
def append1 : AppendPlan := ⟨2, 0, 0, 0, 0, 128, none⟩
/-- Hypotheses of `Obligations.OwnersAndAttention`. -/
theorem test_meets_OwnerDelivers :
    (sM.scratch.bad = [] ∧ mayDeliver sM 0 delivery8 = false) ∧
    (sM.scratch.bad = [] ∧ mayDeliver sM 0 delivery1 = true ∧ delivery1.observe = false ∧ delivery1.setsResidual = false ∧
      delivery1.count ≤ delivery1.width ∧ delivery1.first + delivery1.count ≤ delivery1.width ∧ (delivery1.goesTo =
      DeliverTo.keep ∨ delivery1.goesTo = DeliverTo.broadcast ∨ delivery1.goesTo = DeliverTo.tile 0 ∨ delivery1.goesTo =
      DeliverTo.hub 0)) ∧
    (sM.scratch.bad = [] ∧ Memory.wf sM.scratch.bytes = true ∧ mayDeliver sM 0 delivery6 = true ∧ delivery6.observe = false ∧
      delivery6.setsResidual = true ∧ (Option.any (fun o => decide (delivery6.goesTo = DeliverTo.keep ∧ delivery6.first +
      delivery6.count ≤ delivery6.width)) delivery6.residualAt = true)) ∧
    (sM.scratch.bad = [] ∧ mayDeliver sM 0 delivery4 = true ∧ delivery4.observe = false ∧ delivery4.goesTo =
      DeliverTo.collective 1 ∧ Option.any (fun c => decide ((tabGet [] c.current.children delivery4.first).contains (nodeOf sM)
      = false)) (coll? sM 1) = true) ∧
    (sM.scratch.bad = [] ∧ mayDeliver sM 0 delivery9 = true ∧ delivery9.observe = false ∧ delivery9.goesTo = DeliverTo.banks 2)
      ∧
    (sM.scratch.bad = [] ∧ mayDeliver sM 0 delivery10 = true ∧ delivery10.observe = false ∧ delivery10.goesTo = DeliverTo.append
      3 0 0 0 0 none ∧ appendNow sM (appendPlan delivery10 3 0 0 0 0 none) = AppendNow.no) ∧
    (state1.scratch.bad = [] ∧ mayDeliver state1 0 delivery5 = true ∧ delivery5.observe = false ∧ delivery5.goesTo =
      DeliverTo.append 2 0 0 0 0 none ∧ appendNow state1 (appendPlan delivery5 2 0 0 0 0 none) = AppendNow.wait) ∧
    (sM.scratch.bad = [] ∧ mayDeliver sM 0 delivery5 = true ∧ delivery5.observe = false ∧ delivery5.goesTo = DeliverTo.append 2
      0 0 0 0 none ∧ appendNow sM (appendPlan delivery5 2 0 0 0 0 none) = AppendNow.yes) :=
  by refine ⟨?_, ?_, ?_, ?_, ?_, ?_, ?_, ?_⟩ <;> decide +kernel
/-- Hypotheses of `Obligations.OwnersAndAttention`. -/
theorem test_meets_PoisonedAppendStoresNothing :
    (Option.any (fun d => decide (Option.any (fun b => decide (Option.any (fun i => decide ((listElm1.any fun x => x.poison) =
      true)) (steppingSlot sM append1.seq) = true)) (residentBlock sM append1.seq (append1.position / 64)) = true)) (cacheDecl
      sM) = true) ∧
    ((Option.any (fun d => decide (Option.any (fun b => decide (append1.opening = none ∧ bits (leValue (peekBytes (bf16Page sq)
      (blockAddress (bf16Page sq) d b + headerOffset d append1.layer append1.kind) 8)) 63 62 = 2 ∧ (listElm2.any fun x =>
      x.poison) = false)) (residentBlock (bf16Page sq) append1.seq (append1.position / 64)) = true)) (cacheDecl (bf16Page sq)) =
      true)) :=
  ⟨by decide +kernel,
   by decide +kernel⟩
/-- Hypotheses of `Obligations.OwnersAndAttention`. -/
theorem test_meets_AttentionMoves :
    ((Option.any (fun r => decide ((∀ (u : Nat), u ∈ burstUnits sM r 0 → channelReady sM (u / 16) = true) ∧ ((tabGet []
      (collector sM 0).bursts (16 * 0 + 1)).length ≠ 8 ∨ ∃ u, u ∈ burstUnits sM r 0 ∧ segmentBusy sM 0 (burstDest sM 1) u =
      true))) (routeOf sM (0 / 4 : Nat) 0) = true)) ∧
    ((Option.any (fun r => decide ((tabGet [] (collector sM 0).bursts (16 * 0 + 0)).length = 8 ∧ (∀ (u : Nat), u ∈ burstUnits sM
      r 0 → channelReady sM (u / 16) = true) ∧ ∀ (u : Nat), u ∈ burstUnits sM r 0 → segmentBusy sM 0 (burstDest sM 0) u =
      false)) (routeOf sM (0 / 4 : Nat) 0) = true)) ∧
    (Option.any (fun p => decide (0 ∈ p.tiles)) sM.near.packets[0]? = true) ∧
    (sM.near.packets[2]? = none) :=
  by refine ⟨?_, ?_, ?_, ?_⟩ <;> decide +kernel
end Owners

namespace Experts

def sE : State := let s := st sl;
      { s with near.collectors := [(0, {})], near.owners := [(0, { codebooks := [(520*3+513, 5), (520*3+2, 1), (520*3+3, 0x3C)], finished := [(2, { width := 5, words := [(0, 0x3F800000), (1, 0x40000000), (2, 0x7FC00000), (3, 0xBF800000), (4, 0x40000000)], marks := [3] })] })] }
def state1 : State := held sE
def listNat1 : List Nat := [5, 13, 3]
def entries1 : List (Nat × Nat) := [(3840, 5), (3841, 3)]
/-- Hypotheses of `Obligations.EmbeddingAndExperts`. -/
theorem test_meets_EmbeddingLookup :
    ((2 < 3840 ∨ 4096 < 2 + listNat1.length)) ∧
    (3840 ≤ 3840 ∧ 3840 + listNat1.length ≤ 4096 ∧ ((List.map (fun x => x / 8) listNat1).eraseDups.any fun g => addressWaits
      state1 ((2 + (2 * 2 + g) * 2048) / 2048 * 2048)) = true) ∧
    (3840 ≤ 3840 ∧ 3840 + listNat1.length ≤ 4096 ∧ ((List.map (fun x => x / 8) listNat1).eraseDups.any fun g => addressWaits sE
      ((2 + (2 * 2 + g) * 2048) / 2048 * 2048)) = false) ∧
    (place sE (2 ^ 40) = none) ∧
    ((List.map (fun x => x.fst) entries1).Nodup ∧ (place sE 2).isSome = true) :=
  by refine ⟨?_, ?_, ?_, ?_, ?_⟩ <;> decide +kernel
/-- Hypotheses of `Obligations.EmbeddingAndExperts`. -/
theorem test_meets_ExpertSelection :
    ((2 = 0 ∨ 8 < 2 ∨ 256 < 3840)) ∧
    (1 ≤ 2 ∧ 2 ≤ 8 ∧ 2 ≤ 256 ∧ ((owner sE 0).vector 0).present 2 2 = false) ∧
    (1 ≤ 2 ∧ 2 ≤ 8 ∧ 2 ≤ 256 ∧ ((owner sE 0).vector 2).present 2 2 = true) :=
  by refine ⟨?_, ?_, ?_⟩ <;> decide +kernel
end Experts

namespace CoreSeq

def starting : State :=
  { cs 0 with protect.startFillDone := true,
              load.images := [(0,
                { version := 1, manifest := { mf with coreMask := 0x20001 }, allocs := [], descs := [], decls := [.pushes 17 7 1 3 64, .coreEntry 17 9] })],
              near.collectors := [(5, { reductions := [{ number := 3, width := 9, owed := 2 }] })] }
def owing : State :=
  { cs 0 with near.collectors := [(1, { reductions := [{ number := 4 }] })],
              dense.cores := [(0, { co 0 with reduction := 4, owed := [(1, 2), (2, 1)] })] }
def owing2 : State := { owing with near.collectors := [(1, { reductions := [{ number := 5 }, { number := 4, width := 3 }] })] }
def code1 : Nat := cw 2 0 0 0 0 0 5 0
def code2 := cw 2 0 0 0 0 0 5 0
def code3 := cw 2 0 0 0 0 0 6 0
def code4 := cw 8 3 2 3 0 0 5 3
def code5 := cw 8 3 2 0 0 0 0 10
/-- Hypotheses of `Obligations.CoreSequencing`. -/
theorem test_meets_CoreFaults :
    (1 ≠ 0) ∧
    ((1, 2) ∈ (Machine.core owing 0).owed ∧ (2 : Nat) ≠ 0 ∧ (collector owing 1).current.number = (Machine.core owing
      0).reduction) ∧
    ((1, 2) ∈ (Machine.core owing2 0).owed ∧ (2 : Nat) ≠ 0 ∧ (collector owing2 1).current.number ≠ (Machine.core owing2
      0).reduction ∧ ((collector owing2 1).reductions.any fun r => r.number == (Machine.core owing2 0).reduction) = true) ∧
    ((Machine.core (cs code1) 0).busy = true ∧ (Machine.core (cs code1) 0).waiting = Waiting.none ∧ Instr.salu (0 : Fin 128)
      true = Instr.salu 0 true) :=
  by refine ⟨?_, ?_, ?_, ?_⟩ <;> decide +kernel
theorem test_meets_CoreSequencing :
    ((List.find? (fun e => declaresEntry 0 7 e.snd) (cs code2).load.images = none ∨ mayStartCore (cs code2) 0 0 = false)) ∧
    (Option.any (fun y => decide (mayStartCore starting 17 0 = true)) (List.find? (fun e => declaresEntry 17 7 e.snd)
      starting.load.images) = true) ∧
    ((Machine.core (cs code2) 0).busy = true ∧ ((Machine.core (cs code2) 0).waiting = Waiting.none ∨ (Machine.core (cs code2)
      0).waiting = Waiting.counter) ∧ coreWord (Machine.core (cs code2) 0) (Machine.core (cs code2) 0).pc = decodeCore code2 ∧
      (decodeCore code2).op = 2 ∧ (decodeCore code2).imm ≤ BitVec.toNat ((Machine.core (cs code2) 0).counters.getD (decodeCore
      code2).sub (0 : Word))) ∧
    ((Machine.core (cs code3) 0).busy = true ∧ ((Machine.core (cs code3) 0).waiting = Waiting.none ∨ (Machine.core (cs code3)
      0).waiting = Waiting.counter) ∧ coreWord (Machine.core (cs code3) 0) (Machine.core (cs code3) 0).pc = decodeCore code3 ∧
      (decodeCore code3).op = 2 ∧ BitVec.toNat ((Machine.core (cs code3) 0).counters.getD (decodeCore code3).sub (0 : Word)) <
      (decodeCore code3).imm) ∧
    (CoreReady 8 0 (decodeCore code4) (cs code4) ∧ divByZero ((decodeCore code4).ext % 16) (BitVec.ofNat 32 (addr32 (cs code4) 0
      (decodeCore code4).rc (decodeCore code4).imm)) = false) ∧
    (CoreReady 8 0 (decodeCore code5) (cs code5) ∧ divByZero ((decodeCore code5).ext % 16) (BitVec.ofNat 32 (addr32 (cs code5) 0
      (decodeCore code5).rc (decodeCore code5).imm)) = true) ∧
    (CoreReady 9 0 (decodeCore (cw 9 2 2 0 0 0 77 0)) (cs (cw 9 2 2 0 0 0 77 0))) ∧
    (CoreReady 10 0 (decodeCore (cw 10 0 0 0 0 0 0 0)) (cs (cw 10 0 0 0 0 0 0 0))) :=
  ⟨by decide +kernel,
   by decide +kernel,
   by decide +kernel,
   by decide +kernel,
   by unfold CoreReady; decide +kernel,
   by unfold CoreReady; decide +kernel,
   by unfold CoreReady; decide +kernel,
   by unfold CoreReady; decide +kernel⟩
end CoreSeq

namespace CoreArr

def sc : Scratch := { bytes := memWriteL [] 512 ((List.range 40).map fun i => BitVec.ofNat 8 (3*i+1)), marks := [1] }
def cs (w : Nat) (c : Core := {}) : State :=
  { ch s1 live with dense.cores := [(0, co w c), (17, { busy := false }), (18, { fenced := true })], scratch := sc,
                    dram.channels := (List.range 512).map fun k => (k, { live := true }) }
def full : Core :=
  { buf1 := { full := true, operands := (List.range 4096).map fun (i : Nat) => Val.fin (Int.ofNat (i % 7) - 3) 0, accRows := [0, 1, 2,3,4,5,6,7], accCol := 0 },
    codebooks := [], accs := [(3, ({} : Machine.Acc).apply (.fin 5 0)), (900, ({} : Machine.Acc).apply (.fin 5 0))] }
def hi (s : State) : State := onCore 0 (fun c => { c with regs := (c.regs.set 9 0xFFFFFFFF) }) s
def ptrBad (s : State) : State :=
  { s with scratch.bytes := memWriteL [] 0 ((List.range 8).map (fun i => leBytes 4 (if i = 3 then 0x70000000 else 0xFFFFFFFF))).flatten }
def highBank : State := onCore 0 (fun c => { c with regs := c.regs.set 1 4194290 }) (hi (cs (cw 0x13 0 1 9 0 0 8 1) full))
def rows8 : WeightBuf := { full.buf1 with accRows := [0, 8, 16, 24, 32, 40, 48, 56] }
def code1 := cw 16 0 0 0 0 1 0 0
def machine1 := cs code1 full
def machine2 := hi machine1
def word1 := decodeCore code1
def code2 := cw 17 0 0 0 0 0 0 0
def code3 := cw 18 0 0 0 0 0 8 1
def code4 := cw 20 0 0 0 0 0 8 0
def code5 := cw 19 0 1 9 0 0 8 1
def machine3 := cs code5 full
def word2 := decodeCore code5
def code6 := cw 18 0 0 0 0 0 32770 1
def code7 := cw 20 0 0 0 0 0 32770 0
def code8 := cw 19 0 1 9 0 0 40000 0
def code9 := cw 16 0 0 0 0 1 4194304 0
def code10 := cw 17 0 0 0 0 0 0 (2 ^ 9)
def machine4 := cs code10 full
def machine5 := hi machine4
def word3 := decodeCore code10
def code11 := cw 17 0 0 0 0 0 4194300 (2 ^ 9)
def machine6 := cs code11 full
def word4 := decodeCore code11
theorem test_meets_CoreArray :
    (CoreReady 16 0 (decodeCore code9) (hi (cs code9 full)) ∧ bankFits (addr32 (hi (cs code9 full)) 0 (decodeCore code9).ra
      (decodeCore code9).imm) 64 = false) ∧
    (CoreReady 16 0 word1 (ptrBad (cs (cw 0x10 0 0 0 0 1 0 0) full)) ∧ bankFits (addr32 (ptrBad (cs (cw 0x10 0 0 0 0 1 0 0)
      full)) 0 word1.ra word1.imm) 64 = true ∧ subAddresses (ptrBad (cs (cw 0x10 0 0 0 0 1 0 0) full)) 0 (addr32 (ptrBad (cs (cw
      0x10 0 0 0 0 1 0 0) full)) 0 word1.ra word1.imm) (bit (BitVec.toNat (memRead (ptrBad (cs (cw 0x10 0 0 0 0 1 0 0)
      full)).scratch.bytes (bankAddress 0 (addr32 (ptrBad (cs (cw 0x10 0 0 0 0 1 0 0) full)) 0 word1.ra word1.imm) + 34))) 2)
      (BitVec.toNat (memRead (ptrBad (cs (cw 0x10 0 0 0 0 1 0 0) full)).scratch.bytes (bankAddress 0 (addr32 (ptrBad (cs (cw
      0x10 0 0 0 0 1 0 0) full)) 0 word1.ra word1.imm) + 34)) % 4) (BitVec.toNat (memHalf (ptrBad (cs (cw 0x10 0 0 0 0 1 0 0)
      full)).scratch.bytes (bankAddress 0 (addr32 (ptrBad (cs (cw 0x10 0 0 0 0 1 0 0) full)) 0 word1.ra word1.imm) + 32))) =
      none) ∧
    (CoreReady 16 0 word1 machine2 ∧ bankFits (addr32 machine2 0 word1.ra word1.imm) 64 = true ∧ (subAddresses machine2 0
      (addr32 machine2 0 word1.ra word1.imm) (bit (BitVec.toNat (memRead machine2.scratch.bytes (bankAddress 0 (addr32 machine2
      0 word1.ra word1.imm) + 34))) 2) (BitVec.toNat (memRead machine2.scratch.bytes (bankAddress 0 (addr32 machine2 0 word1.ra
      word1.imm) + 34)) % 4) (BitVec.toNat (memHalf machine2.scratch.bytes (bankAddress 0 (addr32 machine2 0 word1.ra word1.imm)
      + 32)))).isSome = true) ∧
    (CoreReady 17 0 (decodeCore code2) (hi (cs code2 full)) ∧ (if bit (decodeCore code2).ext 9 = true then (Machine.core (hi (cs
      code2 full)) 0).buf1 else (Machine.core (hi (cs code2 full)) 0).buf0).full = false) ∧
    (CoreReady 17 0 word3 (cs code10
      { buf1 := have __src := full.buf1; { full := __src.full, operands := __src.operands, marks := __src.marks, transposed := true, accRows := __src.accRows, accCol := 40000 } })
      ∧ (if bit word3.ext 9 = true then (Machine.core (cs code10
      { buf1 := have __src := full.buf1; { full := __src.full, operands := __src.operands, marks := __src.marks, transposed := true, accRows := __src.accRows, accCol := 40000 } })
      0).buf1 else (Machine.core (cs code10
      { buf1 := have __src := full.buf1; { full := __src.full, operands := __src.operands, marks := __src.marks, transposed := true, accRows := __src.accRows, accCol := 40000 } })
      0).buf0).full = true ∧ bankFits (addr32 (cs code10
      { buf1 := have __src := full.buf1; { full := __src.full, operands := __src.operands, marks := __src.marks, transposed := true, accRows := __src.accRows, accCol := 40000 } })
      0 word3.ra word3.imm + (word3.ext % 512 + 1 - 1) * regN (cs code10
      { buf1 := have __src := full.buf1; { full := __src.full, operands := __src.operands, marks := __src.marks, transposed := true, accRows := __src.accRows, accCol := 40000 } })
      0 word3.rb) 128 = true ∧ bankFits (addr32 (cs code10
      { buf1 := have __src := full.buf1; { full := __src.full, operands := __src.operands, marks := __src.marks, transposed := true, accRows := __src.accRows, accCol := 40000 } })
      0 word3.ra word3.imm) 128 = true ∧ (bit word3.ext 10 = true → bankFits (regN (cs code10
      { buf1 := have __src := full.buf1; { full := __src.full, operands := __src.operands, marks := __src.marks, transposed := true, accRows := __src.accRows, accCol := 40000 } })
      0 word3.rc) 256 = true) ∧ 32768 ≤ mmaTop (if bit word3.ext 9 = true then (Machine.core (cs code10
      { buf1 := have __src := full.buf1; { full := __src.full, operands := __src.operands, marks := __src.marks, transposed := true, accRows := __src.accRows, accCol := 40000 } })
      0).buf1 else (Machine.core (cs code10
      { buf1 := have __src := full.buf1; { full := __src.full, operands := __src.operands, marks := __src.marks, transposed := true, accRows := __src.accRows, accCol := 40000 } })
      0).buf0) (word3.ext % 512 + 1)) ∧
    (CleanCore 0 machine5 ∧ CoreReady 17 0 word3 machine5 ∧ (if bit word3.ext 9 = true then (Machine.core machine5 0).buf1 else
      (Machine.core machine5 0).buf0).full = true ∧ bankFits (addr32 machine5 0 word3.ra word3.imm + (word3.ext % 512 + 1 - 1) *
      regN machine5 0 word3.rb) 128 = true ∧ bankFits (addr32 machine5 0 word3.ra word3.imm) 128 = true ∧ (bit word3.ext 10 =
      true → bankFits (regN machine5 0 word3.rc) 256 = true) ∧ mmaTop (if bit word3.ext 9 = true then (Machine.core machine5
      0).buf1 else (Machine.core machine5 0).buf0) (word3.ext % 512 + 1) < 32768) ∧
    (CoreReady 17 0 word4 (hi machine6) ∧ (if bit word4.ext 9 = true then (Machine.core (hi machine6) 0).buf1 else (Machine.core
      (hi machine6) 0).buf0).full = true ∧ (bankFits (addr32 (hi machine6) 0 word4.ra word4.imm + (word4.ext % 512 + 1 - 1) *
      regN (hi machine6) 0 word4.rb) 128 = false ∨ bankFits (addr32 (hi machine6) 0 word4.ra word4.imm) 128 = false ∨ bit
      word4.ext 10 = true ∧ bankFits (regN (hi machine6) 0 word4.rc) 256 = false)) :=
  ⟨by unfold CoreReady; decide +kernel,
   by unfold CoreReady; decide +kernel,
   by unfold CoreReady; decide +kernel,
   by unfold CoreReady; decide +kernel,
   by unfold CoreReady; decide +kernel,
   by unfold CleanCore CoreReady; decide +kernel,
   by unfold CoreReady; decide +kernel⟩
/-- Hypotheses of `Obligations.CoreArray`. -/
theorem test_meets_MmaAccumulatesRows : rows8.transposed = false ∧ (∀ (j : Nat), j < 64 → ∀ (k : Nat), k < 64 → mmaIndex rows8 1
      j 0 = mmaIndex rows8 1 k 0 → j = k) ∧ 0 < 64 :=
  by decide +kernel
/-- Hypotheses of `Obligations.CoreArray`. -/
theorem test_meets_CoreResults :
    (CoreReady 18 0 (decodeCore code6) (hi (cs code6 full)) ∧ 32768 < regN (hi (cs code6 full)) 0 (decodeCore code6).ra +
      (decodeCore code6).imm) ∧
    (CleanCore 0 (hi (cs code3 full)) ∧ CoreReady 18 0 (decodeCore code3) (hi (cs code3 full)) ∧ regN (hi (cs code3 full)) 0
      (decodeCore code3).ra + (decodeCore code3).imm ≤ 32768) ∧
    (CoreReady 20 0 (decodeCore code7) (hi (cs code7 full)) ∧ 32768 < regN (hi (cs code7 full)) 0 (decodeCore code7).ra +
      (decodeCore code7).imm) ∧
    (CoreReady 20 0 (decodeCore code4) (hi (cs code4 full)) ∧ regN (hi (cs code4 full)) 0 (decodeCore code4).ra + (decodeCore
      code4).imm ≤ 32768) ∧
    (CoreReady 19 0 (decodeCore code8) (hi (cs code8 full)) ∧ 32768 < regN (hi (cs code8 full)) 0 (decodeCore code8).ra +
      (decodeCore code8).imm) ∧
    (CoreReady 19 0 word2 highBank ∧ regN highBank 0 word2.ra + word2.imm ≤ 32768 ∧ (bankFits (regN highBank 0 word2.rb)
      (bytesOf (word2.ext % 8) word2.imm) = false ∨ regN highBank 0 word2.rc ≠ 4294967295 ∧ bankFits (regN highBank 0 word2.rc)
      (4 * word2.imm) = false)) ∧
    (Machine.Inv (hi machine3) ∧ CleanCore 0 (hi machine3) ∧ CoreReady 19 0 word2 (hi machine3) ∧ word2.ext % 8 ≤ 4 ∧ regN (hi
      machine3) 0 word2.ra + word2.imm ≤ 32768 ∧ bankFits (regN (hi machine3) 0 word2.rb) (bytesOf (word2.ext % 8) word2.imm) =
      true ∧ (regN (hi machine3) 0 word2.rc = 4294967295 ∨ bankFits (regN (hi machine3) 0 word2.rc) (4 * word2.imm) = true)) :=
  ⟨by unfold CoreReady; decide +kernel,
   by unfold CleanCore CoreReady; decide +kernel,
   by unfold CoreReady; decide +kernel,
   by unfold CoreReady; decide +kernel,
   by unfold CoreReady; decide +kernel,
   by unfold CoreReady; decide +kernel,
   by unfold CleanCore CoreReady Machine.Inv; decide +kernel⟩
end CoreArr

namespace Vectors

def vx (fn fmt : Nat) (rows : Nat := 0) : Nat := fn + fmt * 2^8 + 1 * 2 ^ 10 + rows * 2^24
def fixs (s : State) : State :=
  { s with scratch.bytes := memWriteL s.scratch.bytes 256 ((List.range 32).flatMap fun i => leBytes 4 (0x3F800000 + i * 0x123456)) }
def one : State := fixs (cs (cw 0x18 1 2 3 0 0 4 (vx 1 0)))
def plan (fmt : Nat) (exact : Bool) : VopPlan := { srcs := [], fmt := fmt, count := 4, cost := 1, exact := exact }
def vals1 : List (Val × Bool) := [(.fin 3 0, false), (.fin 5 (-30), true), (.inf true, false), (.zero, false)]
def beyond (fn : Nat) : State := onCore 0 (fun c => { c with regs := c.regs.set 1 4194303 }) (fixs (cs (cw 0x18 1 2 3 0 0 4 (vx
      fn 0 1))))
def val1 := vx 1 0 1
def val2 := vx 2 0 1
def val3 := vx 3 0 1
def val4 := vx 4 0 1
def val5 := vx 5 0 1
def val6 := vx 10 0 1
def val7 := vx 11 0 1
def code1 := cw 24 1 2 3 0 0 4 val1
def machine1 := fixs (cs code1)
def word1 := decodeCore code1
def code2 := cw 24 1 2 3 0 0 4 val2
def machine2 := fixs (cs code2)
def word2 := decodeCore code2
def code3 := cw 24 1 2 3 0 0 4 val3
def machine3 := fixs (cs code3)
def word3 := decodeCore code3
def code4 := cw 24 1 2 3 0 0 4 val4
def machine4 := fixs (cs code4)
def word4 := decodeCore code4
def code5 := cw 24 1 2 3 0 0 4 val5
def machine5 := fixs (cs code5)
def word5 := decodeCore code5
def code6 := cw 24 1 2 3 0 0 4 val6
def machine6 := fixs (cs code6)
def word6 := decodeCore code6
def code7 := cw 24 1 2 3 0 0 4 val7
def machine7 := fixs (cs code7)
def word7 := decodeCore code7
def code8 := cw 24 1 2 3 0 0 4 (vx 6 0 1)
def machine8 := fixs (cs code8)
def word8 := decodeCore code8
def code9 := cw 24 1 2 3 0 0 4 (vx 7 0 1)
def word9 := decodeCore code9
def code10 := cw 24 1 2 3 0 0 4 (vx 8 0 1)
def machine9 := fixs (cs code10)
def word10 := decodeCore code10
def code11 := cw 24 1 2 3 0 0 (4 + 65536) (vx 9 0)
def machine10 := fixs (cs code11)
def word11 := decodeCore code11
/-- Hypotheses of `Obligations.VectorOperations`. -/
theorem test_meets_VectorWrite :
    (Machine.Inv one ∧ CleanCore 0 one ∧ (plan 0 false).fmt ≤ 4 ∧ (plan 0 false).fmt < 3) ∧
    (Machine.Inv one ∧ CleanCore 0 one ∧ (plan 3 false).fmt ≤ 4 ∧ 3 ≤ (plan 3 false).fmt) ∧
    (Machine.Inv one ∧ CleanCore 0 one ∧ (plan 0 false).fmt ≤ 4 ∧ (0 < bankAddress 0 (regN one 0 (decodeCore (cw 24 1 2 3 0 0 4
      (vx 1 0))).rc) ∨ bankAddress 0 (regN one 0 (decodeCore (cw 24 1 2 3 0 0 4 (vx 1 0))).rc) + bytesOf (plan 0 false).fmt
      vals1.length ≤ 0)) :=
  by refine ⟨?_, ?_, ?_⟩ <;> (unfold CleanCore Machine.Inv; decide +kernel)
/-- Hypotheses of `Obligations.VectorOperations`. -/
theorem test_meets_VectorElementwise :
    (CleanCore 0 machine1 ∧ CoreReady 24 0 word1 machine1 ∧ bankFits (regN machine1 0 word1.ra) (bytesOf (vopFormat machine1 0
      word1) word1.imm) = true ∧ bankFits (regN machine1 0 word1.rc) (bytesOf (vopFormat machine1 0 word1) word1.imm) = true ∧
      bankFits (regN machine1 0 word1.rb) (bytesOf (vopFormat machine1 0 word1) word1.imm) = true ∧ word1.ext % 256 = 1) ∧
    (CleanCore 0 machine2 ∧ CoreReady 24 0 word2 machine2 ∧ bankFits (regN machine2 0 word2.ra) (bytesOf (vopFormat machine2 0
      word2) word2.imm) = true ∧ bankFits (regN machine2 0 word2.rc) (bytesOf (vopFormat machine2 0 word2) word2.imm) = true ∧
      bankFits (regN machine2 0 word2.rb) (bytesOf (vopFormat machine2 0 word2) word2.imm) = true ∧ word2.ext % 256 = 2) ∧
    (CleanCore 0 machine3 ∧ CoreReady 24 0 word3 machine3 ∧ bankFits (regN machine3 0 word3.ra) (bytesOf (vopFormat machine3 0
      word3) word3.imm) = true ∧ bankFits (regN machine3 0 word3.rc) (bytesOf (vopFormat machine3 0 word3) word3.imm) = true ∧
      bankFits (regN machine3 0 word3.rb) (bytesOf (vopFormat machine3 0 word3) word3.imm) = true ∧ word3.ext % 256 = 3) ∧
    (CleanCore 0 machine4 ∧ CoreReady 24 0 word4 machine4 ∧ bankFits (regN machine4 0 word4.ra) (bytesOf (vopFormat machine4 0
      word4) word4.imm) = true ∧ bankFits (regN machine4 0 word4.rc) (bytesOf (vopFormat machine4 0 word4) word4.imm) = true ∧
      bankFits (regN machine4 0 word4.rb) (bytesOf (vopFormat machine4 0 word4) word4.imm) = true ∧ word4.ext % 256 = 4) ∧
    (CleanCore 0 machine5 ∧ CoreReady 24 0 word5 machine5 ∧ bankFits (regN machine5 0 word5.ra) (bytesOf (vopFormat machine5 0
      word5) word5.imm) = true ∧ bankFits (regN machine5 0 word5.rc) (bytesOf (vopFormat machine5 0 word5) word5.imm) = true ∧
      word5.ext % 256 = 5) ∧
    (CleanCore 0 machine8 ∧ CoreReady 24 0 word8 machine8 ∧ bankFits (regN machine8 0 word8.ra) (bytesOf (vopFormat machine8 0
      word8) word8.imm) = true ∧ bankFits (regN machine8 0 word8.rc) (bytesOf (vopFormat machine8 0 word8) word8.imm) = true ∧
      bankFits (regN machine8 0 word8.ra) (bytesOf 0 word8.imm) = true ∧ bankFits (regN machine8 0 word8.rb) 4 = true ∧
      word8.ext % 256 = 6) ∧
    (CleanCore 0 machine6 ∧ CoreReady 24 0 word6 machine6 ∧ bankFits (regN machine6 0 word6.ra) (bytesOf (vopFormat machine6 0
      word6) word6.imm) = true ∧ bankFits (regN machine6 0 word6.rc) (bytesOf (vopFormat machine6 0 word6) word6.imm) = true ∧
      word6.ext % 256 = 10) ∧
    (CleanCore 0 machine7 ∧ CoreReady 24 0 word7 machine7 ∧ bankFits (regN machine7 0 word7.ra) (bytesOf (vopFormat machine7 0
      word7) word7.imm) = true ∧ bankFits (regN machine7 0 word7.rc) (bytesOf (vopFormat machine7 0 word7) word7.imm) = true ∧
      word7.ext % 256 = 11 ∧ bankFits (regN machine7 0 word7.ra) (4 * word7.imm) = true) :=
  by refine ⟨?_, ?_, ?_, ?_, ?_, ?_, ?_, ?_⟩ <;> (unfold CleanCore CoreReady; decide +kernel)
/-- Hypotheses of `Obligations.VectorOperations`. -/
theorem test_meets_VectorRows :
    (CleanCore 0 (fixs (cs code9)) ∧ CoreReady 24 0 word9 (fixs (cs code9)) ∧ bankFits (regN (fixs (cs code9)) 0 word9.ra)
      (bytesOf (vopFormat (fixs (cs code9)) 0 word9) word9.imm) = true ∧ word9.ext % 256 = 7 ∧ bankFits (regN (fixs (cs code9))
      0 word9.rc) (bytesOf 0 (word9.imm / rowLength word9)) = true) ∧
    (CleanCore 0 machine9 ∧ CoreReady 24 0 word10 machine9 ∧ bankFits (regN machine9 0 word10.ra) (bytesOf (vopFormat machine9 0
      word10) word10.imm) = true ∧ word10.ext % 256 = 8 ∧ bankFits (regN machine9 0 word10.rc) (bytesOf (vopFormat machine9 0
      word10) (word10.imm / rowLength word10)) = true) ∧
    (CleanCore 0 machine10 ∧ CoreReady 24 0 word11 machine10 ∧ word11.ext % 256 = 9 ∧ bankFits (regN machine10 0 word11.rb)
      (bytesOf (vopFormat machine10 0 word11) (word11.imm % 65536 * (word11.imm % 65536))) = true ∧ bankFits (regN machine10 0
      word11.rc) (bytesOf (vopFormat machine10 0 word11) (word11.imm % 65536 * (word11.imm % 65536))) = true) ∧
    (CoreReady 24 0 word1 (beyond 1) ∧ (bankFits (regN (beyond 1) 0 word1.ra) (bytesOf (vopFormat (beyond 1) 0 word1) word1.imm)
      = false ∨ bankFits (regN (beyond 1) 0 word1.rc) (bytesOf (vopFormat (beyond 1) 0 word1) word1.imm) = false) ∧ word1.ext %
      256 = 1) ∧
    (CoreReady 24 0 word2 (beyond 2) ∧ (bankFits (regN (beyond 2) 0 word2.ra) (bytesOf (vopFormat (beyond 2) 0 word2) word2.imm)
      = false ∨ bankFits (regN (beyond 2) 0 word2.rc) (bytesOf (vopFormat (beyond 2) 0 word2) word2.imm) = false) ∧ word2.ext %
      256 = 2) ∧
    (CoreReady 24 0 word3 (beyond 3) ∧ (bankFits (regN (beyond 3) 0 word3.ra) (bytesOf (vopFormat (beyond 3) 0 word3) word3.imm)
      = false ∨ bankFits (regN (beyond 3) 0 word3.rc) (bytesOf (vopFormat (beyond 3) 0 word3) word3.imm) = false) ∧ word3.ext %
      256 = 3) ∧
    (CoreReady 24 0 word4 (beyond 4) ∧ (bankFits (regN (beyond 4) 0 word4.ra) (bytesOf (vopFormat (beyond 4) 0 word4) word4.imm)
      = false ∨ bankFits (regN (beyond 4) 0 word4.rc) (bytesOf (vopFormat (beyond 4) 0 word4) word4.imm) = false) ∧ word4.ext %
      256 = 4) ∧
    (CoreReady 24 0 word5 (beyond 5) ∧ (bankFits (regN (beyond 5) 0 word5.ra) (bytesOf (vopFormat (beyond 5) 0 word5) word5.imm)
      = false ∨ bankFits (regN (beyond 5) 0 word5.rc) (bytesOf (vopFormat (beyond 5) 0 word5) word5.imm) = false) ∧ word5.ext %
      256 = 5) ∧
    (CoreReady 24 0 word6 (beyond 10) ∧ (bankFits (regN (beyond 10) 0 word6.ra) (bytesOf (vopFormat (beyond 10) 0 word6)
      word6.imm) = false ∨ bankFits (regN (beyond 10) 0 word6.rc) (bytesOf (vopFormat (beyond 10) 0 word6) word6.imm) = false) ∧
      word6.ext % 256 = 10) :=
  ⟨by unfold CleanCore CoreReady; decide +kernel,
   by unfold CleanCore CoreReady; decide +kernel,
   by unfold CleanCore CoreReady; decide +kernel,
   by unfold CoreReady; decide +kernel,
   by unfold CoreReady; decide +kernel,
   by unfold CoreReady; decide +kernel,
   by unfold CoreReady; decide +kernel,
   by unfold CoreReady; decide +kernel,
   by unfold CoreReady; decide +kernel⟩
end Vectors

namespace CoreMem

def setR (g r : Nat) (v : Word) (s : State) : State := onCore g (fun c => { c with regs := c.regs.set r v }) s
def s2 (w : Nat) : State := setR 0 8 0xFFFFFF00 <| setR 0 5 0x1000 (setR 0 6 0x08001000 (setR 0 7 0x10001000
      { cs w with tables.descs := [(7, ⟨dd 0, none⟩), (8, ⟨dd 4096, none⟩), (9, ⟨dd 4096 1, none⟩)], tables.copies := [{ issuer := .core 0 3, srcIndex := 7, dstIndex := 8, src := dd 0, dst := dd 4096 }] }))
def wt (x : Waiting) (s : State) : State :=
  { onCore 0 (fun c => { c with waiting := x }) s with dense.tiles := [(0, { lines := [(1, ⟨5, true, false⟩), (128, ⟨7, false, false⟩)] }), (1, { waitLimit := 0 })] }
def held (s : State) : State :=
  { s with spread.units := liveUnitCount s.spread.applied,
           dram.channels := (List.range 512).map fun k => (k, { live := true, holds := (List.range 16).map fun i => (i, 9) }) }
def free (s : State) : State := { s with spread.units := liveUnitCount s.spread.applied }
def noCopies : State := { s2 (cw 0x20 0 1 0 0 1 64 0x2000) with tables.copies := [] }
def readingWord : State :=
  { s2 (cw 0x30 0 0 0 0 0 0 0) with tables.copies := [{ issuer := .core 0 3, srcIndex := 7, dstIndex := 8, src := dd 0 ||| 0x800000, dst := dd 4096 }] }
def listNat1 : List Nat := []
def code1 := cw 48 0 0 0 0 0 0 0
def word1 := decodeCore code1
def code2 := cw 48 0 0 0 0 1 0 0
def code3 := cw 48 0 0 0 0 2 0 0
def code4 := cw 48 0 0 0 0 0 0 1
def code5 := cw 34 5 1 0 0 1 64 0
def machine1 := free (s2 code5)
def word2 := decodeCore code5
def code6 := cw 34 5 1 0 0 0 64 0
def machine2 := free (s2 code6)
def word3 := decodeCore code6
def code7 := cw 32 0 8 0 0 1 64 0
def code8 := cw 33 0 8 0 0 0 64 0
def code9 := cw 34 5 8 0 0 1 64 0
def code10 := cw 32 0 1 0 0 0 32 64
def word4 := decodeCore code10
def code11 := cw 32 0 1 0 0 1 64 8192
def machine3 := s2 code11
def machine4 := free machine3
def word5 := decodeCore code11
def code12 := cw 33 0 1 0 0 0 64 8192
def machine5 := s2 code12
def machine6 := free machine5
def word6 := decodeCore code12
def code13 := cw 48 2 0 0 0 1 0 (3 + 4 * 1)
def machine7 := s2 code13
def machine8 := held machine7
def machine9 := free machine7
def word7 := decodeCore code13
def code14 := cw 1 0 0 0 0 3 0 (7 + 8 * 65536)
def code15 := cw 1 0 0 0 0 3 0 (7 + 9 * 65536)
def code16 := cw 1 0 0 0 0 3 0 (7 + 6 * 65536)
def code17 := cw 32 0 1 0 0 1 64 (2 ^ 40 - 4096)
def machine10 := free (s2 code17)
def word8 := decodeCore code17
def code18 := cw 33 0 1 0 0 0 64 (2 ^ 40 - 4096)
def machine11 := free (s2 code18)
def word9 := decodeCore code18
def code19 := cw 48 0 0 0 0 1 0 (3 + 2 ^ 42 + 4 * 1)
def machine12 := free (s2 code19)
def word10 := decodeCore code19
/-- Hypotheses of `Obligations.CoreMemoryAndFences`. -/
theorem test_meets_CoreMemory :
    (Machine.Inv (held (s2 (cw 0x20 0 1 0 0 1 64 0x2000))) ∧ CoreReady 32 0 word5 (held (s2 (cw 0x20 0 1 0 0 1 64 0x2000))) ∧
      bankFits (regN (held (s2 (cw 0x20 0 1 0 0 1 64 0x2000))) 0 word5.rb) word5.imm = true ∧ moduleAddress (held (s2 (cw 0x20 0
      1 0 0 1 64 0x2000))) 0 word5 + word5.imm ≤ capacity (held (s2 (cw 0x20 0 1 0 0 1 64 0x2000))) ∧ loadWaits (held (s2 (cw
      0x20 0 1 0 0 1 64 0x2000))) 0 (moduleAddress (held (s2 (cw 0x20 0 1 0 0 1 64 0x2000))) 0 word5) word5.imm (word5.sub % 2
      == 0) listNat1 = true) ∧
    (Machine.Inv machine4 ∧ CoreReady 32 0 word5 machine4 ∧ bankFits (regN machine4 0 word5.rb) word5.imm = true ∧ moduleAddress
      machine4 0 word5 + word5.imm ≤ capacity machine4 ∧ word5.sub % 2 = 1 ∧ rangeWaits machine4 (moduleAddress machine4 0
      word5) word5.imm = false ∧ (∀ (i : Nat), i < word5.imm / 32 → Option.any (fun p => decide ((chan machine4 (globalChannel
      p)).failed = false ∧ openWires (chan machine4 (globalChannel p)) = [] ∧ chanOfSector p.sector = globalChannel p ∧
      (decodeSector (storedData machine4 p.sector) (storedChecks machine4 p.sector)).uncorrectable = false)) (place machine4
      (moduleAddress machine4 0 word5 + 32 * i)) = true)) ∧
    (Machine.Inv (wt Waiting.none (s2 (cw 0x20 0 1 0 0 0 32 64))) ∧ CoreReady 32 0 word4 (wt Waiting.none (s2 (cw 0x20 0 1 0 0 0
      32 64))) ∧ bankFits (regN (wt Waiting.none (s2 (cw 0x20 0 1 0 0 0 32 64))) 0 word4.rb) word4.imm = true ∧ moduleAddress
      (wt Waiting.none (s2 (cw 0x20 0 1 0 0 0 32 64))) 0 word4 + word4.imm ≤ capacity (wt Waiting.none (s2 (cw 0x20 0 1 0 0 0 32
      64))) ∧ word4.sub % 2 = 0 ∧ word4.imm = 32 ∧ (tabFind? (coreTile (wt Waiting.none (s2 (cw 0x20 0 1 0 0 0 32 64))) (0 / 16
      : Nat)).lines (moduleAddress (wt Waiting.none (s2 (cw 0x20 0 1 0 0 0 32 64))) 0 word4 / 64)).isSome = true) ∧
    (Machine.Inv (held (s2 (cw 0x21 0 1 0 0 0 64 0x2000))) ∧ CoreReady 33 0 word6 (held (s2 (cw 0x21 0 1 0 0 0 64 0x2000))) ∧
      bankFits (regN (held (s2 (cw 0x21 0 1 0 0 0 64 0x2000))) 0 word6.rb) word6.imm = true ∧ moduleAddress (held (s2 (cw 0x21 0
      1 0 0 0 64 0x2000))) 0 word6 + word6.imm ≤ capacity (held (s2 (cw 0x21 0 1 0 0 0 64 0x2000))) ∧ rangeWaits (held (s2 (cw
      0x21 0 1 0 0 0 64 0x2000))) (moduleAddress (held (s2 (cw 0x21 0 1 0 0 0 64 0x2000))) 0 word6) word6.imm = true) ∧
    (Machine.Inv machine6 ∧ machine6.spread.units = liveUnitCount machine6.spread.applied ∧ machine6.scratch.bad = [] ∧
      CoreReady 33 0 word6 machine6 ∧ bankFits (regN machine6 0 word6.rb) word6.imm = true ∧ moduleAddress machine6 0 word6 +
      word6.imm ≤ capacity machine6 ∧ rangeWaits machine6 (moduleAddress machine6 0 word6) word6.imm = false ∧ (∀ (i : Nat), i <
      word6.imm / 32 → Option.any (fun p => decide ((chan machine6 (globalChannel p)).failed = false ∧ openWires (chan machine6
      (globalChannel p)) = [] ∧ chanOfSector p.sector = globalChannel p ∧ (decodeSector (storedData machine6 p.sector)
      (storedChecks machine6 p.sector)).uncorrectable = false)) (place machine6 (moduleAddress machine6 0 word6 + 32 * i)) =
      true)) ∧
    (Machine.Inv machine1 ∧ machine1.scratch.bad = [] ∧ CoreReady 34 0 word2 machine1 ∧ bankFits (regN machine1 0 word2.rb)
      word2.imm = true ∧ (Option.any (fun y => decide (Option.any (fun y_1 => decide (tileOf (regN machine1 0 word2.ra) = (0 /
      16 : Nat) ∧ y.snd + (word2.imm - 1) = y_1.snd ∧ (y.snd + word2.imm ≤ bankAddress 0 (regN machine1 0 word2.rb) ∨
      bankAddress 0 (regN machine1 0 word2.rb) + word2.imm ≤ y.snd) ∧ word2.sub % 2 = 1)) (resolve (regN machine1 0 word2.ra +
      (word2.imm - 1))) = true)) (resolve (regN machine1 0 word2.ra)) = true)) ∧
    (Machine.Inv machine2 ∧ machine2.scratch.bad = [] ∧ CoreReady 34 0 word3 machine2 ∧ bankFits (regN machine2 0 word3.rb)
      word3.imm = true ∧ (Option.any (fun y => decide (Option.any (fun y_1 => decide (tileOf (regN machine2 0 word3.ra) = (0 /
      16 : Nat) ∧ y.snd + (word3.imm - 1) = y_1.snd ∧ (y.snd + word3.imm ≤ bankAddress 0 (regN machine2 0 word3.rb) ∨
      bankAddress 0 (regN machine2 0 word3.rb) + word3.imm ≤ y.snd) ∧ word3.sub % 2 = 0)) (resolve (regN machine2 0 word3.ra +
      (word3.imm - 1))) = true)) (resolve (regN machine2 0 word3.ra)) = true)) ∧
    (Machine.Inv (free (s2 code7)) ∧ bankFits (regN (free (s2 code7)) 0 (decodeCore code7).rb) (decodeCore code7).imm = false ∧
      CoreReady 32 0 (decodeCore code7) (free (s2 code7))) ∧
    (Machine.Inv (free (s2 code8)) ∧ bankFits (regN (free (s2 code8)) 0 (decodeCore code8).rb) (decodeCore code8).imm = false ∧
      CoreReady 33 0 (decodeCore code8) (free (s2 code8))) ∧
    (Machine.Inv (free (s2 code9)) ∧ bankFits (regN (free (s2 code9)) 0 (decodeCore code9).rb) (decodeCore code9).imm = false ∧
      CoreReady 34 0 (decodeCore code9) (free (s2 code9))) ∧
    (Machine.Inv machine10 ∧ bankFits (regN machine10 0 word8.rb) word8.imm = true ∧ capacity machine10 < moduleAddress
      machine10 0 word8 + word8.imm ∧ CoreReady 32 0 word8 machine10) ∧
    (Machine.Inv machine11 ∧ bankFits (regN machine11 0 word9.rb) word9.imm = true ∧ capacity machine11 < moduleAddress
      machine11 0 word9 + word9.imm ∧ CoreReady 33 0 word9 machine11) :=
  by refine ⟨?_, ?_, ?_, ?_, ?_, ?_, ?_, ?_, ?_, ?_, ?_, ?_⟩ <;> (unfold CoreReady Machine.Inv; decide +kernel)
/-- Hypotheses of `Obligations.CoreMemoryAndFences`. -/
theorem test_meets_CoreMoves :
    (CoreReady 1 0 (decodeCore code14) (free (s2 code14)) ∧ Option.any (fun x => decide (Option.any (fun y => decide (copyCheck
      (decodeDesc x.words) (decodeDesc y.words) = none)) (descEntry (free (s2 code14)) (bits (decodeCore code14).ext 31 16)) =
      true)) (descEntry (free (s2 code14)) ((decodeCore code14).ext % 65536)) = true) ∧
    (CoreReady 1 0 (decodeCore code15) (free (s2 code15)) ∧ Option.any (fun x => decide (Option.any (fun y => decide ((copyCheck
      (decodeDesc x.words) (decodeDesc y.words)).isSome = true)) (descEntry (free (s2 code15)) (bits (decodeCore code15).ext 31
      16)) = true)) (descEntry (free (s2 code15)) ((decodeCore code15).ext % 65536)) = true) ∧
    (CoreReady 1 0 (decodeCore code16) (free (s2 code16)) ∧ (descEntry (free (s2 code16)) ((decodeCore code16).ext % 65536) =
      none ∨ descEntry (free (s2 code16)) (bits (decodeCore code16).ext 31 16) = none)) ∧
    (List.find? (moveOfTile 0) noCopies.tables.copies = none) ∧
    ((Option.any (fun c => decide ((sideWaits (held (s2 (cw 0x20 0 1 0 0 1 64 0x2000))) (decodeDesc c.src) = true ∨ sideWaits
      (held (s2 (cw 0x20 0 1 0 0 1 64 0x2000))) (decodeDesc c.dst) = true) ∧ c.issuer = CopyIssuer.core 0 3)) (List.find?
      (moveOfTile 0) (held (s2 (cw 0x20 0 1 0 0 1 64 0x2000))).tables.copies) = true)) ∧
    ((Option.any (fun c => decide (sideWaits machine4 (decodeDesc c.src) = false ∧ sideWaits machine4 (decodeDesc c.dst) = false
      ∧ c.issuer = CopyIssuer.core 0 3)) (List.find? (moveOfTile 0) machine4.tables.copies) = true)) :=
  ⟨by unfold CoreReady; decide +kernel,
   by unfold CoreReady; decide +kernel,
   by unfold CoreReady; decide +kernel,
   by decide +kernel,
   by decide +kernel,
   by decide +kernel⟩
/-- Hypotheses of `Obligations.CoreMemoryAndFences`. -/
theorem test_meets_CoreFences :
    (bankReadsQueued readingWord 0 = true ∧ CoreReady 48 0 word1 readingWord ∧ bit word1.ext 0 = false ∧ word1.sub = 0) ∧
    (bankReadsQueued (free (s2 code1)) 0 = false ∧ CoreReady 48 0 word1 (free (s2 code1)) ∧ bit word1.ext 0 = false ∧ word1.sub
      = 0) ∧
    (CoreReady 48 0 (decodeCore code2) (free (s2 code2)) ∧ bit (decodeCore code2).ext 0 = false ∧ (decodeCore code2).sub = 1) ∧
    (CoreReady 48 0 (decodeCore code3) (free (s2 code3)) ∧ bit (decodeCore code3).ext 0 = false ∧ 2 ≤ (decodeCore code3).sub) ∧
    ((Machine.core (free (s2 code4)) 0).busy = true ∧ ((Machine.core (free (s2 code4)) 0).waiting = Waiting.none ∨ (Machine.core
      (free (s2 code4)) 0).waiting = Waiting.acquire) ∧ coreWord (Machine.core (free (s2 code4)) 0) (Machine.core (free (s2
      code4)) 0).pc = decodeCore code4 ∧ (decodeCore code4).op = 48 ∧ bit (decodeCore code4).ext 0 = true ∧ bit (decodeCore
      code4).ext 1 = false) ∧
    (machine12.scratch.bad = [] ∧ (Machine.core machine12 0).busy = true ∧ ((Machine.core machine12 0).waiting = Waiting.none ∨
      (Machine.core machine12 0).waiting = Waiting.acquire) ∧ coreWord (Machine.core machine12 0) (Machine.core machine12 0).pc
      = decodeCore code19 ∧ word10.op = 48 ∧ bit word10.ext 0 = true ∧ bit word10.ext 1 = true ∧ bit word10.ext 42 = true ∧ bits
      word10.ext 41 2 * 8 < 2 ^ 29 ∧ Option.any (fun b => decide (((List.range 8).any fun i => marked machine12 (b.snd + i)) =
      false)) (resolve ((0 / 16 : Nat) * 2 ^ 29 + bits word10.ext 41 2 * 8)) = true) ∧
    ((Machine.core machine8 0).busy = true ∧ ((Machine.core machine8 0).waiting = Waiting.none ∨ (Machine.core machine8
      0).waiting = Waiting.acquire) ∧ coreWord (Machine.core machine8 0) (Machine.core machine8 0).pc = decodeCore code13 ∧
      word7.op = 48 ∧ bit word7.ext 0 = true ∧ bit word7.ext 1 = true ∧ bit word7.ext 42 = false ∧ bits word7.ext 41 2 * 8 + 8 ≤
      capacity machine8 ∧ addressWaits machine8 (bits word7.ext 41 2 * 8) = true) ∧
    ((Machine.core machine9 0).busy = true ∧ ((Machine.core machine9 0).waiting = Waiting.none ∨ (Machine.core machine9
      0).waiting = Waiting.acquire) ∧ coreWord (Machine.core machine9 0) (Machine.core machine9 0).pc = decodeCore code13 ∧
      word7.op = 48 ∧ bit word7.ext 0 = true ∧ bit word7.ext 1 = true ∧ bit word7.ext 42 = false ∧ bits word7.ext 41 2 * 8 + 8 ≤
      capacity machine9 ∧ addressWaits machine9 (bits word7.ext 41 2 * 8) = false ∧ (∀ (i : Nat), i < 1 → Option.any (fun p =>
      decide ((chan machine9 (globalChannel p)).failed = false ∧ openWires (chan machine9 (globalChannel p)) = [] ∧ chanOfSector
      p.sector = globalChannel p ∧ (decodeSector (storedData machine9 p.sector) (storedChecks machine9 p.sector)).uncorrectable
      = false)) (place machine9 (bits word7.ext 41 2 * 8 / 32 * 32 + 32 * i)) = true) ∧ Option.any (fun x => decide (x.poison =
      false)) (peekSector machine9 (bits word7.ext 41 2 * 8 / 32 * 32)) = true) ∧
    ((Machine.core (wt Waiting.counter (s2 (cw 0x22 5 1 0 0 1 64 0))) 0).busy = true ∧ (coreTile (wt Waiting.counter (s2 (cw
      0x22 5 1 0 0 1 64 0))) (0 / 16 : Nat)).waitLimit ≠ (0 : Word) ∧ (Machine.core (wt Waiting.counter (s2 (cw 0x22 5 1 0 0 1
      64 0))) 0).waiting = Waiting.counter) ∧
    ((Machine.core (wt Waiting.acquire (s2 (cw 0x30 0 0 0 0 0 0 1))) 0).busy = true ∧ (coreTile (wt Waiting.acquire (s2 (cw 0x30
      0 0 0 0 0 0 1))) (0 / 16 : Nat)).waitLimit ≠ (0 : Word) ∧ (Machine.core (wt Waiting.acquire (s2 (cw 0x30 0 0 0 0 0 0 1)))
      0).waiting = Waiting.acquire) :=
  ⟨by unfold CoreReady; decide +kernel,
   by unfold CoreReady; decide +kernel,
   by unfold CoreReady; decide +kernel,
   by unfold CoreReady; decide +kernel,
   by decide +kernel,
   by decide +kernel,
   by decide +kernel,
   by decide +kernel,
   by decide +kernel,
   by decide +kernel⟩
end CoreMem

namespace Scratch

def listByte1 : List Byte := [1]
def sp : State :=
  { s1 with scratch := { sc with fixing := [3,9], ports := [(0,{lastGranted:=4, requests := [⟨17, 32⟩, ⟨3, 8192⟩, ⟨3, 5⟩]}),(25, {lastGranted := 19, requests := [⟨17, 32⟩, ⟨0, 8192⟩]})] } }
/-- Hypotheses of `Obligations.Scratchpads`. -/
theorem test_meets_ScratchpadPorts :
    ((bankPort s1 0 0).requests = []) ∧
    ((bankPort sp 0 0).requests ≠ []) ∧
    (0 < 20 ∧ 0 < 20) ∧
    (bankOf 0 = 0) ∧
    (bankOf 100663295 ≠ 0) ∧
    (((splitRequests 0 1).any fun r => decide True) = true) :=
  by refine ⟨?_, ?_, ?_, ?_, ?_, ?_⟩ <;> decide +kernel
/-- Hypotheses of `Obligations.Scratchpads`. -/
theorem test_meets_ScratchpadAliases :
    (Machine.Inv s1 ∧ s1.scratch.bad = [] ∧ 0 < 8 ∧ 0 < 100663296 ∧ 100663296 ≤ 100663296 ∧ 100663296 < 134217728) ∧
    (Machine.Inv s1 ∧ s1.scratch.bad = [] ∧ 0 < 8 ∧ 0 < 100663296 ∧ 1 ≠ 0 * 536870912 + 0) :=
  ⟨by unfold Machine.Inv; decide +kernel,
   by unfold Machine.Inv; decide +kernel⟩
theorem test_meets_ScratchpadMarks :
    (s1.scratch.bad = [] ∧ (0 / 32 : Nat) ≤ 0 ∧ listByte1 ≠ [] ∧ 0 ≤ (0 + listByte1.length - 1) / 32) ∧
    (s1.scratch.bad = [] ∧ listByte1 ≠ [] ∧ (1 < (0 / 32 : Nat) ∨ (0 + listByte1.length - 1) / 32 < 1)) :=
  ⟨by decide +kernel,
   by decide +kernel⟩
end Scratch

namespace Tables

def q0 : State :=
  { s1 with tables := { descIndex := 7, descs := [(7, ⟨dd 0, none⟩), (8, ⟨dd 4096, none⟩)], allocs := [(5, { valid := true, base := 0, size := 0x10000, gen := 3, descRefs := 2, tenant := 1 }), (1, { valid := true, scratch := true, base := 0x1000, size := 64, gen := 63 }), (2, { gen := 5 }), (4, { valid := true, base := 0x20000, size := 64, gen := 1, image := some 0}), (0, { valid := true, size := 2^36 - 2^30, base := 2^30 })], allocBase := 0x100000, allocSize := 0x1000, allocId := BitVec.ofNat 20 (3*16384+5) },
            tenancy.tenants := [(0, { valid := true }), (1, { valid := true })],
            dram.channels := (List.range 512).map fun k => (k, { live := true }), scratch := sc }
def A (id : Nat) (s : State) : State := { s with tables.allocId := BitVec.ofNat 20 id }
def D (i : Nat) (s : State) : State := { s with tables.descIndex := BitVec.ofNat 16 i }
def q3 : State := { q0 with tables.copies := [⟨.dma 0, 7, 8, dd 0, dd 4096, none⟩], tables.allocBase := 0x1003}
def q4 : State := { q0 with order.nodes := [(0, [3, 5])], fabric.node := 1 }
def q5 : State :=
  { q0 with order.releases := [{ agent := .host, scope := .module }],
            heldHost := [.registerRead 0 false, .registerWrite 0x500 5 true false, .hostReleaseModule, .registerRead 4 false] }
def q6 : State :=
  { q0 with order.releases := [{ agent := .core 1, scope := .module }, { agent := .core 2, scope := .system, awaiting := [(3, 5)] }, {agent := .host, scope := .system, awaiting := [(2,1)]}] }
def q7 : State := { q0 with tables.alloc := { busy := true, outcome := 5 }, tables.newAllocId := some 77 }
def q9 : State := { q0 with heldHost := [.hostReleaseModule] }
def q10 : State := {q0 with tables.allocs := q0.tables.allocs.map fun x => (x.1, { x.2 with descRefs := 0 })}
def q11 : State :=
  { q10 with tables.stage := (List.range 8).map fun k => (dd 64 + BitVec.ofNat 512 (4*2^128) + BitVec.ofNat 512 (2^64 * 2^44 * (3*16384+5))).extractLsb' (64*k) 64,
             tables.descIndex := 9 }
def state2 : State := A (16384 + 4) q0
def state5 : State := D 9 q0
def state8 : State := {q0 with start.stopped := true}
def state12 : State := { q0 with deferred := [.bar2Read 0 32] }
def listInstr1 : List Instr := []
theorem test_meets_HostCommandsGated :
    (hostOpen s0 = false ∧ hostRow Instr.allocCreate = true) ∧
    (hostOpen state8 = true ∧ state8.start.stopped = true ∧ hostRow Instr.allocCreate = true ∧ bootTakes Instr.allocCreate =
      false) ∧
    (hostOpen q5 = true ∧ q5.start.stopped = false ∧ hostPending q5 = true ∧ hostRow Instr.allocCreate = true ∧ exemptRead
      Instr.allocCreate = false) ∧
    (hostOpen state12 = true ∧ hostRow Instr.allocCreate = true ∧ (state12.start.stopped = true → bootTakes Instr.allocCreate =
      true) ∧ (hostPending state12 = true → exemptRead Instr.allocCreate = true) ∧ (accessWaits Instr.allocCreate state12 = true
      ∨ hostBlocked state12 = true ∧ exemptRead Instr.allocCreate = false)) ∧
    (hostOpen state12 = true ∧ hostRow (Instr.registerRead (1548 : BitVec 24) false) = true ∧ (state12.start.stopped = true →
      bootTakes (Instr.registerRead (1548 : BitVec 24) false) = true) ∧ (hostPending state12 = true → exemptRead
      (Instr.registerRead (1548 : BitVec 24) false) = true) ∧ accessWaits (Instr.registerRead (1548 : BitVec 24) false) state12
      = false ∧ (hostBlocked state12 = true → exemptRead (Instr.registerRead (1548 : BitVec 24) false) = true)) :=
  by refine ⟨?_, ?_, ?_, ?_, ?_⟩ <;> decide +kernel
/-- Hypotheses of `Obligations.HostCommandsGated`. -/
theorem test_meets_HeldCommandsFollow :
    (hostPending q5 = true) ∧
    (hostPending s0 = false ∧ s0.heldHost = []) ∧
    (hostPending q9 = false ∧ q9.heldHost = Instr.hostReleaseModule :: listInstr1) :=
  by refine ⟨?_, ?_, ?_⟩ <;> decide +kernel
/-- Hypotheses of `Obligations.TableOperations`. -/
theorem test_meets_AllocationOperations :
    (hostFree q7 = true ∧ tableBusy q7 = true) ∧
    (hostFree s1 = true ∧ tableBusy s1 = false ∧ hostAllocCheck s1 ≠ (0 : Half)) ∧
    (hostFree q10 = true ∧ tableBusy q10 = false ∧ hostAllocCheck q10 = (0 : Half) ∧ (freeAllocIndex q10).isSome = true) ∧
    (hostFree s1 = true ∧ tableBusy s1 = false ∧ allocOf s1 s1.tables.allocId.toNat = none) ∧
    (hostFree state2 = true ∧ tableBusy state2 = false ∧ Option.any (fun y => decide (y.snd.image ≠ none)) (allocOf state2
      state2.tables.allocId.toNat) = true) ∧
    (hostFree q0 = true ∧ tableBusy q0 = false ∧ (Option.any (fun y => decide (y.snd.image = none ∧ y.snd.descRefs ≠ 0))
      (allocOf q0 q0.tables.allocId.toNat) = true)) ∧
    (hostFree q10 = true ∧ tableBusy q10 = false ∧ (Option.any (fun y => decide (y.snd.image = none ∧ y.snd.descRefs = 0))
      (allocOf q10 q10.tables.allocId.toNat) = true)) :=
  by refine ⟨?_, ?_, ?_, ?_, ?_, ?_, ?_⟩ <;> decide +kernel
/-- Hypotheses of `Obligations.TableOperations`. -/
theorem test_meets_DescriptorOperations :
    (hostFree q7 = true ∧ tableBusy q7 = true) ∧
    (hostFree q10 = true ∧ tableBusy q10 = false ∧ (q10.tables.descIndex = (0 : Half) ∨ (descEntry q10 (BitVec.toNat
      q10.tables.descIndex)).isSome = true)) ∧
    (hostFree state5 = true ∧ tableBusy state5 = false ∧ state5.tables.descIndex ≠ (0 : Half) ∧ descEntry state5 (BitVec.toNat
      state5.tables.descIndex) = none ∧ (descCheck state5 (codebookOk state5) none (decodeDesc (stagedWords state5))).isSome =
      true) ∧
    (hostFree q11 = true ∧ tableBusy q11 = false ∧ q11.tables.descIndex ≠ (0 : Half) ∧ descEntry q11 (BitVec.toNat
      q11.tables.descIndex) = none ∧ descCheck q11 (codebookOk q11) none (decodeDesc (stagedWords q11)) = none) ∧
    (hostFree q3 = true ∧ tableBusy q3 = false ∧ Option.any (fun e => decide (namedByCopy q3 (BitVec.toNat q3.tables.descIndex)
      = true)) (descEntry q3 (BitVec.toNat q3.tables.descIndex)) = true) ∧
    (hostFree q10 = true ∧ tableBusy q10 = false ∧ Option.any (fun e => decide (namedByCopy q10 (BitVec.toNat
      q10.tables.descIndex) = false)) (descEntry q10 (BitVec.toNat q10.tables.descIndex)) = true) :=
  by refine ⟨?_, ?_, ?_, ?_, ?_, ?_⟩ <;> decide +kernel
theorem test_meets_Releases :
    (hostFree q10 = true ∧ fenceCause q10 0 (fenceTargets q10 0) = none) ∧
    (hostFree q4 = true ∧ (fenceCause q4 0 (fenceTargets q4 0)).isSome = true) ∧
    (Option.any (fun r => decide (r.awaiting = [])) q5.order.releases[0]? = true) ∧
    (Option.any (fun r => decide (r.awaiting ≠ [])) q6.order.releases[1]? = true) :=
  by refine ⟨?_, ?_, ?_, ?_⟩ <;> decide +kernel
end Tables

namespace Registers

def r0 : State :=
  { s1 with events.scratch := [0,3], protect.event := true, spread.degradedEvent := true, lut.aggEvent := true,
            lut.recordEvent := true, port.event := true, port.latched := [(0x100010, 5), (0,9), (0x2A0, 5), (0x400008, 4)],
            port.held := [(0xE00010, 7), (0x100010, 3), (0x2A0, 99), (0x408, 3), (0x600, 3)], tables.allocId := 77 }
/-- Hypotheses of `Obligations.RegisterAccess`. -/
theorem test_meets_RegisterHalves :
    (hostFree r0 = true ∧ 672 < 16777216 ∧ 672 % 8 = 0 ∧ 672 ≠ 15728640 ∧ wide 672 = true ∧ (tabFind? r0.port.latched
      672).isSome = true) ∧
    (hostFree r0 = true ∧ 672 < 16777216 ∧ 672 % 8 = 0 ∧ 672 ≠ 15728640 ∧ wide 672 = true ∧ (tabFind? r0.port.held 672).isSome =
      true) ∧
    (hostFree s1 = true ∧ 0 < 16777216 ∧ 0 % 8 = 0 ∧ 0 ≠ 15728640 ∧ wide (0) = false ∧ (0 / 1048576 < 4 ∨ 11 < 0 / 1048576)) :=
  by refine ⟨?_, ?_, ?_⟩ <;> decide +kernel
/-- Hypotheses of `Obligations.RegisterAccess`. -/
theorem test_meets_EventBitsClearOnOne : hostFree s1 = true ∧ 0 < 8 :=
  by decide +kernel
theorem test_meets_IdentityRegisters : hostFree s1 = true :=
  by decide +kernel
theorem test_meets_PlainRegistersReadBack : hostFree s1 = true ∧ (0x2A0, 2 ^ 40 - 1) ∈ plainRegs :=
  by decide +kernel
end Registers

namespace Windows

def dr : State :=
  { s1 with dram.channels := (List.range 512).map fun k => (k, { live := true }), scratch := { sc with marks := [] } }
def full (s : State) : State := { s with spread.units := liveUnitCount s.spread.applied }
def state5 : State := { full dr with port.bar2Base := 0xA000000000 }
def listByte2 : List Byte := [1]
/-- Hypotheses of `Obligations.HostMemoryWindows`. -/
theorem test_meets_Bar2Accesses :
    (hostFree dr = true ∧ 1 ≤ 1 ∧ dr.port.bar2Base.toNat + BitVec.toNat (0 : BitVec 36) + 1 ≤ capacity dr ∧ (∀ (i : Nat), i < 1
      → sealedAt false (dr.port.bar2Base.toNat + BitVec.toNat (0 : BitVec 36) + i) dr = none) ∧ accessWaits (Instr.bar2Read (0 :
      BitVec 36) 1) dr = false ∧ (∀ (i : Nat), i < (dr.port.bar2Base.toNat + BitVec.toNat (0 : BitVec 36) + 1 + 31) / 32 -
      (dr.port.bar2Base.toNat + BitVec.toNat (0 : BitVec 36)) / 32 → Option.any (fun p => decide (chanOfSector p.sector =
      globalChannel p ∧ ((chan dr (globalChannel p)).failed = true ∨ openWires (chan dr (globalChannel p)) = [] ∧ (decodeSector
      (storedData dr p.sector) (storedChecks dr p.sector)).uncorrectable = false))) (place dr ((dr.port.bar2Base.toNat +
      BitVec.toNat (0 : BitVec 36)) / 32 * 32 + 32 * i)) = true)) ∧
    (hostFree state5 = true ∧ capacity state5 ≤ state5.port.bar2Base.toNat + BitVec.toNat (0 : BitVec 36) ∧ 1 ≤ 1 ∧ accessWaits
      (Instr.bar2Read (0 : BitVec 36) 1) state5 = false) ∧
    (hostFree dr = true ∧ Machine.Inv dr ∧ dr.spread.units = liveUnitCount dr.spread.applied ∧ (dr.port.bar2Base.toNat +
      BitVec.toNat (0 : BitVec 36)) % 32 = 0 ∧ 1 ≤ listByte3.length ∧ listByte3.length % 32 = 0 ∧ dr.port.bar2Base.toNat +
      BitVec.toNat (0 : BitVec 36) + listByte3.length ≤ capacity dr ∧ (∀ (i : Nat), i < listByte3.length → sealedAt false
      (dr.port.bar2Base.toNat + BitVec.toNat (0 : BitVec 36) + i) dr = none) ∧ accessWaits (Instr.bar2Write (0 : BitVec 36)
      (List.map some listByte3) false) dr = false ∧ (∀ (i : Nat), i < listByte3.length / 32 → Option.any (fun p => decide ((chan
      dr (globalChannel p)).failed = false ∧ openWires (chan dr (globalChannel p)) = [] ∧ chanOfSector p.sector = globalChannel
      p ∧ (decodeSector (storedData dr p.sector) (storedChecks dr p.sector)).uncorrectable = false)) (place dr
      (dr.port.bar2Base.toNat + BitVec.toNat (0 : BitVec 36) + 32 * i)) = true)) ∧
    (hostFree dr = true ∧ dr.port.bar2Base.toNat + BitVec.toNat (0 : BitVec 36) < capacity dr ∧ (dr.port.bar2Base.toNat +
      BitVec.toNat (0 : BitVec 36)) % 32 ≠ 31 ∧ sealedAt false ((dr.port.bar2Base.toNat + BitVec.toNat (0 : BitVec 36)) / 32 *
      32) dr = none ∧ accessWaits (Instr.bar2Write (0 : BitVec 36) [some (0 : Byte)] false) dr = false) :=
  ⟨by decide +kernel,
   by decide +kernel,
   by unfold Machine.Inv; decide +kernel,
   by decide +kernel⟩
/-- Hypotheses of `Obligations.HostMemoryWindows`. -/
theorem test_meets_Bar4Accesses :
    (hostFree dr = true ∧ dr.scratch.bad = [] ∧ 1 ≤ 1 ∧ (∀ (i : Nat), i < 1 → resolve (BitVec.toNat (32 : BitVec 32) + i) = some
      (Alias.normal, 32 + i) ∧ sealedAt true (32 + i) dr = none)) ∧
    (hostFree dr = true ∧ resolve (BitVec.toNat (100663296 : BitVec 32)) = none ∧ disturbSram [] [] (BitVec.toNat (100663296 :
      BitVec 32)) 1 dr = dr) ∧
    (hostFree dr = true ∧ Machine.Inv dr ∧ dr.scratch.bad = [] ∧ 1 ≤ listByte2.length ∧ (∀ (i : Nat), i < listByte2.length →
      resolve (BitVec.toNat (32 : BitVec 32) + i) = some (Alias.normal, 32 + i) ∧ sealedAt true (32 + i) dr = none)) :=
  ⟨by decide +kernel,
   by decide +kernel,
   by unfold Machine.Inv; decide +kernel⟩
theorem test_meets_RefusedTraffic : hostFree dr = true ∧ (BitVec.toNat (4 : BitVec 24) % if true = true then 8 else 4) ≠ 0 :=
  by decide +kernel
end Windows

namespace Port

def dd (b : Nat) (fmt : Nat := 0) : BitVec 512 := BitVec.ofNat 512 (b * 2^24 + fmt * 2 ^ 20 + 1 * 2^17 + 3 * 2^9 + 1 * 2 ^ 7 + 8
      * 2^128)
def dr : State :=
  { s1 with dram.channels := (List.range 512).map fun k => (k, { live := true }), scratch := sc,
            tables.descs := [(7, ⟨dd 0, none⟩), (8, ⟨dd 4096 + 2^511, none⟩)] }
def w0 (th irq : Nat) : Quad := BitVec.ofNat 64 (7 * 2^48 + th * 2^47 + irq * 2^46 + 3 * 2^40)
def arm0 : Quad := BitVec.ofNat 64 (2^48 + 1)
def slot (th irq n : Nat) : DmaSlot := { words := [w0 th irq, 0x1000, 0x2000, BitVec.ofNat 64 n, 99, 0, 0, 0] }
def rs (th n : Nat) : DmaSlot :=
  { slot th 1 n with words := (slot th 1 n).words.set 7 arm0, gen := 1, phase := .running, copied := (slot th 1 n).words.take 7,
                     descriptor := dd 0 }
def ds (l : List (Nat × DmaSlot)) (q : List Nat) (s : State) : State := { s with port.dma := l, port.dmaQueue := q }
def rd0 (d : Nat) (e : Option ReadEnd) : HostRead :=
  { tag := 5, purpose := .dma 0, addr := 0x1000, length := 32, ended := e,
    data := (List.range d).map fun i => (BitVec.ofNat 8 i, false) }
def state1 : State := ds [(0, slot 1 1 32)] [] dr
def state4 : State := ds [(0, {rs 1 32 with phase := .queued}), (1, rs 0 32)] [0, 9] dr
def state6 : State := ds [(0, rs 1 32)] [] dr
def state8 : State := { ds [(0, rs 0 32)] [] dr with port.reads := [rd0 30 none] }
def state10 : State :=
  { s1 with port.pending := [3], port.msixEnable := true, port.busMasterEnable := true,
            port.msix := [(3, {addr := 0x1000, data := 5})]}
def state15 : State := { s1 with kv.slots := [(0, { seq := 1, entry := 0, tenant := 0, nonce := 0 })] }
def state16 : State := { state6 with dram.channels := (List.range 512).map fun k => (k, { live := true, slicing := true }) }
def listByte1 : List Byte := []
theorem test_meets_PortCommands :
    (s0.port.ready = false ∧ s0.start.stopped = false) ∧
    ((dr.port.ready = true ∨ dr.start.stopped = true) ∧ dr.port.d3hot = false) ∧
    ((dr.port.ready = true ∨ dr.start.stopped = true) ∧ (4, 2 ^ 24, false) ∈ [(4, 2 ^ 24, false), (6, 2 ^ 36, true), (8, 2 ^ 32,
      false)]) ∧
    (hostFree dr = true ∧ dr.port.pending = []) ∧
    (hostFree state10 = true ∧ state10.port.msixEnable = true ∧ state10.port.functionMask = false ∧ state10.port.busMasterEnable
      = true ∧ state10.port.pending = [3]) ∧
    ((([1, 2, 4, 8, 16].any fun width => decide (dr.supply.service = false ∧ 2 ≤ dr.start.state ∧ 1 ≤ 1 ∧ 1 ≤ 6)) = true)) ∧
    (hostFree dr = true ∧ swapIdle dr = true ∧ BitVec.toNat ((0 : Quad) &&& (8796092956672 : Quad)) ≤ 2 ^ 42) ∧
    (hostFree state15 = true ∧ swapIdle state15 = false) :=
  by refine ⟨?_, ?_, ?_, ?_, ?_, ?_, ?_, ?_⟩ <;> decide +kernel
/-- Hypotheses of `Obligations.PortCommands`. -/
theorem test_meets_DmaEngine :
    (hostFree state1 = true ∧ (dmaSlot state1 0).phase = DmaPhase.free ∧ BitVec.getLsbD arm0 0 = true ∧ BitVec.extractLsb' 48 16
      arm0 = (dmaSlot state1 0).gen + (1 : BitVec 16) ∧ dmaCheck state1 (have __src := dmaSlot state1 0;
      { words := (dmaSlot state1 0).words.set 7 arm0, gen := BitVec.extractLsb' 48 16 arm0, phase := __src.phase, code := __src.code, copied := List.take 7 ((dmaSlot state1 0).words.set 7 arm0), descriptor := __src.descriptor, image := __src.image })
      arm0 = (0 : Half)) ∧
    (hostFree dr = true ∧ (dmaSlot dr 0).phase = DmaPhase.free ∧ BitVec.getLsbD arm0 0 = true ∧ BitVec.extractLsb' 48 16 arm0 =
      (dmaSlot dr 0).gen + (1 : BitVec 16) ∧ dmaCheck dr (have __src := dmaSlot dr 0;
      { words := (dmaSlot dr 0).words.set 7 arm0, gen := BitVec.extractLsb' 48 16 arm0, phase := __src.phase, code := __src.code, copied := List.take 7 ((dmaSlot dr 0).words.set 7 arm0), descriptor := __src.descriptor, image := __src.image })
      arm0 ≠ (0 : Half)) ∧
    (hostFree dr = true ∧ (BitVec.getLsbD (0 : Quad) 0 = false ∨ (dmaSlot dr 0).phase ≠ DmaPhase.free)) ∧
    ((dmaSlot state16 0).phase = DmaPhase.running ∧ ((dmaSlot state16 0).toHost = true ∨ ∀ (r : HostRead), r ∈ readsOf state16 0
      → r.ended.isSome = true) ∧ dmaWaits state16 0 = true) ∧
    ((dmaSlot state4 1).phase = DmaPhase.running ∧ ((dmaSlot state4 1).toHost = true ∨ ∀ (r : HostRead), r ∈ readsOf state4 1 →
      r.ended.isSome = true) ∧ dmaWaits state4 1 = false) :=
  by refine ⟨?_, ?_, ?_, ?_, ?_⟩ <;> decide +kernel
/-- Hypotheses of `Obligations.PortCommands`. -/
theorem test_meets_HostReadsEnd :
    (openRead s0 0 = none) ∧
    (Option.any (fun r => decide (r.data.length + listByte1.length < r.length)) (openRead state8 5) = true) ∧
    (Option.any (fun r => decide (r.length ≤ r.data.length + listByte3.length)) (openRead state8 5) = true) :=
  by refine ⟨?_, ?_, ?_⟩ <;> decide +kernel
end Port

namespace Sequences

def sq (st : SeqState) (pages : List PageEntry) (len : Nat) : Sequence :=
  { state := st, tenant := 3, pages := pages, length := len }
def kb : State :=
  { sI with tenancy.tenants := [(0, T 0), (3, T 3), (4, T 4)],
            kv.seqs := [(0, sq .idle [] 0), (1, sq .idle [] 0), (2, sq .swapped [.swapped 0] 10), (3, sq .idle [.resident 0,
              .resident 1] 70)],
            kv.blocks := [(0, {refs := 2, tenant := 3}), (1, {refs := 1, tenant := 3}), (2,
              {refs := 0, tree := true, tenant := 3})],
            kv.seqTenant := 3, kv.slots := [(0, {seq := 2, entry := 0, tenant := 3, nonce := 0})], port.swapSize := 0x1000000,
            port.swapBase := 0x100000, lut.keysDrawn := true,
            dram.channels := (List.range 512).map fun k => (k, { live := true }), port.busMasterEnable := true }
def idq (q : Nat) (s : State) : State := { s with kv.seqId := BitVec.ofNat 16 q }
def sS (q : Nat) (st : SeqState) (s : State) (rp : Bool := false) : State := onSeq q (fun e =>
      { e with state := st, releasePending := rp }) s
def kl : State := { kb with kv.lowBlocks := 20 }
def fl : State := { kb with kv.filling := [5], kv.blocks := kb.kv.blocks.filter fun x => x.1 ≠ 5 }
def inn : State := sS 2 .swappingIn kb
def held5 (s : State) : State :=
  { s with dram.channels := (List.range 512).map fun k => (k, { live := true, holds := (List.range 16).map fun p => (p, 5) }) }
def outgoing (s : State) : Option (State × Bool) :=
  (victim s).bind fun q => (cacheDecl s).map fun d =>
    swapOutBlocks d q (privateEntries s q) (onSeq q (fun e => { e with state := .swappingOut }) s)
def fitting (s : State) : Bool :=
  (victim s).any fun q => s.kv.slots.length + (privateEntries s q).length ≤ slotCount s && s.lut.keysDrawn
def outWaits (s : State) : Option Bool :=
  (victim s).bind fun q => (cacheDecl s).map fun d => (privateEntries s q).any fun e => blockWaits s d e.2
def inWaits (s : State) : Option Bool :=
  (cacheDecl s).bind fun d => (allocBlock (seqEntry s 2).tenant s).map fun x => blockWaits s d x.1
def state4 : State := idq 1 (sS 1 .stepping kb)
def state5 : State := idq 3 (sS 3 .swappingOut kb)
def state6 : State := idq 2 inn
def state7 : State := {kb with kv.op.busy := true}
def state8 : State := {kl with port.swapSize := 0}
def state11 : State := sS 3 .swappingOut kb true
def state12 : State := sS 3 .swappingIn kb
def state13 : State := sS 3 .swappingIn kb true
def state15 : State := onSeq 0 (fun e => {e with state := .free}) (idq 3 kb)
def state16 : State := { kl with kv.seqs := [(3, sq .idle [.resident 1, .resident 1] 70)]}
def state17 : State := { state16 with dram.channels := (List.range 512).map fun k => (k, { failed := true }) }
def slotImage1 : SlotImage := ⟨.ok, 1, 2, 3, 0, true, [], List.replicate 100000 0⟩
def blkGood : List Byte := List.replicate (headerOffset cdecl 0 1 + 7) 0 ++ [0x20]
def good : SlotImage := ⟨.ok, 1, 2, 3, 0, true, [], blkGood⟩
def leaving : State :=
  { kl with load.images := [(0, { img with decls := [.cache { cdecl with pageBytes := 960, headerBytes := 64 }] })],
            kv.seqs := [(3, sq .idle [.resident 1] 70)], dram.channels := [] }
def lost : State := { leaving with dram.channels := (List.range 512).map fun k => (k, { failed := true }) }
theorem test_meets_SequenceOperations :
    (hostFree state7 = true ∧ state7.kv.op.busy = true ∧ (Instr.seqCreate { corrected := 0, bad := false } = Instr.seqCreate
      hubSram1 ∨ Instr.seqCreate { corrected := 0, bad := false } = Instr.seqFork hubSram1 ∨ Instr.seqCreate
      { corrected := 0, bad := false } = Instr.seqRelease hubSram1 ∨ Instr.seqCreate { corrected := 0, bad := false } =
      Instr.seqQuery hubSram1)) ∧
    (hostFree state17 = true ∧ state17.kv.op.busy = false ∧ (Instr.seqRelease { corrected := 0, bad := true } = Instr.seqCreate
      hubSram3 ∧ HubEntry.seq 0 = HubEntry.seq ((freeSeqNumber state17).getD 0) ∨ (Instr.seqRelease
      { corrected := 0, bad := true } = Instr.seqFork hubSram3 ∨ Instr.seqRelease { corrected := 0, bad := true } =
      Instr.seqRelease hubSram3 ∨ Instr.seqRelease { corrected := 0, bad := true } = Instr.seqQuery hubSram3) ∧ HubEntry.seq 0 =
      namedSeq state17) ∧ hubBad (HubEntry.seq 0) hubSram3 state17 = true) ∧
    (hostFree s1 = true ∧ s1.kv.op.busy = false ∧ ¬HubEntry.seq 0 ∈ s1.protect.hubMarks ∧ (∀ (k : Nat), k < sequenceCount s1 →
      ¬ReadsFree s1 k) ∧ hubSram1.bad = false) ∧
    (hostFree state17 = true ∧ state17.kv.op.busy = false ∧ hubSram1.bad = false ∧ 0 < sequenceCount state17 ∧ ReadsFree state17
      0 ∧ (∀ (k : Nat), k < 0 → ¬ReadsFree state17 k)) ∧
    (hostFree state15 = true ∧ state15.kv.op.busy = false ∧ (seqEntry state15 (BitVec.toNat state15.kv.seqId)).state =
      SeqState.idle ∧ hubBad (namedSeq state15) hubSram1 state15 = false ∧ 0 < sequenceCount state15 ∧ ReadsFree state15 0 ∧ (∀
      (k : Nat), k < 0 → ¬ReadsFree state15 k)) ∧
    (hostFree kb = true ∧ kb.kv.op.busy = false ∧ (seqEntry kb (BitVec.toNat kb.kv.seqId)).state = SeqState.idle ∧ (∀ (k : Nat),
      k < sequenceCount kb → ¬ReadsFree kb k) ∧ hubBad (namedSeq kb) hubSram1 kb = false) ∧
    (hostFree state17 = true ∧ state17.kv.op.busy = false ∧ (seqEntry state17 (BitVec.toNat state17.kv.seqId)).state ≠
      SeqState.idle ∧ hubBad (namedSeq state17) hubSram1 state17 = false) ∧
    (hostFree state17 = true ∧ state17.kv.op.busy = false ∧ (seqEntry state17 (BitVec.toNat state17.kv.seqId)).state =
      SeqState.free ∧ hubBad (namedSeq state17) hubSram1 state17 = false) ∧
    (hostFree kb = true ∧ kb.kv.op.busy = false ∧ ((seqEntry kb (BitVec.toNat kb.kv.seqId)).state = SeqState.idle ∨ (seqEntry kb
      (BitVec.toNat kb.kv.seqId)).state = SeqState.swapped) ∧ hubBad (namedSeq kb) hubSram1 kb = false) ∧
    (hostFree state4 = true ∧ state4.kv.op.busy = false ∧ ((seqEntry state4 (BitVec.toNat state4.kv.seqId)).state =
      SeqState.stepping ∨ (seqEntry state4 (BitVec.toNat state4.kv.seqId)).state = SeqState.swappingOut ∨ (seqEntry state4
      (BitVec.toNat state4.kv.seqId)).state = SeqState.swappingIn) ∧ hubBad (namedSeq state4) hubSram1 state4 = false) ∧
    (hostFree state17 = true ∧ state17.kv.op.busy = false ∧ BitVec.toNat state17.kv.seqId < sequenceCount state17 ∧ hubBad
      (namedSeq state17) hubSram1 state17 = false) ∧
    (hostFree s1 = true ∧ s1.kv.op.busy = false ∧ sequenceCount s1 ≤ BitVec.toNat s1.kv.seqId ∧ hubBad (namedSeq s1) hubSram1 s1
      = false) :=
  ⟨by decide +kernel,
   by decide +kernel,
   by unfold ReadsFree; decide +kernel,
   by unfold ReadsFree; decide +kernel,
   by unfold ReadsFree; decide +kernel,
   by unfold ReadsFree; decide +kernel,
   by decide +kernel,
   by decide +kernel,
   by decide +kernel,
   by decide +kernel,
   by decide +kernel,
   by decide +kernel⟩
theorem test_meets_Swapping :
    (swapWanted state8 = true ∧ (Option.any (fun q => decide (Option.any (fun d => decide (slotCount state8 < List.length
      state8.kv.slots + (privateEntries state8 q).length ∨ state8.lut.keysDrawn = false)) (cacheDecl state8) = true)) (victim
      state8) = true)) ∧
    (swapWanted (held5 leaving) = true ∧ fitting (held5 leaving) = true ∧ outWaits (held5 leaving) = some true) ∧
    (inWaits state6 = some false ∧ inWaits (held5 state6) = some true ∧ (firstSwapped (seqEntry (held5 state6) 2)).isSome = true ∧
      (seqEntry (held5 state6) 2).state = .swappingIn) ∧
    ((swapWanted s1 = false ∨ victim s1 = none)) ∧
    ((seqEntry state5 3).state = SeqState.swappingOut ∧ (seqEntry state5 3).releasePending = false) ∧
    ((seqEntry state11 3).state = SeqState.swappingOut ∧ (seqEntry state11 3).releasePending = true) ∧
    (state6.port.busMasterEnable = true ∧ state6.port.d3hot = false ∧ (Option.any (fun d => decide ((seqEntry state6 2).state =
      SeqState.swappingIn ∧ Option.any (fun y => decide (Option.any (fun y_1 => decide (slotCheck (noteRead good.ended
      (sendReads (slotBytes d / 4096) (y_1.snd.port.swapBase + BitVec.ofNat 64 (y.snd * slotBytes d)) (slotBytes d) y_1.snd)) d
      2 y.fst good = none)) (allocBlock (seqEntry state6 2).tenant state6) = true)) (firstSwapped (seqEntry state6 2)) = true))
      (cacheDecl state6) = true)) ∧
    (state6.port.busMasterEnable = true ∧ state6.port.d3hot = false ∧ (Option.any (fun d => decide ((seqEntry state6 2).state =
      SeqState.swappingIn ∧ Option.any (fun y => decide (Option.any (fun y_1 => decide ((slotCheck (noteRead slotImage1.ended
      (sendReads (slotBytes d / 4096) (y_1.snd.port.swapBase + BitVec.ofNat 64 (y.snd * slotBytes d)) (slotBytes d) y_1.snd)) d
      2 y.fst slotImage1).isSome = true)) (allocBlock (seqEntry state6 2).tenant state6) = true)) (firstSwapped (seqEntry state6
      2)) = true)) (cacheDecl state6) = true)) ∧
    ((seqEntry state12 3).state = SeqState.swappingIn ∧ firstSwapped (seqEntry state12 3) = none ∧ (seqEntry state12
      3).releasePending = false) ∧
    ((seqEntry state13 3).state = SeqState.swappingIn ∧ firstSwapped (seqEntry state13 3) = none ∧ (seqEntry state13
      3).releasePending = true) ∧
    ((fl.kv.filling.any fun n => decide ((cacheDecl fl).isSome = true)) = true) :=
  by refine ⟨?_, ?_, ?_, ?_, ?_, ?_, ?_, ?_, ?_, ?_, ?_⟩ <;> decide +kernel
/-- Hypotheses of `Obligations.Swapping`. -/
theorem test_meets_SwapOutClean : swapWanted leaving = true ∧ fitting leaving = true ∧ outWaits leaving = some false ∧
    (outgoing leaving).map (·.2) = some false := by decide +kernel
/-- Hypotheses of `Obligations.Swapping`. -/
theorem test_meets_SwapOutPoisoned : swapWanted lost = true ∧ fitting lost = true ∧ outWaits lost = some false ∧
    (outgoing lost).map (·.2) = some true := by decide +kernel
/-- Hypotheses of `Obligations.Swapping`. -/
theorem test_meets_BlockReferences :
    (Option.any (fun b => decide (1 < b.refs)) (tabFind? state17.kv.blocks 0) = true) ∧
    ((Option.any (fun b => decide (b.refs ≤ 1 ∧ b.tree = true)) (tabFind? state17.kv.blocks 2) = true)) ∧
    ((Option.any (fun b => decide (b.refs ≤ 1 ∧ b.tree = false)) (tabFind? state17.kv.blocks 1) = true)) ∧
    (Option.any (fun b => decide (1 ≠ 0)) (tabFind? state17.kv.blocks 0) = true) :=
  by refine ⟨?_, ?_, ?_, ?_⟩ <;> decide +kernel
end Sequences

namespace Arming

def slw (i : Nat) (ws : List Quad) : List (Nat × Quad) := ws.zipIdx.map fun x => (32*i+x.2, x.1)
def sq (st : SeqState) (pages : List PageEntry) (len : Nat) : Sequence :=
  { state := st, tenant := 3, pages := pages, length := len }
def kb : State :=
  { sI with tenancy.tenants := [(0, T 0), (3, T 3), (4, T 4)],
            kv.seqs := [(0, sq .idle [] 0), (1, sq .idle [] 0), (2, sq .swapped [.swapped 0] 10), (3, sq .idle [.resident 0,
              .resident 1] 70)],
            kv.blocks := [(0, {refs := 2, tenant := 3}), (1, {refs := 1, tenant := 3}), (2,
              {refs := 0, tree := true, tenant := 3})],
            kv.seqTenant := 3, kv.slots := [(0, {seq := 2, entry := 0, tenant := 3, nonce := 0})], port.swapSize := 0x1000000,
            port.swapBase := 0x100000, lut.keysDrawn := true,
            dram.channels := (List.range 512).map fun k => (k, { live := true }), port.busMasterEnable := true }
def armW (g : Nat) (b : Nat := 1) : Quad := BitVec.ofNat 64 (g * 2^48 + b)
def a1 : State := { kb with serve.slotWords := slw 2 (wsl 4 10), us := 77 }
def c1 : State := rq (fun r => { r with state := .ready, gen := 1 }) a1
def st (w : StepId) (x : Step) (s : State) : State := setStep w (some x) s
def state1 : State := rq (fun r => { r with state := .admitting, gen := 1 }) a1
def state2 : State := rq (fun r => { r with state := .admitting, promptRead := some false}) a1
def state4 : State := rq (fun r => { r with state := .admitting, prompt := [1, 100]}) a1
def state7 : State := rq (fun r => { r with state := .ready, deadline := some 78}) a1
def state9 : State := rq (fun r => { r with state := .closing, update := 4, gen := 3}) a1
theorem test_meets_Arming :
    (hostFree s1 = true ∧ Arms 2 (armW 1) s1 ∧ hubBad (HubEntry.slot 2) hubSram1 s1 = false ∧ armCheck (metHub hubSram1 (armed 2
      (armW 1) s1)) 2 (slotCopy s1 2) (armW 1) ≠ (0 : Half) ∧ (Instr.arm (2 : Fin 4096) (armW 1)
      { corrected := 0, bad := false } = Instr.arm (2 : Fin 4096) (armW 1) hubSram1 ∨ Instr.arm (2 : Fin 4096) (armW 1)
      { corrected := 0, bad := false } = Instr.cancel (2 : Fin 4096) (armW 1) hubSram1)) ∧
    (hostFree s1 = true ∧ Arms 2 (armW 1) s1 ∧ hubBad (HubEntry.slot 2) hubSram3 s1 = true ∧ (Instr.cancel (2 : Fin 4096) (armW
      1) { corrected := 0, bad := true } = Instr.arm (2 : Fin 4096) (armW 1) hubSram3 ∨ Instr.cancel (2 : Fin 4096) (armW 1)
      { corrected := 0, bad := true } = Instr.cancel (2 : Fin 4096) (armW 1) hubSram3)) ∧
    (hostFree a1 = true ∧ Arms 2 (armW 1) a1 ∧ hubBad (HubEntry.slot 2) hubSram1 a1 = false ∧ armCheck (metHub hubSram1 (armed 2
      (armW 1) a1)) 2 (slotCopy a1 2) (armW 1) = (0 : Half) ∧ (Instr.arm (2 : Fin 4096) (armW 1)
      { corrected := 0, bad := false } = Instr.arm (2 : Fin 4096) (armW 1) hubSram1 ∨ Instr.arm (2 : Fin 4096) (armW 1)
      { corrected := 0, bad := false } = Instr.cancel (2 : Fin 4096) (armW 1) hubSram1)) ∧
    (hostFree c1 = true ∧ Cancels 2 (armW 1 2) c1 ∧ (Instr.arm (2 : Fin 4096) (armW 1 2) { corrected := 0, bad := false } =
      Instr.arm (2 : Fin 4096) (armW 1 2) hubSram1 ∨ Instr.arm (2 : Fin 4096) (armW 1 2) { corrected := 0, bad := false } =
      Instr.cancel (2 : Fin 4096) (armW 1 2) hubSram1)) ∧
    (hostFree s1 = true ∧ ¬Arms 2 (armW 1 2) s1 ∧ ¬Cancels 2 (armW 1 2) s1 ∧ (Instr.arm (2 : Fin 4096) (armW 1 2)
      { corrected := 0, bad := false } = Instr.arm (2 : Fin 4096) (armW 1 2) hubSram1 ∨ Instr.arm (2 : Fin 4096) (armW 1 2)
      { corrected := 0, bad := false } = Instr.cancel (2 : Fin 4096) (armW 1 2) hubSram1)) :=
  ⟨by unfold Arms; decide +kernel,
   by unfold Arms; decide +kernel,
   by unfold Arms; decide +kernel,
   by unfold Cancels; decide +kernel,
   by unfold Arms Cancels; decide +kernel⟩
theorem test_meets_RequestsOpenAndClose :
    ((request state2 2).state = ReqState.admitting ∧ (Option.any (fun p => decide (Option.any (fun b => decide (p = false ∨ b =
      false)) (request state2 2).biasRead = true)) (request state2 2).promptRead = true)) ∧
    ((request state4 2).state = ReqState.admitting ∧ (request state4 2).promptRead = some true ∧ (request state4 2).biasRead =
      some true ∧ ((request state4 2).prompt.any fun x => decide (vocabularySize state4 ≤ BitVec.toNat x)) = true) ∧
    ((request state1 2).state = ReqState.admitting ∧ (request state1 2).promptRead = some true ∧ (request state1 2).biasRead =
      some true ∧ ((request state1 2).prompt.all fun x => decide (x.toNat < vocabularySize state1)) = true ∧ ((request state1
      2).bias.all fun x => decide (x.1.toNat < vocabularySize state1)) = true ∧ hubBad (HubEntry.seq (requestSeq (request state1
      2))) hubSram3 state1 = true) ∧
    ((request state1 2).state = ReqState.admitting ∧ (request state1 2).promptRead = some true ∧ (request state1 2).biasRead =
      some true ∧ ((request state1 2).prompt.all fun x => decide (x.toNat < vocabularySize state1)) = true ∧ ((request state1
      2).bias.all fun x => decide (x.1.toNat < vocabularySize state1)) = true ∧ hubBad (HubEntry.seq (requestSeq (request state1
      2))) hubSram1 state1 = false) ∧
    (5 ≤ state7.start.state ∧ (Option.any (fun d => decide (((request state7 2).state = ReqState.admitting ∨ (request state7
      2).state = ReqState.ready) ∧ d ≤ 78)) (request state7 2).deadline = true)) ∧
    ((request state9 2).state = ReqState.closing ∧ (state9.port.reads.all fun r => !readOfSlot 2 r) = true) :=
  ⟨by decide +kernel,
   by decide +kernel,
   by decide +kernel,
   by decide +kernel,
   by decide +kernel,
   ⟨by decide +kernel, by decide +kernel⟩⟩
end Arming

namespace Steps

def sq (st : SeqState) (pages : List PageEntry) (len : Nat) : Sequence :=
  { state := st, tenant := 3, pages := pages, length := len }
def kb : State :=
  { sI with tenancy.tenants := [(0, T 0), (3, T 3), (4, T 4)],
            kv.seqs := [(0, sq .idle [] 0), (1, sq .idle [] 0), (2, sq .swapped [.swapped 0] 10), (3, sq .idle [.resident 0,
              .resident 1] 70)],
            kv.blocks := [(0, {refs := 2, tenant := 3}), (1, {refs := 1, tenant := 3}), (2,
              {refs := 0, tree := true, tenant := 3})],
            kv.seqTenant := 3, kv.slots := [(0, {seq := 2, entry := 0, tenant := 3, nonce := 0})], port.swapSize := 0x1000000,
            port.swapBase := 0x100000, lut.keysDrawn := true,
            dram.channels := (List.range 512).map fun k => (k, { live := true }), port.busMasterEnable := true }
def sS (q : Nat) (st : SeqState) (s : State) (rp : Bool := false) : State := onSeq q (fun e =>
      { e with state := st, releasePending := rp }) s
def st (w : StepId) (x : Step) (s : State) : State := setStep w (some x) s
def x0 (ms : List (Nat × Nat)) (prep : Bool := true) : Step :=
  { members := ms, selectedUs := 3, waves := 0, positions := 1, maxLength := 4, prepared := prep }
def rdy (f : Request → Request := id) (i : Nat := 2) (s : State := kb) : State := rq (fun r => f
      { r with state := .ready, computed := 3 }) s i
def go (f : Request → Request) (ms : List (Nat × Nat)) (prep : Bool := true) (s : State := kb) : State := sS 1 .stepping (st .lc
      (x0 ms prep) (rq (fun r => f { r with state := .stepping, computed := 3 }) s))
def lg (k : Nat) (n : Nat) (s : State) : State :=
  { s with serve.logits := tabPut s.serve.logits k ((List.range n).map fun i => (i, BitVec.ofNat 32 (0x3F800000 + (i * 7919) % 50 * 65536))) }
def words2 (dr : Nat) (temp : Nat) : List Quad := (wsl 4 10 1 0 dr).set 7 (BitVec.ofNat 64 (temp * 2^32 + 0x3F800000))
def bt (s : State) : State := { s with serve.logits := tabPut s.serve.logits 0 ((List.range 100).map fun i => (i, 0xFF800000)) }
def state1 : State := rdy (fun r => {r with computed := 0})
def state4 : State := go id [(2,1)]
def state6 : State := lg 0 100 (go id [(2,1)])
def state8 : State := bt (go id [(2,1)])
def state9 : State := lg 0 100 (go (fun r => {r with words := words2 3 0x3F800000}) [(2,3)])
def state13 : State := { lg 0 100 (go id [(2,1)]) with serve.poisonedLogits := [0] }
def state14 : State := go (fun r => { r with draws := [9] }) [(2,1)]
def state18 : State := sS 1 .stepping (st .chunk (x0 [(2,2)]) (rq (fun r => { r with state := .stepping }) kb))
def state20 : State := { rdy (fun r => {r with computed := 0}) with tenancy.jobs := [(0, { state := .running })] }
def state22 : State := { state4 with serve.lcStep := some { x0 [(2,1)] with failure := some 0x7041 } }
def natNat1 : Nat × Nat := (2,1)
def listNatNat1 : List (Nat × Nat) := []
def listNatRequest2 : List (Nat × Request) := [(2, request (rdy id) 2)]
theorem test_meets_StepsSelected :
    (underTest rdy true [] = false ∧ getStep rdy (classStep false) = none ∧ fillStep 8 (sortList (selectBefore rdy false)
      (List.filter (fun e => selectable rdy false e.snd && e.snd.promptLeft == 0) rdy.serve.requests)) = natNat1 :: listNatNat1)
      ∧
    (underTest state22 true [] = false ∧ getStep state22 (classStep true) = none ∧ fillStep 8 (sortList (selectBefore state22
      true) (List.filter (fun e => selectable state22 true e.snd && e.snd.promptLeft == 0) state22.serve.requests)) = []) ∧
    ((getStep state22 (classStep false)).isSome = true) ∧
    (state1.serve.chunk = none ∧ jobHolds state1 = false ∧ underTest state1 false (corePlan (servingDecls state1)) = false ∧
      (chunkRequest state1).isSome = true) ∧
    (state20.serve.chunk = none ∧ jobHolds state20 = true) :=
  by refine ⟨?_, ?_, ?_, ?_, ?_⟩ <;> decide +kernel
/-- Hypotheses of `Obligations.StepsSelected`. -/
theorem test_meets_StepsHoldEightPositions :
    (((fillStep 8 listNatRequest2).any fun m => decide True) = true) ∧
    (listNatRequest2 ≠ []) :=
  ⟨by decide +kernel,
   by decide +kernel⟩
theorem test_meets_Sampling :
    ((Option.any (fun x => decide (x.prepared = true ∧ x.failure = none ∧ Option.any (fun m => decide (Option.any (fun y =>
      decide ((request state9 y.fst.fst).failCode = none ∧ vocabularySize state9 ≤ (List.filter (fun e => decide (e.fst <
      vocabularySize state9)) m).length ∧ sampleDue (request state9 y.fst.fst) y.fst.snd y.snd true = true ∧ ¬logitKey false 0 ∈
      state9.serve.poisonedLogits)) (memberAt x.members 0) = true)) (tabFind? state9.serve.logits (logitKey false 0)) = true))
      (getStep state9 (classStep false)) = true)) ∧
    ((Option.any (fun x => decide (x.prepared = true ∧ x.failure = none ∧ Option.any (fun m => decide (Option.any (fun y =>
      decide ((request state6 y.fst.fst).failCode = none ∧ vocabularySize state6 ≤ (List.filter (fun e => decide (e.fst <
      vocabularySize state6)) m).length ∧ sampleDue (request state6 y.fst.fst) y.fst.snd y.snd false = true ∧ ¬logitKey false 0
      ∈ state6.serve.poisonedLogits ∧ (sampleToken (request state6 y.fst.fst).words (List.map (fun z => (z.fst, adjust (request
      state6 y.fst.fst) (penaltySet (request state6 y.fst.fst) y.snd) z.fst z.snd)) (List.filter (fun e => decide (e.fst <
      vocabularySize state6)) m)) (Config.freeDraw state6.free)).isSome = true)) (memberAt x.members 0) = true)) (tabFind?
      state6.serve.logits (logitKey false 0)) = true)) (getStep state6 (classStep false)) = true)) ∧
    ((Option.any (fun x => decide (x.prepared = true ∧ x.failure = none ∧ Option.any (fun m => decide (Option.any (fun y =>
      decide ((request state8 y.fst.fst).failCode = none ∧ vocabularySize state8 ≤ (List.filter (fun e => decide (e.fst <
      vocabularySize state8)) m).length ∧ sampleDue (request state8 y.fst.fst) y.fst.snd y.snd false = true ∧ ¬logitKey false 0
      ∈ state8.serve.poisonedLogits ∧ sampleToken (request state8 y.fst.fst).words (List.map (fun z => (z.fst, adjust (request
      state8 y.fst.fst) (penaltySet (request state8 y.fst.fst) y.snd) z.fst z.snd)) (List.filter (fun e => decide (e.fst <
      vocabularySize state8)) m)) (Config.freeDraw state8.free) = none)) (memberAt x.members 0) = true)) (tabFind?
      state8.serve.logits (logitKey false 0)) = true)) (getStep state8 (classStep false)) = true)) ∧
    ((Option.any (fun x => decide (x.prepared = true ∧ x.failure = none ∧ Option.any (fun m => decide (Option.any (fun y =>
      decide ((request state13 y.fst.fst).failCode = none ∧ vocabularySize state13 ≤ (List.filter (fun e => decide (e.fst <
      vocabularySize state13)) m).length ∧ logitKey false 0 ∈ state13.serve.poisonedLogits ∧ sampleDue (request state13
      y.fst.fst) y.fst.snd y.snd false = true)) (memberAt x.members 0) = true)) (tabFind? state13.serve.logits (logitKey false
      0)) = true)) (getStep state13 (classStep false)) = true)) :=
  by refine ⟨?_, ?_, ?_, ?_⟩ <;> decide +kernel
theorem test_meets_StepsEnd :
    (writesWait state14 = false ∧ (Option.any (fun x => decide (x.prepared = true ∧ x.failure = none ∧ ∀ (m : Nat × Nat), m ∈
      x.members → (request state14 m.fst).failCode.isSome = true ∨ runDone (request state14 m.fst) m.snd = true)) (getStep
      state14 (classStep false)) = true)) ∧
    ((Option.any (fun x => decide (x.prepared = true ∧ x.failure = none ∧ writesWait state18 = false ∧ coresCode state18
      (corePlan (servingDecls state18)) = none ∧ (request state18 2).failCode = none ∧ (request state18 2).deadline = none ∧
      (seqEntry state18 (requestSeq (request state18 2))).releasePending = false ∧ x.members = [(2, 2)])) state18.serve.chunk =
      true)) ∧
    ((Option.any (fun x => decide (x.failure.or (if StepId.lc = StepId.chunk then coresCode state22 (corePlan (servingDecls
      state22)) else none) = some (28737 : Half) ∨ x.failure.or (if StepId.lc = StepId.chunk then coresCode state22 (corePlan
      (servingDecls state22)) else none) = none ∧ failureCode (19457 : Half) = true ∧ (28737 : Half) = (19457 : Half))) (getStep
      state22 StepId.lc) = true)) ∧
    ((Option.any (fun x => decide (x.failure.or (if StepId.lc = StepId.chunk then coresCode state4 (corePlan (servingDecls
      state4)) else none) = none ∧ failureCode (19457 : Half) = false)) (getStep state4 StepId.lc) = true)) :=
  by refine ⟨?_, ?_, ?_, ?_⟩ <;> decide +kernel
/-- Hypotheses of `Obligations.StepsEnd`. -/
theorem test_meets_MemberSettles : (request state22 2).tenant ≠ 0 ∧ 0 ≠ (request state22 2).tenant :=
  by decide +kernel
end Steps

namespace Tenants

def w00 (q t be ad dr irq : Nat) : Quad := BitVec.ofNat 64 (q*2^48 + t*2^40+be*2^39+ad*2^28+dr*2^24+irq*2^22)
def wsl (n mx : Nat) (q : Nat := 1) (be : Nat := 0) (dr : Nat := 0) (dl : Nat := 0) (bias : Nat := 0) : List Quad := [w00 q 3 be
      0x7FF dr 0, BitVec.ofNat 64 (mx+ dl*2^32), 0x1000, BitVec.ofNat 64 (n*2^32+bias*2^9), 0x2000, 0x3000, 0x4000,
      0x000000003F800000, 0x000000003F800000, 0,0,0]
def sq (st : SeqState) (pages : List PageEntry) (len : Nat) : Sequence :=
  { state := st, tenant := 3, pages := pages, length := len }
def kb : State :=
  { sI with tenancy.tenants := [(0, T 0), (3, T 3), (4, T 4)],
            kv.seqs := [(0, sq .idle [] 0), (1, sq .idle [] 0), (2, sq .swapped [.swapped 0] 10), (3, sq .idle [.resident 0,
              .resident 1] 70)],
            kv.blocks := [(0, {refs := 2, tenant := 3}), (1, {refs := 1, tenant := 3}), (2,
              {refs := 0, tree := true, tenant := 3})],
            kv.seqTenant := 3, kv.slots := [(0, {seq := 2, entry := 0, tenant := 3, nonce := 0})], port.swapSize := 0x1000000,
            port.swapBase := 0x100000, lut.keysDrawn := true,
            dram.channels := (List.range 512).map fun k => (k, { live := true }), port.busMasterEnable := true }
def rq (f : Request → Request) (s : State) (i : Nat := 2) : State :=
  { s with serve.requests := tabPut s.serve.requests i (f { words := wsl 4 10, armUs := 5 , prompt := [1,2,3,4], promptRead := some true, biasRead := some true }) }
def st (w : StepId) (x : Step) (s : State) : State := setStep w (some x) s
def jb (st : JobState) (f : Job → Job := id) (s : State := kb) : State :=
  { s with tenancy.jobs := [(0, f { state := st, tenant := 3, entry := 5, us := 7, heldSince := 2 })], us := 50,
           tenancy.jobTenant := 3 }
def jd : JobDecl :=
  { entry := 5, steps := [[0,0].length, 3], savesUnits := false, savesStaging := true, maxMove := 0, cores := [] }
def im2 : State :=
  { kb with load.images := [(0, { img with decls := img.decls ++ [.job jd, .adapters 100 [0, 0]], manifest := { img.manifest with adapterSlots := 2 } })] }
def jdc : JobDecl := { entry := 5, steps := [2, 3], savesUnits := false, savesStaging := true, maxMove := 0, cores := [2] }
def im3 : State :=
  { kb with load.images := [(0, { img with decls := img.decls ++ [.job jdc] })], dense.cores := [(2, { fenced := true })] }
def im4 : State := { im3 with dense.cores := [(2, { stepCode := 0x9010 })] }
def lcr (s : State) : State := rq (fun r => { r with state := .ready, prompt := [1,2,3] }) s
def sav : SaveArea :=
  { saveParts (some jd) { s0 with dense.cores := [(0, { regs := (List.range 32).map fun i => BitVec.ofNat 32 i })] } with banks := List.range 18, bytes := [(5, 7)], marks := [0] }
def ad (l : List (Nat × Adapter)) (s : State := im2) : State :=
  { s with start.config := some cfg, spread.units := 8192, tenancy.adapters := l, tenancy.adapterSource := 0x1000 }
def bsy (s : State) (o : Half := 0) : State :=
  { s with tenancy.adapterOp := { busy := true, outcome := o }, tenancy.jobOp := { busy := true, outcome := 3 },
           tenancy.tenantOp := { busy := true } }
def state1 : State := bsy im2
def state2 : State := jb .waiting
def state4 : State := jb .running id im2
def state5 : State := jb .running (fun j => {j with step := 1}) im2
def state7 : State := jb .running id (lcr im2)
def state8 : State := jb .restoring id (lcr im2)
def state11 : State := { jb .saved id im2 with saved := some sav }
def state12 : State := { jb .restoring id im2 with saved := some sav }
def state16 : State := ad [(0, { state := .current, tenant := 3, version := 4 })]
def state18 : State := bsy (ad [(0, { state := .current, tenant := 3, version := 4 }), (1,
      {state := .loading, tenant := 3, replaces := some 0})])
def state19 : State := bsy (ad [(0, { state := .current, tenant := 3, version := 4 }), (1,
      {state := .loading, tenant := 3, replaces := some 0})]) 0x4833
def state20 : State := ad [(0, {state := .filling})]
def state26 : State := jb .waiting id im3
def state27 : State := jb .running id im4
def state28 : State := jb .saving id im4
def imageObject3 : ImageObject := iobj 5
      { am with allocs := [{ base := 0, size := 4096, scratch := false, tenant := 3, isSealed := false, readOnly := false }] }
/-- Hypotheses of `Obligations.Tenants`. -/
theorem test_meets_TenantOperations :
    (hostFree state1 = true ∧ state1.tenancy.tenantOp.busy = true ∧ (Instr.tenantEnable (0 : Byte)
      { corrected := 0, bad := false } = Instr.tenantEnable (0 : Byte) hubSram1 ∨ Instr.tenantEnable (0 : Byte)
      { corrected := 0, bad := false } = Instr.tenantDisable (0 : Byte) hubSram1)) ∧
    (hostFree state26 = true ∧ state26.tenancy.tenantOp.busy = false ∧ hubBad (HubEntry.tenant (BitVec.toNat (3 : Byte)))
      hubSram3 state26 = true ∧ (Instr.tenantDisable (3 : Byte) { corrected := 0, bad := true } = Instr.tenantEnable (3 : Byte)
      hubSram3 ∨ Instr.tenantDisable (3 : Byte) { corrected := 0, bad := true } = Instr.tenantDisable (3 : Byte) hubSram3)) ∧
    (hostFree state26 = true ∧ state26.tenancy.tenantOp.busy = false ∧ hubBad (HubEntry.tenant (BitVec.toNat (0 : Byte)))
      hubSram1 state26 = false ∧ (Instr.tenantEnable (0 : Byte) { corrected := 0, bad := false } = Instr.tenantEnable (0 : Byte)
      hubSram1 ∨ Instr.tenantEnable (0 : Byte) { corrected := 0, bad := false } = Instr.tenantDisable (0 : Byte) hubSram1)) ∧
    (hostFree state26 = true ∧ state26.tenancy.tenantOp.busy = false ∧ (3 : Byte) ≠ (0 : Byte) ∧ hubBad (HubEntry.tenant
      (BitVec.toNat (3 : Byte))) hubSram1 state26 = false) :=
  by refine ⟨?_, ?_, ?_, ?_⟩ <;> decide +kernel
/-- Hypotheses of `Obligations.Tenants`. -/
theorem test_meets_Charges : 1 ≠ 0 :=
  by decide +kernel
/-- Hypotheses of `Obligations.Jobs`. -/
theorem test_meets_JobOperations :
    (hostFree state1 = true ∧ state1.tenancy.jobOp.busy = true) ∧
    (hostFree state26 = true ∧ state26.tenancy.jobOp.busy = false ∧ (jobDone (job state26 state26.tenancy.jobSlot.toNat) = false
      ∨ tenantValid state26 (BitVec.toNat state26.tenancy.jobTenant) = false)) ∧
    (hostFree s1 = true ∧ s1.tenancy.jobOp.busy = false ∧ jobDone (job s1 s1.tenancy.jobSlot.toNat) = true ∧ tenantValid s1
      (BitVec.toNat s1.tenancy.jobTenant) = true) ∧
    (hostFree state26 = true ∧ state26.tenancy.jobOp.busy = false ∧ jobDone (job state26 state26.tenancy.jobSlot.toNat) = false)
      :=
  by refine ⟨?_, ?_, ?_, ?_⟩ <;> decide +kernel
/-- Hypotheses of `Obligations.Jobs`. -/
theorem test_meets_JobsRun :
    (jobHolds state2 = false ∧ chunkRequest state2 = none ∧ state2.serve.chunk = none ∧ (∀ (e : Nat × Job), e ∈
      state2.tenancy.jobs → e.snd.state ≠ JobState.saved) ∧ (job state2 0).state = JobState.waiting ∧ planFault state2 (jobCores
      state2 0) = none) ∧
    (jobHolds state26 = false ∧ chunkRequest state26 = none ∧ state26.serve.chunk = none ∧ (∀ (e : Nat × Job), e ∈
      state26.tenancy.jobs → e.snd.state ≠ JobState.saved) ∧ (job state26 0).state = JobState.waiting ∧ (planFault state26
      (jobCores state26 0)).isSome = true) ∧
    ((job state4 0).state = JobState.running ∧ stoppedBy 0 (0 : Half) state4 = none ∧ (Option.any (fun d => decide ((job state4
      0).stopTaken = false ∧ (job state4 0).step + 1 < d.steps.length ∧ planFault state4 d.cores = none)) (jobDecl state4 (job
      state4 0).entry) = true)) ∧
    ((job state5 0).state = JobState.running ∧ stoppedBy 0 (0 : Half) state5 = none ∧ (Option.any (fun d => decide ((job state5
      0).stopTaken = true ∨ d.steps.length ≤ (job state5 0).step + 1)) (jobDecl state5 (job state5 0).entry) = true)) ∧
    (((job state27 0).state = JobState.running ∨ (job state27 0).state = JobState.saving) ∧ (stoppedBy 0 (0 : Half)
      state27).isSome = true) ∧
    (lcPromptReady state7 = true ∧ (job state7 0).state = JobState.running ∧ stoppedBy 0 (0 : Half) state7 = none ∧
      (job state7 0).stopTaken = false ∧
      ((jobDecl state7 (job state7 0).entry).any fun d => decide ((job state7 0).step + 1 < d.steps.length)) = true) ∧
    (lcPromptReady (lcr state5) = true ∧ (job (lcr state5) 0).state = JobState.running ∧
      stoppedBy 0 (0 : Half) (lcr state5) = none ∧
      ((jobDecl (lcr state5) (job (lcr state5) 0).entry).any fun d => d.steps.length ≤ (job (lcr state5) 0).step + 1) = true) ∧
    (lcPromptReady (lcr state27) = true ∧ (job (lcr state27) 0).state = JobState.running ∧
      (stoppedBy 0 (0 : Half) (lcr state27)).isSome = true) ∧
    (lcPromptReady state8 = true ∧ (job state8 0).state = JobState.restoring) ∧
    (lcPromptReady state26 = false) ∧
    ((job state28 0).state = JobState.saving) ∧
    (5 ≤ state11.start.state ∧ lcPromptHeld state11 = false ∧ jobHolds state11 = false ∧ (job state11 0).state = JobState.saved
      ∧ state11.tenancy.lastLcPrompt + BitVec.toNat state11.tenancy.resumeHold ≤ 1060) ∧
    (Machine.Inv state12 ∧ (Option.any (fun x => decide ((∀ (e : Host.Cell), e ∈ x.bytes → inBanks x.banks e.fst = true) ∧ (job
      state12 0).state = JobState.restoring ∧ planFault state12 (jobCores state12 0) = none)) state12.saved = true)) :=
  ⟨by decide +kernel,
   by decide +kernel,
   by decide +kernel,
   by decide +kernel,
   by decide +kernel,
   by decide +kernel,
   by decide +kernel,
   by decide +kernel,
   by decide +kernel,
   by decide +kernel,
   by decide +kernel,
   by decide +kernel,
   by unfold Machine.Inv; decide +kernel⟩
theorem test_meets_Adapters :
    (hostFree state1 = true ∧ state1.tenancy.adapterOp.busy = true ∧ state1.tenancy.adapterOp.taken = none) ∧
    (hostFree state26 = true ∧ state26.tenancy.adapterOp.busy = false ∧ state26.tenancy.adapterOp.taken = none ∧ (adapterCheck
      (setAdapterTenant (0 : Byte) state26) true).isSome = true) ∧
    (hostFree im2 = true ∧ im2.tenancy.adapterOp.busy = false ∧ im2.tenancy.adapterOp.taken = none ∧ (Option.any (fun a =>
      decide (adapterCheck (setAdapterTenant (0 : Byte) im2) true = none ∧ (adapterImageCheck (takeSlot a (setAdapterTenant (0 :
      Byte) im2)) ReadEnd.ok imageObject3).isSome = true)) (freeAdapter im2) = true)) ∧
    (hostFree state16 = true ∧ state16.tenancy.adapterOp.busy = false ∧ state16.tenancy.adapterOp.taken = none ∧ (Option.any
      (fun a => decide (adapterCheck (setAdapterTenant (0 : Byte) state16) true = none ∧ adapterImageCheck (takeSlot a
      (setAdapterTenant (0 : Byte) state16)) ReadEnd.ok imageObject3 = none ∧ slotSize state16 < (Option.map (fun x => x.size)
      imageObject3.manifest.allocs[0]?).getD 0)) (freeAdapter state16) = true)) ∧
    (hostFree state16 = true ∧ state16.tenancy.adapterOp.busy = false ∧ state16.tenancy.adapterOp.taken = none ∧ (Option.any
      (fun a => decide (adapterCheck (setAdapterTenant (0 : Byte) state16) true = none ∧ adapterImageCheck (takeSlot a
      (setAdapterTenant (0 : Byte) state16)) ReadEnd.ok imageObject1 = none ∧ (Option.map (fun x => x.size)
      imageObject1.manifest.allocs[0]?).getD 0 ≤ slotSize state16)) (freeAdapter state16) = true)) ∧
    (hostFree state26 = true ∧ state26.tenancy.adapterOp.busy = false ∧ state26.tenancy.adapterOp.taken = none ∧ (adapterCheck
      (setAdapterTenant (0 : Byte) state26) (installJobOk (setAdapterTenant (0 : Byte) state26))).isSome = true) ∧
    (hostFree state11 = true ∧ state11.tenancy.adapterOp.busy = false ∧ state11.tenancy.adapterOp.taken = none ∧ (Option.any
      (fun a => decide (adapterCheck (setAdapterTenant (3 : Byte) state11) (installJobOk (setAdapterTenant (3 : Byte) state11))
      = none ∧ ∀ (x : Nat × List Byte), x ∈ installParts (takeSlot a (setAdapterTenant (3 : Byte) state11)) → x.fst +
      x.snd.length ≤ slotSize state11)) (freeAdapter state11) = true)) ∧
    (hostFree state26 = true ∧ state26.tenancy.adapterOp.busy = false ∧ state26.tenancy.adapterOp.taken = none ∧ isCurrent
      state26 state26.tenancy.adapterArg.toNat = false ∧ ((0 : Byte) = (0 : Byte) ∨ tenantValid state26 (BitVec.toNat (0 :
      Byte)) = true)) ∧
    (hostFree state16 = true ∧ state16.tenancy.adapterOp.busy = false ∧ state16.tenancy.adapterOp.taken = none ∧ isCurrent
      state16 state16.tenancy.adapterArg.toNat = true ∧ ((0 : Byte) = (0 : Byte) ∨ tenantValid state16 (BitVec.toNat (0 : Byte))
      = true)) ∧
    (state18.tenancy.adapterOp.busy = true ∧ state18.tenancy.adapterOp.taken = none ∧ (Option.any (fun a => decide (slotWaits a
      state18 = false ∧ state18.tenancy.adapterOp.outcome = (0 : Half) ∧ (adapter state18 a).replaces ≠ some a)) (loadingSlot
      state18) = true)) ∧
    (state19.tenancy.adapterOp.busy = true ∧ state19.tenancy.adapterOp.taken = none ∧ (Option.any (fun a => decide (slotWaits a
      state19 = false ∧ state19.tenancy.adapterOp.outcome ≠ (0 : Half))) (loadingSlot state19) = true)) ∧
    ((adapter state20 0).state = AdapterState.filling) :=
  by refine ⟨?_, ?_, ?_, ?_, ?_, ?_, ?_, ?_, ?_, ?_, ?_, ?_⟩ <;> decide +kernel
end Tenants

namespace Fabric

def adr (a : Nat) (sc : Nat := 0) : Quad := BitVec.ofNat 64 (a * 2^24 + sc * 2^23)
def collW (id el rd : Nat) : Quad := BitVec.ofNat 64 (id*2^48 + el * 2^16 + rd)
def flit1 : Flit := F 1 0 (fun f => {f with sectors := 2, word2 := adr 64, data := [5,6], poison := 2})
def flit2 : Flit := F 1 0 (fun f => {f with sectors := 2, word2 := adr 4096})
def flit4 : Flit := F 1 0 (fun f => {f with sectors := 1, word2 := adr 65})
def flit5 : Flit := F 1 3
def flit6 : Flit := F 1 0 (fun f => {f with dest := 4, sectors := 1})
def flit7 : Flit := F 1 0 (fun f => {f with dest := 7, sectors := 1})
def flit8 : Flit := F 1 0 (fun f => {f with hops := 8, sectors := 1})
def flit9 : Flit := F 1 0 (fun f => {f with seq := 4})
def flit11 : Flit := F 2 0 (fun f => {f with sectors := 2, word2 := adr 64})
def flit12 : Flit := F 2 0 (fun f => {f with sectors := 2, word2 := adr 4096})
def flit14 : Flit := F 3 0 (fun f => {f with sectors := 2, data := [7,2^200+5], poison := 1})
def flit16 : Flit := F 3 0 (fun f => {f with tag := 8})
def flit17 : Flit := F 4 0 (fun f => {f with sectors := 1, word2 := adr 64 1, data := [2^64-1]})
def flit19 : Flit := F 4 0 (fun f => {f with sectors := 1, word2 := adr 4096 1})
def flit20 : Flit := F 5 0
def flit21 : Flit := F 5 1
def flit22 : Flit := F 5 1 (fun f => {f with tag := 33})
def flit23 : Flit := F 6 0 (fun f => {f with sectors := 1, word2 := collW 2 0 0, data := [2^100+7]})
def flit25 : Flit := F 6 0 (fun f => {f with sectors := 1, word2 := collW 9 0 0})
def flit26 : Flit := F 6 0 (fun f => {f with sectors := 2, word2 := collW 2 4 0})
def flit27 : Flit := F 6 0 (fun f => {f with sectors := 1, word2 := collW 2 0 5})
def flit28 : Flit := F 6 0 (fun f => {f with sectors := 1, word2 := collW 2 4 0})
def flit29 : Flit := F 6 2 (fun f => {f with sectors := 1, word2 := collW 2 0 0, data := [2^100+7]})
def flit30 : Flit := F 6 2 (fun f => {f with sectors := 2, word2 := collW 2 0 0})
def flit31 : Flit := F 6 2 (fun f => {f with sectors := 1, word2 := collW 9 0 0})
/-- The elements that a result flit brings, where its collective is there. -/
def resultEnd (f : Flit) (s : State) : Option (Option Nat) :=
  (coll? s f.collId).map fun c => (sliceOf c.decl f.element).bind fun sl =>
    elementsTo (sliceEnd c.decl sl) (if c.decl.format = 1 then 16 else 8) f
def flit40 : Flit := F 6 0 (fun f => {f with sectors := 1, word2 := collW 2 0xFFFFFF 0})
def contributed : State := fb lk (fun s =>
      { s with fabric.colls := [(2, cc (fun c => { c with current.children := [(4,[3])] }))] })
def one : Flit := F 1 0 (fun f => {f with sectors := 1})
def state1 : State := fb { lk with expected := 4 }
def state4 : State := fb { lk with peerUsed := ⟨2000,0,0⟩}
def state8 : State := { state1 with deferred := [.fabricWrite 0 one 0] }
def rowOf (l : Fin 36) (f : Flit) (t : Nat) : Instr := match f.type, f.op with | 1, _ => .fabricWrite l f t | 2, _ => .fabricRead l f t | 3, _ => .readResponse l f t | 4, _ => .atomicAdd l f t | 5, 0 => .fenceRequest l f t | 5, _ => .fenceAck l f t | 6, 0 => .collectiveSum l f t | 6, 1 => .collectiveMax l f t | 6, _ => .collectiveResult l f t | 7, 0 => .hello l f t | 7, 1 => .nak l f t | 7, 2 => .tune l f t | 7, _ => .drain l f t | _, _ => .idle l f t
/-- Hypotheses of `Obligations.LinksTakeInOrder`. -/
theorem test_meets_LinkTakesInOrder :
    (linkUp fb 2 = false) ∧
    (linkUp fb 0 = true ∧ (receive 0 0 flit40 fb).snd = true) ∧
    (linkUp fb 0 = true ∧ (link fb 0).retryReq = false ∧ (receive 0 0 flit9 fb).snd = false ∧ flit9.type ≠ 0) ∧
    (linkUp fb 0 = true ∧ 2 ≠ 0) :=
  by refine ⟨?_, ?_, ?_, ?_⟩ <;> decide +kernel
/-- Hypotheses of `Obligations.LinksTakeInOrder`. -/
theorem test_meets_FlitsChecked :
    (flitRow (rowOf (0 : Fin 36) flit40 0) = some ((0 : Fin 36), flit40, 0) ∧ linkUp state8 0 = true ∧ (linkBlocked (0 : Fin 36)
      state8 = true ∨ flitWaits flit40 state8 = true)) ∧
    (flitWaits flit9 fb = false ∧ flitRow (rowOf (0 : Fin 36) flit9 0) = some ((0 : Fin 36), flit9, 0) ∧ linkUp fb 0 = true ∧
      linkBlocked (0 : Fin 36) fb = false ∧ receive 0 0 flit9 fb = ((receive 0 0 flit9 fb).fst, false)) ∧
    (flitWaits flit5 fb = false ∧ (opOk flit5 = false ∨ flit5.unusedZero = false) ∧ flitRow (rowOf (0 : Fin 36) flit5 0) = some
      ((0 : Fin 36), flit5, 0) ∧ linkUp fb 0 = true ∧ linkBlocked (0 : Fin 36) fb = false ∧ receive 0 0 flit5 fb = ((receive 0 0
      flit5 fb).fst, true)) ∧
    (flitWaits flit1 state4 = false ∧ opOk flit1 = true ∧ flit1.unusedZero = true ∧ flitRow (rowOf (0 : Fin 36) flit1 0) = some
      ((0 : Fin 36), flit1, 0) ∧ linkUp state4 0 = true ∧ linkBlocked (0 : Fin 36) state4 = false ∧ receive 0 0 flit1 state4 =
      ((receive 0 0 flit1 state4).fst, true) ∧ overCredit (link (receive 0 0 flit1 state4).fst 0) flit1 = true) ∧
    (flitWaits flit4 fb = false ∧ opOk flit4 = true ∧ flit4.unusedZero = true ∧ shapeOk flit4 = false ∧ flitRow (rowOf (0 : Fin
      36) flit4 0) = some ((0 : Fin 36), flit4, 0) ∧ linkUp fb 0 = true ∧ linkBlocked (0 : Fin 36) fb = false ∧ receive 0 0
      flit4 fb = ((receive 0 0 flit4 fb).fst, true) ∧ overCredit (link (receive 0 0 flit4 fb).fst 0) flit4 = false) ∧
    (flitWaits flit7 fb = false ∧ opOk flit7 = true ∧ flit7.unusedZero = true ∧ shapeOk flit7 = true ∧ flit7.type ≠ 7 ∧ flitRow
      (rowOf (0 : Fin 36) flit7 0) = some ((0 : Fin 36), flit7, 0) ∧ linkUp fb 0 = true ∧ linkBlocked (0 : Fin 36) fb = false ∧
      receive 0 0 flit7 fb = ((receive 0 0 flit7 fb).fst, true) ∧ overCredit (link (receive 0 0 flit7 fb).fst 0) flit7 = false ∧
      flit7.dest ≠ nodeOf (receive 0 0 flit7 fb).fst ∧ hasRoute (receive 0 0 flit7 fb).fst flit7.dest = false) ∧
    (flitWaits flit8 fb = false ∧ opOk flit8 = true ∧ flit8.unusedZero = true ∧ shapeOk flit8 = true ∧ flit8.type ≠ 7 ∧ 7 <
      flit8.hops ∧ flitRow (rowOf (0 : Fin 36) flit8 0) = some ((0 : Fin 36), flit8, 0) ∧ linkUp fb 0 = true ∧ linkBlocked (0 :
      Fin 36) fb = false ∧ receive 0 0 flit8 fb = ((receive 0 0 flit8 fb).fst, true) ∧ overCredit (link (receive 0 0 flit8
      fb).fst 0) flit8 = false ∧ (flit8.dest = nodeOf (receive 0 0 flit8 fb).fst ∨ hasRoute (receive 0 0 flit8 fb).fst
      flit8.dest = true)) ∧
    (flitWaits flit6 fb = false ∧ opOk flit6 = true ∧ flit6.unusedZero = true ∧ shapeOk flit6 = true ∧ flit6.type ≠ 7 ∧
      flit6.hops ≤ 7 ∧ flitRow (rowOf (0 : Fin 36) flit6 0) = some ((0 : Fin 36), flit6, 0) ∧ linkUp fb 0 = true ∧ linkBlocked
      (0 : Fin 36) fb = false ∧ receive 0 0 flit6 fb = ((receive 0 0 flit6 fb).fst, true) ∧ overCredit (link (receive 0 0 flit6
      fb).fst 0) flit6 = false ∧ flit6.dest ≠ nodeOf (receive 0 0 flit6 fb).fst ∧ hasRoute (receive 0 0 flit6 fb).fst flit6.dest
      = true) :=
  ⟨by decide +kernel,
   ⟨by decide +kernel, by decide +kernel, by decide +kernel, by decide +kernel, pair_eq (by decide +kernel)⟩,
   ⟨by decide +kernel, by decide +kernel, by decide +kernel, by decide +kernel, by decide +kernel, pair_eq (by decide +kernel)⟩,
   ⟨by decide +kernel, by decide +kernel, by decide +kernel, by decide +kernel, by decide +kernel, by decide +kernel, pair_eq
      (by decide +kernel), by decide +kernel⟩,
   ⟨by decide +kernel, by decide +kernel, by decide +kernel, by decide +kernel, by decide +kernel, by decide +kernel, by
      decide +kernel, pair_eq (by decide +kernel), by decide +kernel⟩,
   ⟨by decide +kernel, by decide +kernel, by decide +kernel, by decide +kernel, by decide +kernel, by decide +kernel, by
      decide +kernel, by decide +kernel, pair_eq (by decide +kernel), by decide +kernel⟩,
   ⟨by decide +kernel, by decide +kernel, by decide +kernel, by decide +kernel, by decide +kernel, by decide +kernel, by
      decide +kernel, by decide +kernel, by decide +kernel, pair_eq (by decide +kernel), by decide +kernel⟩,
   ⟨by decide +kernel, by decide +kernel, by decide +kernel, by decide +kernel, by decide +kernel, by decide +kernel, by
      decide +kernel, by decide +kernel, by decide +kernel, pair_eq (by decide +kernel), by decide +kernel⟩⟩
theorem test_meets_PacketsAct :
    (flit1.type = 1 ∧ Passes (0 : Fin 36) 0 flit1 fb (receive 0 0 flit1 fb).fst ∧ windowFor (receive 0 0 flit1 fb).fst (fun w =>
      w.write) flit1 (32 * flit1.sectors) = true) ∧
    (flit2.type = 1 ∧ Passes (0 : Fin 36) 0 flit2 fb (receive 0 0 flit2 fb).fst ∧ windowFor (receive 0 0 flit2 fb).fst (fun w =>
      w.write) flit2 (32 * flit2.sectors) = false) ∧
    (flit11.type = 2 ∧ flit11.op = 0 ∧ Passes (0 : Fin 36) 0 flit11 fb (receive 0 0 flit11 fb).fst ∧ windowFor (receive 0 0
      flit11 fb).fst (fun w => w.read) flit11 (32 * flit11.sectors) = true) ∧
    (flit12.type = 2 ∧ flit12.op = 0 ∧ Passes (0 : Fin 36) 0 flit12 fb (receive 0 0 flit12 fb).fst ∧ windowFor (receive 0 0
      flit12 fb).fst (fun w => w.read) flit12 (32 * flit12.sectors) = false) ∧
    (flit14.type = 3 ∧ Passes (0 : Fin 36) 0 flit14 fb (receive 0 0 flit14 fb).fst ∧ (receive 0 0 flit14 fb).fst.fabric.rreadTag
      = some flit14.tag) ∧
    (flit16.type = 3 ∧ Passes (0 : Fin 36) 0 flit16 fb (receive 0 0 flit16 fb).fst ∧ (receive 0 0 flit16 fb).fst.fabric.rreadTag
      ≠ some flit16.tag) ∧
    (flit19.type = 4 ∧ Passes (0 : Fin 36) 0 flit19 fb (receive 0 0 flit19 fb).fst ∧ windowFor (receive 0 0 flit19 fb).fst (fun
      w => w.atomic) flit19 8 = false) ∧
    (Machine.Inv fb ∧ flit17.type = 4 ∧ resolve flit17.address = some (Alias.normal, flit17.address) ∧ Passes (0 : Fin 36) 0
      flit17 fb (receive 0 0 flit17 fb).fst ∧ windowFor (receive 0 0 flit17 fb).fst (fun w => w.atomic) flit17 8 = true ∧
      (receive 0 0 flit17 fb).fst.scratch.bad = []) ∧
    (flit20.type = 5 ∧ flit20.op = 0 ∧ Passes (0 : Fin 36) 0 flit20 fb (receive 0 0 flit20 fb).fst) ∧
    (flit21.type = 5 ∧ flit21.op = 1 ∧ Passes (0 : Fin 36) 0 flit21 fb (receive 0 0 flit21 fb).fst ∧ (∃ r, r ∈ (receive 0 0
      flit21 fb).fst.order.releases ∧ (flit21.src, flit21.tag) ∈ r.awaiting)) ∧
    (flit22.type = 5 ∧ flit22.op = 1 ∧ Passes (0 : Fin 36) 0 flit22 fb (receive 0 0 flit22 fb).fst ∧ (∀ (r : Release), r ∈
      (receive 0 0 flit22 fb).fst.order.releases → ¬(flit22.src, flit22.tag) ∈ r.awaiting)) :=
  ⟨by unfold Passes; (repeat' apply And.intro) <;> first | decide +kernel | exact pair_eq (by decide +kernel),
   by unfold Passes; (repeat' apply And.intro) <;> first | decide +kernel | exact pair_eq (by decide +kernel),
   by unfold Passes; (repeat' apply And.intro) <;> first | decide +kernel | exact pair_eq (by decide +kernel),
   by unfold Passes; (repeat' apply And.intro) <;> first | decide +kernel | exact pair_eq (by decide +kernel),
   by unfold Passes; (repeat' apply And.intro) <;> first | decide +kernel | exact pair_eq (by decide +kernel),
   by unfold Passes; (repeat' apply And.intro) <;> first | decide +kernel | exact pair_eq (by decide +kernel),
   by unfold Passes; (repeat' apply And.intro) <;> first | decide +kernel | exact pair_eq (by decide +kernel),
   by unfold Passes Machine.Inv; (repeat' apply And.intro) <;> first | decide +kernel | exact pair_eq (by decide +kernel),
   by unfold Passes; (repeat' apply And.intro) <;> first | decide +kernel | exact pair_eq (by decide +kernel),
   by unfold Passes; (repeat' apply And.intro) <;> first | decide +kernel | exact pair_eq (by decide +kernel),
   by unfold Passes; (repeat' apply And.intro) <;> first | decide +kernel | exact pair_eq (by decide +kernel)⟩
theorem test_meets_Collectives :
    (flit25.type = 6 ∧ Passes (0 : Fin 36) 0 flit25 fb (receive 0 0 flit25 fb).fst ∧ coll? (receive 0 0 flit25 fb).fst
      flit25.collId = none ∧ (flit25.op = 0 ∧ rowOf (0 : Fin 36) flit25 0 = Instr.collectiveSum (0 : Fin 36) flit25 0 ∨
      flit25.op = 1 ∧ rowOf (0 : Fin 36) flit25 0 = Instr.collectiveMax (0 : Fin 36) flit25 0)) ∧
    (flit40.type = 6 ∧ Passes (0 : Fin 36) 0 flit40 fb (receive 0 0 flit40 fb).fst ∧ (Option.any (fun c => decide (sliceOf
      c.decl flit40.element = none ∧ (flit40.op = 0 ∧ rowOf (0 : Fin 36) flit40 0 = Instr.collectiveSum (0 : Fin 36) flit40 0 ∨
      flit40.op = 1 ∧ rowOf (0 : Fin 36) flit40 0 = Instr.collectiveMax (0 : Fin 36) flit40 0))) (coll? (receive 0 0 flit40
      fb).fst flit40.collId) = true)) ∧
    (flit26.type = 6 ∧ Passes (0 : Fin 36) 0 flit26 fb (receive 0 0 flit26 fb).fst ∧ (Option.any (fun c => decide (Option.any
      (fun sl => decide ((elementsTo (sliceEnd c.decl sl) 4 flit26 = none ∨ ¬flit26.src ∈ awaited (receive 0 0 flit26
      fb).fst c.decl sl) ∧ (flit26.op = 0 ∧ rowOf (0 : Fin 36) flit26 0 = Instr.collectiveSum (0 : Fin 36) flit26 0 ∨ flit26.op
      = 1 ∧ rowOf (0 : Fin 36) flit26 0 = Instr.collectiveMax (0 : Fin 36) flit26 0))) (sliceOf c.decl flit26.element) = true))
      (coll? (receive 0 0 flit26 fb).fst flit26.collId) = true)) ∧
    (flit27.type = 6 ∧ Passes (0 : Fin 36) 0 flit27 fb (receive 0 0 flit27 fb).fst ∧ (Option.any (fun c => decide (Option.any
      (fun sl => decide (elementsTo (sliceEnd c.decl sl) 4 flit27 = some 4 ∧ flit27.src ∈ awaited (receive 0 0 flit27
      fb).fst c.decl sl ∧ pickRound c flit27.round = none ∧ (flit27.op = 0 ∧ rowOf (0 : Fin 36) flit27 0 = Instr.collectiveSum
      (0 : Fin 36) flit27 0 ∨ flit27.op = 1 ∧ rowOf (0 : Fin 36) flit27 0 = Instr.collectiveMax (0 : Fin 36) flit27 0)))
      (sliceOf c.decl flit27.element) = true)) (coll? (receive 0 0 flit27 fb).fst flit27.collId) = true)) ∧
    (flit28.type = 6 ∧ Passes (0 : Fin 36) 0 flit28 contributed (receive 0 0 flit28 contributed).fst ∧ (Option.any (fun c =>
      decide (Option.any (fun sl => decide (elementsTo (sliceEnd c.decl sl) 4 flit28 = some 4 ∧ flit28.src ∈ awaited
      (receive 0 0 flit28 contributed).fst c.decl sl ∧ Option.any (fun now => decide ((∃ i, i < 4 * flit28.sectors ∧ flit28.src
      ∈ tabGet [] (roundOf c now).children (flit28.element + i)) ∧ (flit28.op = 0 ∧ rowOf (0 : Fin 36) flit28 0 =
      Instr.collectiveSum (0 : Fin 36) flit28 0 ∨ flit28.op = 1 ∧ rowOf (0 : Fin 36) flit28 0 = Instr.collectiveMax (0 : Fin 36)
      flit28 0))) (pickRound c flit28.round) = true)) (sliceOf c.decl flit28.element) = true)) (coll? (receive 0 0 flit28
      contributed).fst flit28.collId) = true)) ∧
    (flit23.type = 6 ∧ Passes (0 : Fin 36) 0 flit23 fb (receive 0 0 flit23 fb).fst ∧ (Option.any (fun c => decide (Option.any
      (fun sl => decide (elementsTo (sliceEnd c.decl sl) 4 flit23 = some 4 ∧ flit23.src ∈ awaited (receive 0 0 flit23
      fb).fst c.decl sl ∧ Option.any (fun now => decide ((∀ (i : Nat), i < 4 → ¬flit23.src ∈ tabGet [] (roundOf
      c now).children (flit23.element + i)) ∧ (flit23.op = 0 ∧ rowOf (0 : Fin 36) flit23 0 = Instr.collectiveSum (0 : Fin 36)
      flit23 0 ∨ flit23.op = 1 ∧ rowOf (0 : Fin 36) flit23 0 = Instr.collectiveMax (0 : Fin 36) flit23 0))) (pickRound c
      flit23.round) = true)) (sliceOf c.decl flit23.element) = true)) (coll? (receive 0 0 flit23 fb).fst flit23.collId) = true))
      ∧
    (flit29.type = 6 ∧ flit29.op = 2 ∧ Passes (0 : Fin 36) 0 flit29 fb (receive 0 0 flit29 fb).fst ∧
      resultEnd flit29 (receive 0 0 flit29 fb).fst = some (some 8)) ∧
    (flit30.type = 6 ∧ flit30.op = 2 ∧ Passes (0 : Fin 36) 0 flit30 fb (receive 0 0 flit30 fb).fst ∧
      resultEnd flit30 (receive 0 0 flit30 fb).fst = some none) ∧
    (flit31.type = 6 ∧ flit31.op = 2 ∧ Passes (0 : Fin 36) 0 flit31 fb (receive 0 0 flit31 fb).fst ∧
      resultEnd flit31 (receive 0 0 flit31 fb).fst = none) ∧
    (coll? fb 0 = none) ∧
    (Option.any (fun c => decide (c.current.children ≠ [])) (coll? contributed 2) = true) :=
  ⟨by unfold Passes; (repeat' apply And.intro) <;> first | decide +kernel | exact pair_eq (by decide +kernel),
   by unfold Passes; (repeat' apply And.intro) <;> first | decide +kernel | exact pair_eq (by decide +kernel),
   by unfold Passes; (repeat' apply And.intro) <;> first | decide +kernel | exact pair_eq (by decide +kernel),
   by unfold Passes; (repeat' apply And.intro) <;> first | decide +kernel | exact pair_eq (by decide +kernel),
   by unfold Passes; (repeat' apply And.intro) <;> first | decide +kernel | exact pair_eq (by decide +kernel),
   by unfold Passes; (repeat' apply And.intro) <;> first | decide +kernel | exact pair_eq (by decide +kernel),
   by unfold Passes; (repeat' apply And.intro) <;> first | decide +kernel | exact pair_eq (by decide +kernel),
   by unfold Passes; (repeat' apply And.intro) <;> first | decide +kernel | exact pair_eq (by decide +kernel),
   by unfold Passes; (repeat' apply And.intro) <;> first | decide +kernel | exact pair_eq (by decide +kernel),
   by decide +kernel,
   by decide +kernel⟩
end Fabric

namespace Links

def flit33 : Flit := F 7 1 (fun f => {f with word2 := 0x5013})
def flit34 : Flit := F 7 2 (fun f => {f with sectors := 1, data := [2^70+9]})
def flit35 : Flit := F 7 3
def flit36 : Flit := F 0 0 (fun f => {f with ack := 4095, dest := 0, src := 0, tag := 0})
def flit37 : Flit := F 0 0 (fun f => {f with ack := 4095})
def flit38 : Flit := F 0 0 (fun f => {f with ack := 4095, dest := 0, src := 0, tag := 0, sectors := 1})
def one : Flit := F 1 0 (fun f => {f with sectors := 1})
def flit40 : Flit := F 7 0
def flit41 : Flit := F 7 0 (fun f => {f with tag := 4})
def lks (st : LinkState) (f : Link → Link := id) (l : Bool := true) : State := fb (f { lk with state := st }) (fun s =>
      { s with fabric.socketA := if l then .lasing else .empty, order.releases := [] })
def state8 : State := { (lks .quarantined) with order.releases := [] }
def state9 : State := { (lks .down (fun k => {k with staysDown := true})) with order.releases := [] }
def state10 : State := { (lks .quarantined (fun k => {k with staysDown := true})) with order.releases := [] }
def state11 : State := { ({lks .up with fabric.rread.busy := true}) with order.releases := [] }
def state12 : State :=
  { ({ lks .up with fabric.rreadNode := 3, fabric.rreadAddr := 64, fabric.rreadSectors := 2 }) with order.releases := [] }
def state16 : State := lks .quarantined id false
def state17 : State := lks .sweep
def state18 : State := lks .lock
def state19 : State := lks .align
def state21 : State := lks .hello
def state23 : State := lks .up (fun k => {k with violationsMs := List.replicate 2000 0, replay := [one]})
def state26 : State := { lks .up with fabric.socketA := .lasing, fabric.socketB := .lasing}
def state27 : State := { lks .up with fabric.socketA := .dark, fabric.socketB := .lasing}
def state28 : State := { lks .up with fabric.socketA := .lasing, fabric.socketB := .dark}
def state34 : State := lks .up (fun k => {k with retryReq := true, replay := [one], credits := {}})
/-- Hypotheses of `Obligations.PacketsAct`. -/
theorem test_meets_RemoteReads :
    (hostFree state11 = true ∧ state11.fabric.rread.busy = true) ∧
    (hostFree state8 = true ∧ state8.fabric.rread.busy = false ∧ orderedLink state8 (BitVec.toNat state8.fabric.rreadNode) =
      none) ∧
    (hostFree state12 = true ∧ state12.fabric.rread.busy = false ∧ (orderedLink state12 (BitVec.toNat
      state12.fabric.rreadNode)).isSome = true) ∧
    (state8.fabric.rreadTag.isSome = true) :=
  by refine ⟨?_, ?_, ?_, ?_⟩ <;> decide +kernel
/-- Hypotheses of `Obligations.LinkStates`. -/
theorem test_meets_LinkUpkeep :
    (linkUp state11 0 = true ∧ flit40.type = 7 ∧ flit40.op = 0 ∧ Passes (0 : Fin 36) 0 flit40 state11 (receive 0 0 flit40
      state11).fst) ∧
    (flit33.type = 7 ∧ flit33.op = 1 ∧ Passes (0 : Fin 36) 0 flit33 state11 (receive 0 0 flit33 state11).fst) ∧
    (flit34.type = 7 ∧ flit34.op = 2 ∧ Passes (0 : Fin 36) 0 flit34 state11 (receive 0 0 flit34 state11).fst) ∧
    (flit35.type = 7 ∧ flit35.op = 3 ∧ Passes (0 : Fin 36) 0 flit35 state11 (receive 0 0 flit35 state11).fst) ∧
    (linkUp state11 0 = true ∧ (link state11 0).queue = [] ∧ crcGood (asType flit36 0 flit36.op) = true ∧ flit36.retryReq =
      false ∧ flit36.creditClass = 3 ∧ (flit36.ack + 4096 - (link state11 0).ackedSeq) % 4096 ≤ (link state11 0).replay.length)
      ∧
    (opOk (asType flit36 0 flit36.op) = true ∧ (asType flit36 0 flit36.op).unusedZero = true ∧ shapeOk (asType flit36 0 flit36.op)
      = true) ∧
    (crcGood (asType flit37 0 flit37.op) = true ∧ flit37.creditClass = 3 ∧ (asType flit37 0 flit37.op).unusedZero = false) ∧
    (crcGood (asType flit38 0 flit38.op) = true ∧ flit38.creditClass = 3 ∧ opOk (asType flit38 0 flit38.op) = true ∧
      (asType flit38 0 flit38.op).unusedZero = true ∧ shapeOk (asType flit38 0 flit38.op) = false) ∧
    (linkUp state34 0 = true ∧ (link state34 0).retryReq = true) ∧
    (linkUp state23 0 = true ∧ (link state23 0).replay ≠ []) ∧
    (linkUp state11 0 = true) :=
  ⟨by unfold Passes; (repeat' apply And.intro) <;> first | decide +kernel | exact pair_eq (by decide +kernel),
   by unfold Passes; (repeat' apply And.intro) <;> first | decide +kernel | exact pair_eq (by decide +kernel),
   by unfold Passes; (repeat' apply And.intro) <;> first | decide +kernel | exact pair_eq (by decide +kernel),
   by unfold Passes; (repeat' apply And.intro) <;> first | decide +kernel | exact pair_eq (by decide +kernel),
   by decide +kernel,
   by decide +kernel,
   by decide +kernel,
   by decide +kernel,
   by decide +kernel,
   by decide +kernel,
   by decide +kernel⟩
theorem test_meets_LinkStates :
    (linkUp state11 0 = true ∧ (true = true ∨ overLimit (advanceTo 0 state11) (link state11 0) = true)) ∧
    ((link state10 0).state = LinkState.quarantined ∧ (link state10 0).staysDown = true) ∧
    ((link state8 0).state = LinkState.quarantined ∧ (link state8 0).staysDown = false) ∧
    ((link state17 0).state = LinkState.sweep) ∧
    ((link state18 0).state = LinkState.lock) ∧
    (linkPlanHigh state19 = false ∧ (link state19 0).state = LinkState.align) ∧
    ((link state21 0).state = LinkState.hello ∧ crcGood (asType flit40 7 0) = true ∧ flit40.fecOk = true ∧ flit40.src =
      BitVec.toNat (link state21 0).peerNode ∧ flit40.tag = (link state21 0).peerLink) ∧
    ((link state21 0).state = LinkState.hello ∧ crcGood (asType flit41 7 0) = true ∧ flit41.fecOk = true ∧ (flit41.src ≠
      BitVec.toNat (link state21 0).peerNode ∨ flit41.tag ≠ (link state21 0).peerLink)) ∧
    (((link state17 0).state = LinkState.sweep ∨ (link state17 0).state = LinkState.lock ∨ (link state17 0).state =
      LinkState.hello ∨ (link state17 0).state = LinkState.align ∧ linkPlanHigh state17 = false)) ∧
    (hostFree state9 = true ∧ (link state9 0).staysDown = true ∧ ((link state9 0).state = LinkState.down ∨ (link state9 0).state
      = LinkState.quarantined)) :=
  by refine ⟨?_, ?_, ?_, ?_, ?_, ?_, ?_, ?_, ?_, ?_⟩ <;> decide +kernel
/-- Hypotheses of `Obligations.LinkStates`. -/
theorem test_meets_LaserSources :
    (state16.fabric.socketA = Socket.empty) ∧
    (state8.fabric.socketB = Socket.empty) ∧
    (state27.fabric.socketA = Socket.dark) ∧
    (state28.fabric.socketB = Socket.dark) ∧
    (state26.fabric.socketA ≠ Socket.empty ∧ state26.fabric.socketB = Socket.lasing) ∧
    (state8.fabric.socketA = Socket.lasing ∧ state8.fabric.socketB ≠ Socket.lasing) ∧
    (state26.fabric.socketB ≠ Socket.empty ∧ state26.fabric.socketA = Socket.lasing) ∧
    (state27.fabric.socketB = Socket.lasing ∧ state27.fabric.socketA ≠ Socket.lasing) :=
  by refine ⟨?_, ?_, ?_, ?_, ?_, ?_, ?_, ?_⟩ <;> decide +kernel
/-- Hypotheses of `Obligations.Collectives`. -/
theorem test_meets_ContributionsAdd : 5 ≠ 0 :=
  by decide +kernel
end Links

namespace House

def ht (f : TileHeat → TileHeat) (s : State) : State := { s with lut.heat := [(0, f {}), (3, f {})] }
def state1 : State := ht (fun h => {h with tripped := true}) lr
def state3 : State :=
  { lr with lut.readings := (List.range 256).map fun k => (k, { raw := BitVec.ofNat 16 (100*16+k), valid := true }) }
def state4 : State := { lr with lut.entropyOk := false }
def coldReadings : Tab Reading := [(198, {raw := 0x7FF, valid := true}),(199, {raw := 0x7FF, valid := true})]
def state5 : State := { lr with lut.readings := coldReadings, lut.held := [.hours] }
def u0 : Machine.Unit := { run := some { pc := 0, declared := [3], owes := 2, reduction := 1, elapsed := 0 } }
def coll0 : Collector := { reductions := [{ number := 1, width := 64, owed := 3 }] }
def base : State :=
  { lr with near.units := [(0, u0), (1, { fenced := true })], near.collectors := [(0, coll0)],
            dram.channels := [(0, live), (5, { failed := true }), (9, { live := true })],
            dense.cores := [(17, { busy := true, owed := [(1, 4)] }), (18, { fenced := true })], us := 1000 }
def t1 (x : TestSubject) (rep : Bool) (l : List Nat) : TestRun :=
  { subject := x, reason := 0, isRepeat := rep, byMailbox := false, firstFailed := l }
def state7 : State := { base with lut.tests := [t1 (.channel 9) false [], t1 (.channel 0) true [1, 2], t1 (.core 3) false []] }
def state8 : State :=
  { base with lut.tests := [t1 (.channel 9) true [2, 3], t1 (.channel 0) false [], t1 (.core 3) true [0], t1 (.unit 144) true [0]],
              serve.lcStep := some { members := [], selectedUs := 0, waves := 0, positions := 0, maxLength := 0 } }
def after (c : Instr) (s : State) : State := match exec c s with | .next t => t | _ => s
def state11 : State := after .roundEnd state1
def failedParts : List Nat := [1, 3]
def subjectNine : TestSubject := .channel 9
def subjectZero : TestSubject := .channel 0
def subjectCore : TestSubject := .core 3
theorem test_meets_Housekeeping :
    (luthierRuns lr = true ∧ 5 ≤ lr.start.state) ∧ (luthierRuns s0 = false ∨ s0.start.state < 5) :=
  by decide +kernel
/-- Hypotheses of `Obligations.Housekeeping`. -/
theorem test_meets_TripsStay :
    (Instr.roundEnd = Instr.roundEnd ∧ exec Instr.roundEnd state1 = Host.Outcome.next state11 ∧ tileTripped state1 0 = true) ∧
    (TripsAgree state1 ∧ exec Instr.roundEnd state1 = Host.Outcome.next state11) :=
  ⟨⟨rfl, rfl, by decide +kernel⟩,
   ⟨by unfold TripsAgree; decide +kernel, rfl⟩⟩
/-- Hypotheses of `Obligations.Housekeeping`. -/
theorem test_meets_EntropyAndHours :
    (lr.lut.entropyOk = true ∧ luthierRuns lr = true) ∧
    (s0.lut.entropyOk = true ∧ luthierRuns s0 = false) ∧
    (state4.lut.entropyOk = false) ∧
    (7 ≤ lr.start.state) ∧
    (s0.start.state < 7) ∧
    (luthierRuns lr = true ∧ flashOk 0 lr = true) ∧
    (luthierRuns state3 = true ∧ flashOk 0 state3 = false ∧ ¬HeldWrite.hours ∈ state3.lut.held) ∧
    (luthierRuns state5 = true ∧ flashOk 0 state5 = false ∧ HeldWrite.hours ∈ state5.lut.held) :=
  by refine ⟨?_, ?_, ?_, ?_, ?_, ?_, ?_, ?_⟩ <;> decide +kernel
/-- Hypotheses of `Obligations.Housekeeping`. -/
theorem test_meets_InServiceTests :
    (luthierRuns lr = true ∧ testable lr subjectCore = true ∧ (∀ (r : TestRun), r ∈ lr.lut.tests → r.subject ≠ subjectCore) ∧
      ((∃ r, r ∈ lr.lut.forced ∧ r.subject = subjectCore) ∧ quiet lr subjectCore = true ∨ (∀ (r : TestRun), r ∈ lr.lut.forced →
      r.subject ≠ subjectCore) ∧ picked lr subjectCore = true)) ∧
    (luthierRuns lr = true ∧ (Option.any (fun k => decide (testable lr subjectCore = true ∧ BitVec.toNat (tabGet
      lr.lut.startTest lr.lut.lastPass k) + 23 * 65536 ≤ BitVec.toNat lr.lut.opHours)) (passKey subjectCore) = true)) ∧
    (Option.any (fun k => decide (BitVec.toNat s0.lut.opHours < BitVec.toNat (tabGet s0.lut.startTest s0.lut.lastPass k) + 23 *
      65536)) (passKey subjectZero) = true) ∧
    ((∀ (r : TestRun), r ∈ lr.lut.tests → r.subject ≠ subjectZero)) ∧
    ((Option.any (fun r => decide (r.isRepeat = false ∧ ∀ (i : Nat), i ∈ [] → partFenced state7 subjectNine i = true))
      (List.find? (fun r => r.subject == subjectNine) state7.lut.tests) = true)) ∧
    ((Option.any (fun r => decide (r.isRepeat = false ∧ ∃ i, i ∈ failedParts ∧ partFenced state7 subjectNine i = false))
      (List.find? (fun r => r.subject == subjectNine) state7.lut.tests) = true)) ∧
    (Option.any (fun r => decide (r.isRepeat = true)) (List.find? (fun r => r.subject == subjectZero) state7.lut.tests) = true)
      :=
  by refine ⟨?_, ?_, ?_, ?_, ?_, ?_, ?_⟩ <;> decide +kernel
/-- Hypotheses of `Obligations.Housekeeping`. -/
theorem test_meets_UnresponsiveParts :
    ((getStep state8 StepId.lc).isSome = true) ∧
    ((∀ (e : Nat × Nat), e ∈ (Machine.core lr 3).owed → e.snd = 0)) ∧
    ((∃ e, e ∈ (Machine.core state7 17).owed ∧ e.snd ≠ 0)) :=
  by refine ⟨?_, ?_, ?_⟩ <;> decide +kernel
end House

namespace Mailbox

def state1 : State := { lr with lut.mbox := { busy := true } }
def state5 : State := { lr with dram.channels := [(0, {live := true})], lut.mboxArg0 := 0x0A00 }
def state6 : State := { lr with lut.mboxArg1 := BitVec.ofNat 64 (plainLength (hdr 3)) }
def ob : OpField := { busy := true, outcome := 5 }
def state8 : State :=
  { s1 with protect.repair := ob, tables.desc := ob, tables.alloc := ob, tables.newAllocId := some 4, kv.op := ob,
            tenancy.tenantOp := ob, tenancy.jobOp := ob, fabric.rread := ob, load.op := ob }
def state9 : State := { lr with lut.mbox := { busy := true, taken := some [1] } }
def state10 : State := { lr with lut.mbox := { busy := true }, lut.held := [.firmware] }
def firmwareObject2 : FirmwareObject := { fwo with checks := ⟨true, true, false⟩ }
def configObject1 : ConfigObject := { hdr := hdr 2, checks := ck, image := cfg }
def configObject2 : ConfigObject := { hdr := hdr 1, checks := ck, image := cfg }
def clearObject1 : ClearObject := { hdr := hdr 3, checks := ck, serial := 77, powerCycle := 0, upTo := 5, reservedZero := true }
def hot6 : State := { state6 with lut.bootSample0 := 100 * 16 }
def noRoom : State := { lr with lut.mboxArg1 := 0 }
/-- Hypotheses of `Obligations.MailboxAndSideband`. -/
theorem test_meets_MailboxCommands :
    (hostFree state1 = true ∧ state1.lut.mbox.busy = true) ∧
    (hostFree lr = true ∧ lr.lut.mbox.busy = false ∧ (attestation { lr with lut.mboxCmd := 1 }).1.length ≤
      lr.lut.mboxArg1.toNat) ∧
    (hostFree lr = true ∧ lr.lut.mbox.busy = false ∧ Config.certificates.length ≤ BitVec.toNat lr.lut.mboxArg1) ∧
    (hostFree noRoom = true ∧ noRoom.lut.mbox.busy = false ∧ noRoom.lut.mboxArg1.toNat < Config.certificates.length) ∧
    (hostFree lr = true ∧ lr.lut.mbox.busy = false ∧ testNowSubject lr = none) ∧
    (hostFree state5 = true ∧ state5.lut.mbox.busy = false ∧ (testNowSubject state5).isSome = true) ∧
    (hostFree lr = true ∧ lr.lut.mbox.busy = false ∧ lr.lut.mbox.taken = none ∧ plainLength firmwareObject2.hdr ≤ BitVec.toNat
      lr.lut.mboxArg1 ∧ firmwareCode lr firmwareObject2 ≠ (0 : Half)) ∧
    (hostFree lr = true ∧ lr.lut.mbox.busy = false ∧ lr.lut.mbox.taken = none ∧ flashOk (updateFlash lr) lr = true ∧ plainLength
      fwo.hdr ≤ BitVec.toNat lr.lut.mboxArg1 ∧ firmwareCode lr fwo = (0 : Half)) ∧
    (hostFree lr = true ∧ lr.lut.mbox.busy = false ∧ lr.lut.mbox.taken = none ∧ plainLength configObject2.hdr ≤ BitVec.toNat
      lr.lut.mboxArg1 ∧ verifies lr 2 configObject2.hdr configObject2.checks = false) ∧
    (hostFree lr = true ∧ lr.lut.mbox.busy = false ∧ lr.lut.mbox.taken = none ∧ flashOk 0 lr = true ∧ plainLength
      configObject1.hdr ≤ BitVec.toNat lr.lut.mboxArg1 ∧ verifies lr 2 configObject1.hdr configObject1.checks = true) ∧
    (hostFree lr = true ∧ lr.lut.mbox.busy = false ∧ lr.lut.mbox.taken = none ∧ clearOk lr clearObject1 = false) ∧
    (hostFree state6 = true ∧ state6.lut.mbox.busy = false ∧ state6.lut.mbox.taken = none ∧ clearOk state6 clearObject1 = true
      ∧ flashOk 0 state6 = true) ∧
    (hostFree hot6 = true ∧ hot6.lut.mbox.busy = false ∧ hot6.lut.mbox.taken = none ∧ clearOk hot6 clearObject1 = true
      ∧ flashOk 0 hot6 = false ∧ HeldWrite.clear ∉ hot6.lut.held) :=
  ⟨by decide +kernel,
   ⟨by decide +kernel, by decide +kernel, by
      simp only [attestation, List.length_append, exactly_length]
      decide +kernel⟩,
   ⟨by decide +kernel, by decide +kernel, Nat.le_trans (Nat.succ_le_succ (List.length_take_le _ _)) (by decide +kernel)⟩,
   ⟨by decide +kernel, by decide +kernel, Nat.succ_pos _⟩,
   by decide +kernel,
   by decide +kernel,
   by decide +kernel,
   by decide +kernel,
   by decide +kernel,
   by decide +kernel,
   by decide +kernel,
   by decide +kernel,
   by decide +kernel⟩
/-- Hypotheses of `Obligations.MailboxAndSideband`. -/
theorem test_meets_SidebandCommands :
    (∃ p, Instr.readReport 1 false = Instr.readReport p false) ∧
    (luthierRuns lr = true) ∧
    (luthierRuns lr = true) ∧
    (luthierRuns lr = true ∧ lr.start.config.isSome = true ∧ BitVec.toNat (256 : Half) < classLimit lr.start.thermalClass ∧
      lr.lut.sidebandCounter < 5) ∧
    (luthierRuns lr = true ∧ lr.start.config.isSome = true ∧ classLimit lr.start.thermalClass ≤ BitVec.toNat (65535 : Half) ∧
      lr.lut.sidebandCounter < 5) ∧
    (luthierRuns lr = true ∧ TripsAgree lr ∧ lr.start.config.isSome = true ∧ lr.lut.sidebandCounter < 5) ∧
    (luthierRuns lr = true ∧ (lr.start.config = none ∨ true = false ∨ 0 ≤ lr.lut.sidebandCounter)) :=
  ⟨⟨1, rfl⟩,
   by decide +kernel,
   by decide +kernel,
   by decide +kernel,
   by decide +kernel,
   by unfold TripsAgree; decide +kernel,
   by decide +kernel⟩
theorem test_meets_OperationsEnd :
    (state8.protect.repair.busy = true ∧ state8.protect.repair.taken = none) ∧
    (state8.tables.desc.busy = true ∧ state8.tables.desc.taken = none) ∧
    (state8.tables.alloc.busy = true ∧ state8.tables.alloc.taken = none) ∧
    (state8.kv.op.busy = true ∧ state8.kv.op.taken = none) ∧
    (({ busy := true, taken := some [2] } : OpField).taken ≠ none) ∧
    (state8.tenancy.tenantOp.busy = true ∧ state8.tenancy.tenantOp.taken = none) ∧
    (state8.tenancy.jobOp.busy = true ∧ state8.tenancy.jobOp.taken = none) ∧
    (state8.fabric.rread.busy = true ∧ state8.fabric.rread.taken = none ∧ state8.fabric.rreadTag = none) ∧
    (state8.load.op.busy = true ∧ state8.load.op.taken = none ∧ state8.load.object = none) :=
  by refine ⟨?_, ?_, ?_, ?_, ?_, ?_, ?_, ?_, ?_⟩ <;> decide +kernel
/-- Hypotheses of `Obligations.OperationsEnd`. -/
theorem test_meets_MailboxEnds :
    (state10.lut.mbox.busy = true ∧ mboxWaits state10 = true) ∧
    (state9.lut.mbox.busy = true ∧ state9.lut.mbox.taken.isSome = true) ∧
    (state1.lut.mbox.busy = true ∧ mboxWaits state1 = false ∧ state1.lut.mbox.taken = none ∧ state1.start.stopped = false) :=
  by refine ⟨?_, ?_, ?_⟩ <;> decide +kernel
end Mailbox

namespace StartUp

def xx (n : StrapLevel := .low) : StartInput :=
  { bootNvm := n, linkPlan := .low, thermalClass := .unconnected, orderCompat := .low, testMode := .low, flash0 := 400,
    flash1 := 400, failedTraining := [], failedWires := [], unitsOnce := [], unitsTwice := [], coresOnce := [],
    coresTwice := [] }
def rst : State := { lr with start := { state := 1 }, port := {} }
def one1 (a b la lb : Bool) (s : State := lr) : State :=
  { s with supply := { s.supply with feedA := { accepted := a, lostOnce := la }, feedB := { accepted := b, lostOnce := lb } } }
def state1 : State := one1 true false false false
def state2 : State := one1 true false false true
def state4 : State := one1 false false false false
def state5 : State := one1 false true true false s0
def state6 : State := { lr with supply.service := true }
def state9 : State := { lr with start.state := 8, start.starting := true }
def state10 : State := { lr with start.state := 8, start.starting := true, fabric.links := [(3, { state := .sweep })] }
/-- Hypotheses of `Obligations.StartAndLoad`. -/
theorem test_meets_Supplies :
    ((feedOf lr 0).accepted = true) ∧
    ((feedOf state1 1).accepted = false ∧ (feedOf state1 1).lostOnce = false) ∧
    (luthierRuns state2 = true ∧ state2.supply.sampled = true ∧ (feedOf state2 1).accepted = false ∧ (feedOf state2 1).lostOnce
      = true) ∧
    (luthierRuns lr = true ∧ (feedOf lr 0).accepted = true ∧ (feedOf lr (1 - 0)).accepted = true) ∧
    ((feedOf state1 0).accepted = true ∧ (feedOf state1 (1 - 0)).accepted = false) ∧
    ((state5.supply.feedA.accepted = true ∨ state5.supply.feedB.accepted = true) ∧ luthierRuns state5 = false) ∧
    (state4.supply.feedA.accepted = false ∧ state4.supply.feedB.accepted = false) :=
  by refine ⟨?_, ?_, ?_, ?_, ?_, ?_, ?_⟩ <;> decide +kernel
/-- Hypotheses of `Obligations.StartAndLoad`. -/
theorem test_meets_ResetsAndStart :
    (lr.supply.service = false ∧ lr.start.state ≠ 0) ∧
    ((state5.supply.service = true ∨ state5.start.state = 0)) ∧
    (lr.port.linkUp = true ∧ luthierRuns lr = true) ∧
    (state6.port.linkUp = true ∧ luthierRuns state6 = false) ∧
    (mayStart lr = false) ∧
    (mayStart state5 = true ∧ chooseSlot state5 (xx.bootNvm == StrapLevel.high) = none) ∧
    (mayStart rst = true ∧ (chooseSlot rst (xx.bootNvm == StrapLevel.high)).isSome = true) :=
  by refine ⟨?_, ?_, ?_, ?_, ?_, ?_, ?_⟩ <;> decide +kernel
/-- Hypotheses of `Obligations.StartAndLoad`. -/
theorem test_meets_StartCompletes :
    (state9.start.starting = true ∧ state9.start.state = 8 ∧ (∀ (l : Nat), l < 36 → inBringup state9 l = false)) ∧
    (∃ l, l < 36 ∧ inBringup state10 l = true) :=
  ⟨by decide +kernel,
   ⟨3, by decide, by decide +kernel⟩⟩
end StartUp

namespace Loading

def sg1 (h : SignedHdr := hdr 4) : Segment :=
  { kind := 1, target := 0x100000, offset := areaStart h, length := 32, hashOk := true, bytes := List.replicate 32 9,
    decls := [], declsOk := true }
def lm : Manifest :=
  { mf with allocs := [{ base := 0x100000, size := 4096, scratch := false, tenant := 0, isSealed := false, readOnly := false }],
            segments := [sg1], serves := false, coreMask := 1 }
def lo (m : Manifest := lm) : ImageObject := { iobj 4 m with }
def lv : State :=
  { lr with spread.units := 8192, load.addr := 0x1000, load.len := BitVec.ofNat 64 (objectLength (hdr 4)),
            dram.channels := (List.range 512).map fun k => (k, { live := true }) }
def lst : State := match exec (.load .ok lo) lv with | .next t => t | _ => lv
def lst2 : State := match exec (.load .ok (lo { lm with segments := [{ sg1 with hashOk := false }] })) lv with | .next t => t | _ => lv
def ldd : State := match exec .loadCommit lst with | .next t => { t with load.op := {}, load.index := 0 } | _ => lv
def alc : Nat := ((ldd.load.images.map (·.2.allocs)).flatten.getD 0 0)
def lds : State :=
  { ldd with load.images := ldd.load.images.map fun x => (x.1, { x.2 with manifest := { x.2.manifest with serves := true } }),
             serve.requests := [(0, { state := .ready })] }
def ldh : State :=
  { ldd with tables.descs := [(9, ⟨BitVec.ofNat 512 (2^64*2^44*(allocIdent alc (tabGet {} ldd.tables.allocs alc))), none⟩)] }
def state1 : State := { lv with load.op := { busy := true } }
def state4 : State := { lds with serve.requests := [] }
def state5 : State := { lst with dram.channels := (List.range 512).map fun k => (k, { live := true, slicing := true }) }
def jobImage : JobDecl := { entry := 5, steps := [2], savesUnits := false, savesStaging := true, maxMove := 0, cores := [] }
def withJob : State :=
  { ldd with load.images := ldd.load.images.map fun x => (x.1, { x.2 with decls := x.2.decls ++ [.job jobImage] }),
             tenancy.jobs := [(1, { state := .saved, entry := 5 })] }
theorem test_meets_UnloadWithJob :
    (hostFree withJob = true ∧ withJob.load.op.busy = false ∧
      ((tabFind? withJob.load.images withJob.load.index.toNat).any fun i => decide (i.manifest.serves = false ∧
        hostNames withJob i = false ∧ Decl.job jobImage ∈ i.decls)) = true ∧ (job withJob 1).entry = jobImage.entry ∧
      jobDone (job withJob 1) = false ∧ (job withJob 1).state = .saved) := by decide +kernel
/-- Hypotheses of `Obligations.StartAndLoad`. -/
theorem test_meets_Loading :
    (hostFree state1 = true ∧ state1.load.op.busy = true ∧ state1.load.op.taken = none) ∧
    (hostFree lv = true ∧ lv.load.op.busy = false ∧ lv.load.op.taken = none ∧ Option.any (fun r => decide (r.code ≠ (4115 :
      Half))) (loadCheck lv ReadEnd.ok imageObject1) = true) ∧
    (hostFree lv = true ∧ lv.load.op.busy = false ∧ lv.load.op.taken = none ∧ loadCheck lv ReadEnd.ok lo = none) ∧
    (hostFree lv = true ∧ lv.load.op.busy = false ∧ tabFind? lv.load.images lv.load.index.toNat = none) ∧
    (hostFree lds = true ∧ lds.load.op.busy = false ∧ (Option.any (fun i => decide (i.manifest.serves = true ∧ ∃ e, e ∈
      lds.serve.requests ∧ e.snd.state ≠ ReqState.free)) (tabFind? lds.load.images lds.load.index.toNat) = true)) ∧
    (hostFree ldh = true ∧ ldh.load.op.busy = false ∧ (Option.any (fun i => decide ((i.manifest.serves = false ∨ ∀ (e : Nat ×
      Request), e ∈ ldh.serve.requests → e.snd.state = ReqState.free) ∧ hostNames ldh i = true)) (tabFind? ldh.load.images
      ldh.load.index.toNat) = true)) ∧
    (hostFree state4 = true ∧ state4.load.op.busy = false ∧ (Option.any (fun i => decide (i.manifest.serves = true ∧ (∀ (e : Nat
      × Request), e ∈ state4.serve.requests → e.snd.state = ReqState.free) ∧ hostNames state4 i = false)) (tabFind?
      state4.load.images state4.load.index.toNat) = true)) ∧
    (hostFree ldd = true ∧ ldd.load.op.busy = false ∧ (Option.any (fun i => decide (i.manifest.serves = false ∧ hostNames ldd i
      = false)) (tabFind? ldd.load.images ldd.load.index.toNat) = true)) ∧
    (lv.load.object = none) ∧
    (Option.any (fun o => decide (o.manifest.segments.any (segmentWaits state5) = true)) state5.load.object = true) ∧
    ((Option.any (fun o => decide (o.manifest.segments.any (segmentWaits lst) = false ∧ contentCheck (transferAll o lst)
      o.manifest = none)) lst.load.object = true)) ∧
    ((Option.any (fun o => decide (o.manifest.segments.any (segmentWaits lst2) = false ∧ (contentCheck (transferAll o lst2)
      o.manifest).isSome = true)) lst2.load.object = true)) :=
  by refine ⟨?_, ?_, ?_, ?_, ?_, ?_, ?_, ?_, ?_, ?_, ?_, ?_⟩ <;> decide +kernel
end Loading
end Sys2Proof.Tests
end

section
/-! SUPPORT. What a 4-byte REGISTER_READ that the port performs answers (R10, R12), and the identity registers (R3). -/
namespace Sys2Proof.Machine

/-- While the port performs host commands at once, the start has not stopped. -/
theorem not_stopped_of_hostFree {s : State} (h : hostFree s = true) : s.start.stopped = false := by
  unfold hostFree at h
  simp only [Bool.and_eq_true, Bool.not_eq_true'] at h
  obtain ⟨⟨⟨-, stopped⟩, -⟩, -⟩ := h
  exact stopped

/-- A free port performs REGISTER_READ at once: no register read waits for stacked memory. -/
theorem exec_registerRead_free (o : BitVec 24) (eight : Bool) {s : State} (h : hostFree s = true) :
    exec (.registerRead o eight) s = .next (registerRead o eight s) :=
  hostAccess_free (.registerRead o eight) h rfl

/-- An aligned 4-byte read answers the word that `readWord` finds, after the start. -/
theorem registerRead_word {o : BitVec 24} {s : State} (aligned : o.toNat % 4 = 0) (running : s.start.stopped = false) :
    registerRead o false s = answer (.data (leBytes 4 (readWord o.toNat s).1)) (readWord o.toNat s).2 := by
  simp [registerRead, regAccess, aligned, running]

/-- R10: only registers of the tiles clear on a read. -/
theorem readClears_outside_tiles {o : Nat} (h : o / 0x100000 < 4 ∨ 11 < o / 0x100000) (s : State) : readClears o s = s :=
  if_pos h

/-- R12: a 4-byte read in a slot of two 32-bit registers answers the one at its offset and latches nothing. -/
theorem readWord_narrow {o : Nat} (s : State) (window : o ≠ 0xF00000) (narrow : wide (o / 8 * 8) = false) :
    readWord o s = (if o % 8 = 0 then regRead s (o / 8 * 8) % 2 ^ 32 else regRead s (o / 8 * 8) / 2 ^ 32, readClears o s) := by
  simp [readWord, window, narrow]

/-- A free port answers an aligned 4-byte read of a 32-bit register outside the tiles with its word and leaves the rest of the
state. -/
theorem exec_registerRead_narrow {o : BitVec 24} {s : State} (h : hostFree s = true) (aligned : o.toNat % 4 = 0)
    (window : o.toNat ≠ 0xF00000) (narrow : wide (o.toNat / 8 * 8) = false)
    (place : o.toNat / 0x100000 < 4 ∨ 11 < o.toNat / 0x100000) :
    exec (.registerRead o false) s = .next { s with
      port.answer := .data (leBytes 4 (if o.toNat % 8 = 0 then regRead s (o.toNat / 8 * 8) % 2 ^ 32
        else regRead s (o.toNat / 8 * 8) / 2 ^ 32)) } := by
  rw [exec_registerRead_free o false h, registerRead_word aligned (not_stopped_of_hostFree h),
    readWord_narrow s window narrow, readClears_outside_tiles place]
  rfl

/-- R3: the first slot of the hub block holds the two identity words in every state. -/
theorem regRead_identity (s : State) : regRead s 0 = pair 0x4B578640 0x00414C00 := rfl

/-- The identity slot is two 32-bit registers. -/
theorem wide_identity : wide 0 = false := by decide

/-- Settles O39: both identity registers are 32-bit registers of the hub block, whose words no part of the state enters. -/
theorem identityRegisters : Obligations.IdentityRegisters := by
  intro s h
  constructor
  · have low : leBytes 4 (regRead s 0 % 2 ^ 32) = [0x40, 0x86, 0x57, 0x4B] := by rw [regRead_identity]; decide
    rw [exec_registerRead_narrow (o := 0) h (by decide) (by decide) wide_identity (by decide)]
    simpa using low
  · have high : leBytes 4 (regRead s 0 / 2 ^ 32) = [0x00, 0x4C, 0x41, 0x00] := by rw [regRead_identity]; decide
    rw [exec_registerRead_narrow (o := 4) h (by decide) (by decide) wide_identity (by decide)]
    simpa using high

end Sys2Proof.Machine
end

section
/-! SUPPORT. Stored sectors and the poison codeword: a stored sector reads back, how two poison codewords are decoded, what a
controller's read of them does (R109, R113). -/
namespace Sys2Proof.Machine

/-! A stored sector reads back. -/

/-- R8: the 32 bytes of a sector give its data again. -/
theorem sectorOfBytes_sectorBytes (d : BitVec 256) : sectorOfBytes (sectorBytes d) = d := by
  apply BitVec.eq_of_toNat_eq
  have small : d.toNat < 256 ^ 32 := by simpa using d.isLt
  rw [sectorOfBytes, sectorBytes, leValue_leBytes, Nat.mod_eq_of_lt small, BitVec.toNat_ofNat, Nat.mod_eq_of_lt d.isLt]

theorem storedData_setStored (n : Nat) (d : BitVec 256) (k : Quad) {s : State} (i : Inv s) :
    storedData (setStored n d k s) n = d := by
  obtain ⟨bytesWf, -⟩ := i
  have back := memReadN_memWriteL bytesWf (32 * n) (sectorBytes d)
  rw [sectorBytes, leBytes_length, ← sectorBytes] at back
  rw [setStored_only, storedData, back, sectorOfBytes_sectorBytes]

theorem storedChecks_setStored (n : Nat) (d : BitVec 256) (k : Quad) {s : State} (i : Inv s) :
    storedChecks (setStored n d k s) n = k := by
  obtain ⟨-, checksWf, -⟩ := i
  rw [setStored_only, storedChecks, tabGet_tabSet 0 checksWf, if_pos rfl]

/-- A channel in service stores a sector in its stored form, which reads back (R104, R109, R113). -/
theorem stored_putSector (n : Nat) (x : Sector) {s : State} (i : Inv s) (inService : (chan s (chanOfSector n)).failed = false) :
    (storedData (putSector n x s) n, storedChecks (putSector n x s) n) = storedForm x := by
  obtain ⟨failed, -⟩ | ⟨-, put⟩ := putSector_cases n x s
  · simp [inService] at failed
  · rw [put, storedData_setStored n _ _ i, storedChecks_setStored n _ _ i]

/-! The poison codeword. -/

theorem syndrome_poisonWord : syndrome 0 0xFFFF = ⟨0x0, 0xA, 0xC, 0xA⟩ := by decide

/-- R111: no single wrong symbol leaves the first part of a syndrome at zero. -/
theorem decodeWord_of_s0_zero {data : Quad} {check : Half} (wrong : syndrome data check ≠ ⟨0, 0, 0, 0⟩)
    (s0 : (syndrome data check).s0 = 0) : decodeWord data check = .uncorrectable := by
  simp only [decodeWord, if_neg wrong, if_pos s0]

theorem decodeWord_poisonWord : decodeWord 0 0xFFFF = .uncorrectable :=
  decodeWord_of_s0_zero (by rw [syndrome_poisonWord]; decide) (by rw [syndrome_poisonWord])

theorem storedForm_of_poison {x : Sector} (h : x.poison = true) : storedForm x = (0, BitVec.allOnes 64) := if_pos h

/-- Each quarter of the stored form of a poisoned sector is the poison codeword. -/
theorem isPoisonWord_zero_allOnes {k : Nat} (h : k < 4) : isPoisonWord 0 (BitVec.allOnes 64) k = true := by
  have each : ∀ k < 4, isPoisonWord 0 (BitVec.allOnes 64) k = true := by decide
  exact each k h

theorem isPoisonWord_putSector (n : Nat) {x : Sector} {s : State} (i : Inv s)
    (inService : (chan s (chanOfSector n)).failed = false) (poison : x.poison = true) {k : Nat} (h : k < 4) :
    isPoisonWord (storedData (putSector n x s) n) (storedChecks (putSector n x s) n) k = true := by
  have stored := stored_putSector n x i inService
  rw [storedForm_of_poison poison, Prod.mk.injEq] at stored
  obtain ⟨data, checks⟩ := stored
  rw [data, checks, isPoisonWord_zero_allOnes h]

/-- Two places of a sector's four make a sublist of them. -/
theorem pair_sublist_of_lt {j k : Nat} (hjk : j < k) (hk : k < 4) : List.Sublist [j, k] [0, 1, 2, 3] := by
  have each : ∀ k < 4, ∀ j < k, List.Sublist [j, k] [0, 1, 2, 3] := by decide
  exact each k hk j hjk

/-- R113: two poison codewords make a poisoned sector, with no codeword corrected and none uncorrectable. -/
theorem decodeSector_of_two_poisonWords {data : BitVec 256} {checks : Quad} {j k : Nat} (hjk : j < k) (hk : k < 4)
    (hj : isPoisonWord data checks j = true) (hk' : isPoisonWord data checks k = true) :
    decodeSector data checks = ⟨.poisoned, 0, false⟩ := by
  have two : 2 ≤ ([0, 1, 2, 3].filter (isPoisonWord data checks)).length := by
    simpa [hj, hk'] using ((pair_sublist_of_lt hjk hk).filter (isPoisonWord data checks)).length_le
  exact if_pos two

/-! A controller's read of a sector that is stored as poisoned. -/

/-- Over wires that all work, a read that corrects nothing changes nothing. -/
theorem readBeat_uncorrected {n : Nat} {s : State} (wires : openWires (chan s (chanOfSector n)) = [])
    (uncorrected : (decodeSector (storedData s n) (storedChecks s n)).corrected = 0) :
    readBeat n s = (decodeSector (storedData s n) (storedChecks s n), s) := by
  simp only [readBeat, onBeat_works _ _ _ wires, if_pos uncorrected]

/-- R113, R131: a sector found poisoned is delivered so at the first read, and the channel counts the delivery alone. -/
theorem ctlRead_poisoned {n : Nat} {s : State} (inService : (chan s (chanOfSector n)).failed = false)
    (wires : openWires (chan s (chanOfSector n)) = [])
    (found : decodeSector (storedData s n) (storedChecks s n) = ⟨.poisoned, 0, false⟩) :
    ctlRead n s =
      (.poisoned, onChan (chanOfSector n) (fun h => { h with poisonDelivered := h.poisonDelivered + 1 }) s) := by
  have beat : readBeat n s = (⟨.poisoned, 0, false⟩, s) := by rw [readBeat_uncorrected wires (by rw [found]), found]
  simp [ctlRead, inService, beat, Sector.poisoned]

/-- Settles O10: the syndrome's first part is zero, which no single wrong symbol leaves, the stored form of a poisoned sector
reads back as four poison codewords, and two of them end the decoding before any codeword is decoded. -/
theorem poisonCodeword : Obligations.PoisonCodeword := by
  refine ⟨syndrome_poisonWord, decodeWord_poisonWord, ?_, ?_, ?_⟩
  · intro s n x i inService poison k hk
    exact isPoisonWord_putSector n i inService poison hk
  · intro data checks j k hjk hk hj hk'
    exact decodeSector_of_two_poisonWords hjk hk hj hk'
  · intro s n j k inService wires hjk hk hj hk'
    rw [ctlRead_poisoned inService wires (decodeSector_of_two_poisonWords hjk hk hj hk'), chan_onChan_same]
    exact ⟨rfl, rfl, rfl, rfl⟩

end Sys2Proof.Machine
end

section
/-! SUPPORT. Poison marks of scratchpad sectors: what one write of bytes leaves of a sector's mark (R116, R224). -/
namespace Sys2Proof.Machine

/-! One mark. -/

/-- A sector's mark is read at the sector's own number. -/
theorem marked_sector (s : State) (k : Nat) : marked s (32 * k) = decide (k ∈ s.scratch.marks) := by
  simp [marked]

theorem marked_congr {s t : State} (h : t.scratch.marks = s.scratch.marks) (a : Nat) : marked t a = marked s a := by
  rw [marked, marked, h]

theorem marked_setMark (j k : Nat) (s : State) :
    marked (setMark (32 * j) s) (32 * k) = (decide (k = j) || marked s (32 * k)) := by
  simp [marked_sector, setMark, mem_setInsert]

theorem marked_clearMark (j k : Nat) (s : State) :
    marked (clearMark (32 * j) s) (32 * k) = (marked s (32 * k) && decide (k ≠ j)) := by
  simp [marked_sector, clearMark, mem_setErase]

/-! The sectors of one write. -/

/-- R224: the mark, `old` before it, that a write of `n` bytes at `a` leaves on a sector `k` that it touches. -/
def markAfter (m : Alias) (poison : Bool) (a n k : Nat) (old : Bool) : Bool :=
  poison || (old && !(m == .normal && decide (a ≤ 32 * k) && decide (32 * k + 32 ≤ a + n)))

/-- `markSectors` gives the sector at which it stands the mark of R224, leaves the others, and goes on. -/
theorem markSectors_succ (m : Alias) (poison : Bool) (a n f j : Nat) (s : State) :
    ∃ t, markSectors m poison a n (f + 1) j s = markSectors m poison a n f (j + 1) t ∧
      ∀ k, marked t (32 * k) = if k = j then markAfter m poison a n k (marked s (32 * k)) else marked s (32 * k) := by
  refine ⟨_, rfl, fun k => ?_⟩
  by_cases hk : k = j
  · subst hk
    rw [if_pos rfl, markAfter, Bool.and_assoc]
    split
    next poisoned => simp [marked_setMark, poisoned]
    next sound =>
      rw [Bool.not_eq_true] at sound
      split
      next clears => rw [marked_clearMark, sound, clears]; simp
      next keeps => rw [Bool.not_eq_true] at keeps; rw [sound, keeps]; simp
  · rw [if_neg hk]
    split
    · simp [marked_setMark, hk]
    · split
      · simp [marked_clearMark, hk]
      · rfl

/-- `markSectors` gives each of its `f` sectors from `j` on the mark of R224 and leaves all others. -/
theorem marked_markSectors (m : Alias) (poison : Bool) (a n f j k : Nat) (s : State) :
    marked (markSectors m poison a n f j s) (32 * k) =
      if j ≤ k ∧ k < j + f then markAfter m poison a n k (marked s (32 * k)) else marked s (32 * k) := by
  induction f generalizing j s with
  | zero => rw [markSectors, if_neg (by omega)]
  | succ f ih =>
    obtain ⟨t, step, first⟩ := markSectors_succ m poison a n f j s
    rw [step, ih, first]
    by_cases hk : k = j
    · rw [if_neg (by omega), if_pos hk, if_pos (by omega)]
    · simp only [if_neg hk, show (j + 1 ≤ k ∧ k < j + 1 + f) ↔ (j ≤ k ∧ k < j + (f + 1)) by omega]

/-! One write. -/

/-- R116, R223: where no byte is uncorrectable, writing the bytes alone changes no mark. -/
theorem marks_putBytes (m : Alias) (a : Nat) (bs : List Byte) {s : State} (clean : s.scratch.bad = []) :
    (putBytes m a bs s).scratch.marks = s.scratch.marks := by
  induction bs generalizing a s with
  | nil => rfl
  | cons b bs ih =>
    rw [putBytes, if_neg (by simp [clean]), ih]
    simp [clean, setErase]

/-- R229: counting the lines that a write reaches through R223's modes changes no mark. -/
theorem marks_countAlias (m : Alias) (a n : Nat) (s : State) :
    (countAlias m a n s).scratch.marks = s.scratch.marks := by
  unfold countAlias
  split <;> rfl

/-- R224: a write of bytes gives the sectors from its first byte's to its last byte's their mark, and leaves all others. -/
theorem marked_scratchPut (m : Alias) (poison : Bool) (a k : Nat) {bs : List Byte} {s : State} (nonempty : bs ≠ [])
    (clean : s.scratch.bad = []) :
    marked (scratchPut m poison a bs s) (32 * k) =
      if a / 32 ≤ k ∧ k ≤ (a + bs.length - 1) / 32 then markAfter m poison a bs.length k (marked s (32 * k))
      else marked s (32 * k) := by
  have size : 0 < bs.length := List.length_pos_iff.mpr nonempty
  have touched : (a / 32 ≤ k ∧ k < a / 32 + ((a + bs.length - 1) / 32 + 1 - a / 32)) ↔
      (a / 32 ≤ k ∧ k ≤ (a + bs.length - 1) / 32) := by omega
  rw [scratchPut, marked_congr (marks_countAlias ..), scratchSet, if_neg (by simpa using nonempty), marked_markSectors,
    marked_congr (marks_putBytes m a bs clean)]
  simp only [touched]

/-- Settles O32: the sectors that the write touches are those that `markSectors` goes through. -/
theorem scratchpadMarks : Obligations.ScratchpadMarks := by
  intro s m poison a k bs nonempty clean
  constructor
  · intro first last
    rw [marked_scratchPut m poison a k nonempty clean, if_pos ⟨first, last⟩, markAfter]
  · intro outside
    rw [marked_scratchPut m poison a k nonempty clean, if_neg (by omega)]

end Sys2Proof.Machine
end

section
/-! SUPPORT. Traffic that the port refuses: the AER message, the answer and the code of each refusal (R12, R367, R370). -/
namespace Sys2Proof.Machine

/-! The refusals themselves. -/

/-- R367: the refused write sends its AER message, is answered as an Unsupported Request and records 0x6001. -/
theorem bar0AccessError_write (s : State) :
    bar0AccessError true s = reportFree 0x6001 subjPort subjPort
      { s with port.sent := s.port.sent ++ [.aer .unsupported], port.answer := .unsupported } := rfl

/-- R367: the refused read is answered as an Unsupported Request and records 0x6001, with no AER message. -/
theorem bar0AccessError_read (s : State) :
    bar0AccessError false s = reportFree 0x6001 subjPort subjPort { s with port.answer := .unsupported } := rfl

/-- R12, R367: a read that is not aligned to its size is a BAR0 access error. -/
theorem registerRead_misaligned {o : BitVec 24} {eight : Bool} (misaligned : o.toNat % (if eight then 8 else 4) ≠ 0)
    (s : State) : registerRead o eight s = bar0AccessError false s := if_pos misaligned

/-- R12, R367: a write that is not aligned to its size is a BAR0 access error, whatever it carries. -/
theorem registerWrite_misaligned {o : BitVec 24} {eight : Bool} (misaligned : o.toNat % (if eight then 8 else 4) ≠ 0)
    (v : Quad) (ep : Bool) (s : State) : registerWrite o v eight ep s = bar0AccessError true s := if_pos misaligned

/-! Through a port that is free. -/

/-- A free port performs BAR0_ACCESS_ERROR at once. -/
theorem exec_bar0AccessError_free (write : Bool) {s : State} (h : hostFree s = true) :
    exec (.bar0AccessError write) s = .next (bar0AccessError write s) :=
  hostAccess_free (.bar0AccessError write) h rfl

/-- A misaligned write waits for no stacked memory: the register whose write starts a repair is aligned to both sizes. -/
theorem accessWaits_registerWrite_misaligned {o : BitVec 24} {eight : Bool}
    (misaligned : o.toNat % (if eight then 8 else 4) ≠ 0) (v : Quad) (ep : Bool) (s : State) :
    accessWaits (.registerWrite o v eight ep) s = false := by
  have notRepair : (o == 0x528) = false := by
    refine beq_eq_false_iff_ne.mpr fun repair => misaligned ?_
    subst repair
    cases eight <;> rfl
  rw [accessWaits, notRepair, Bool.false_and, Bool.false_and]

/-- A free port performs a misaligned write at once. -/
theorem exec_registerWrite_misaligned {o : BitVec 24} {eight : Bool}
    (misaligned : o.toNat % (if eight then 8 else 4) ≠ 0) (v : Quad) (ep : Bool) {s : State} (h : hostFree s = true) :
    exec (.registerWrite o v eight ep) s = .next (registerWrite o v eight ep s) :=
  hostAccess_free (.registerWrite o v eight ep) h (accessWaits_registerWrite_misaligned misaligned v ep s)

/-- Settles O42: what each refusal sends, answers and records holds by its definition, and a free port performs a misaligned
access at once, because no such access waits for stacked memory. -/
theorem refusedTraffic : Obligations.RefusedTraffic := by
  intro s
  refine ⟨fun _ => rfl, rfl, fun h => ⟨?_, ?_, fun o eight misaligned => ⟨?_, fun v ep => ?_⟩⟩⟩
  · rw [exec_bar0AccessError_free true h, bar0AccessError_write]
  · rw [exec_bar0AccessError_free false h, bar0AccessError_read]
  · rw [exec_registerRead_free o eight h, exec_bar0AccessError_free false h, registerRead_misaligned misaligned]
  · rw [exec_registerWrite_misaligned misaligned v ep h, exec_bar0AccessError_free true h,
      registerWrite_misaligned misaligned]

end Sys2Proof.Machine
end
